-- ==== Sys2Proof/Word.lean ====
section
/-!
DEFINITION. The word types of the LH8120 and the names of its numbered units.

Bit vectors stand for what the manual treats as bits (register words, angles, message
fields, memory bytes); a unit of the hardware (region, port, slot, channel, …) is a `Fin`
of the manual's count (spec/00_scope.md R6, spec/01_architecture.md, spec/10_links.md R283).
-/

namespace Sys2Proof

/-- One byte of memory, of a message or of a queue entry. -/
abbrev Byte := BitVec 8

/-- A 32-bit register or table word (spec/17_register_summary.md R455). -/
abbrev Word := BitVec 32

/-- A 64-bit scalar register or instruction word (spec/06_engine_isa.md R151). -/
abbrev DWord := BitVec 64

/-- An orbit angle, a fraction of one turn, modulo 2^32 (spec/00_scope.md R11). -/
abbrev Angle := BitVec 32

/-- A 256-bit digest or tag. -/
abbrev Digest := BitVec 256

/-- Region die 0 to 3. -/
abbrev Region := Fin 4

/-- Fabric port (or lane) 0 to 511 (R283). -/
abbrev Port := Fin 512

/-- Host port 0 to 7; 0 to 3 are network A, 4 to 7 network B (R301). -/
abbrev HostPort := Fin 8

/-- Job slot 0 to 1,023 (R86). -/
abbrev JobSlot := Fin 1024

/-- Session slot 0 to 15 (R340). -/
abbrev Sess := Fin 16

/-- Memory channel 0 to 127 (R307). -/
abbrev Channel := Fin 128

/-- Memory block 0 to 31 (R307). -/
abbrev MemBlk := Fin 32

/-- Compute block 8 * region + n (R456). -/
abbrev Cpb := Fin 32

/-- Instruction stream of a compute block (R151). -/
abbrev StreamIx := Fin 4

/-- Slice table index (R125). -/
abbrev SliceIx := Fin 4096

/-- Modulo-2^16 difference of two mark indices (R252). -/
def markDiff (j m : BitVec 16) : Nat := (j - m).toNat

/-- A table keyed by a natural number: key and value pairs, keys strictly rising, no pair
that holds the value an unlisted key reads as. -/
abbrev Tbl (α : Type) := List (Nat × α)

/-- Byte-addressed memory (spec/11_memory.md); a key is channel * 2^35 + channel-local address. -/
abbrev Memory := Tbl Byte

end Sys2Proof
end

