-- ==== Sys2Proof/Syntax.lean ====
section
/-!
DEFINITION. The commands of the LH8120: one constructor of `Instr` per row of
spec/opcode_table.json, with the operands that the rule of the row names.

A command is one thing that happens to the module: a message or frame that arrives, an
event on a pin, a register access of a session, or one whole step of an engine inside it.
What only physics or cryptography decides (a figure of merit, a sensor reading, whether a
signature verifies) is an operand.
-/

namespace Sys2Proof

/-- A Ralow message as it arrives (spec/12_control_plane.md R336, R337, R342): the host port, the source address and UDP
port as one number, the destination UDP port, the 16 bytes of its header with byte 0 highest, the bytes between header and
tag, and whether the datagram is no IP fragment and its tag verifies. -/
structure RalowIn where
  port : HostPort
  src : Nat
  dport : BitVec 16
  header : BitVec 128
  bodyLen : Nat
  whole : Bool
  tagOk : Bool
  deriving DecidableEq, Repr

/-- `w` bits of the header of a message from bit `lo` of its byte `b` down to byte `e` (R337: big-endian). -/
def RalowIn.fld (m : RalowIn) (e lo w : Nat) : BitVec w := m.header.extractLsb' (8 * (15 - e) + lo) w

/-- `version` (R337). -/
def RalowIn.version (m : RalowIn) : BitVec 4 := m.fld 0 4 4

/-- `mirror` (R337). -/
def RalowIn.mirror (m : RalowIn) : Bool := m.fld 1 1 1 == 1

/-- `length` (R337). -/
def RalowIn.length (m : RalowIn) : BitVec 16 := m.fld 3 0 16

/-- `slot` (R337). -/
def RalowIn.slot (m : RalowIn) : Sess := (m.fld 4 0 4).toFin

/-- `epoch` (R337). -/
def RalowIn.epoch (m : RalowIn) : BitVec 24 := m.fld 7 0 24

/-- `seq` (R337). -/
def RalowIn.seq (m : RalowIn) : Word := m.fld 11 0 32

/-- The reserved bits of the header are 0 (R337). -/
def RalowIn.reservedOk (m : RalowIn) : Bool := m.fld 1 2 6 == 0 && m.fld 4 4 4 == 0

/-- The datagram is whole, of the header's length and of no body beyond 8,192 bytes (R336, R337), and of version 1
(DESIGN CHOICE, notes/assumptions/123.md). -/
def RalowIn.sizeOk (m : RalowIn) : Bool := m.whole && m.length.toNat == m.bodyLen && decide (m.bodyLen ≤ 8192) && m.version == 1

/-- A HANDSHAKE message (spec/13_security.md R380): host port, source, destination UDP port, the header's slot, the
host-chosen identifier `hs`, whether its parts are complete and in order, and its payload. -/
structure HandshakeIn where
  port : HostPort
  src : Nat
  dport : BitVec 16
  slot : Sess
  hs : Word
  partsOk : Bool
  payload : List Byte
  deriving DecidableEq, Repr

/-- What checking a HOST_AUTH finds (R381, R382): the chain is well formed, the chain lies
within its validity, the digest of the key it ends at, whether it is one self-signed
certificate, the signature over T3, and the role extension of the leaf. -/
structure AuthVerdict where
  chainOk : Bool
  validNow : Bool
  rootKey : Digest
  selfSigned : Bool
  sigOk : Bool
  role : Option Nat
  deriving DecidableEq, Repr

/-- What checking a staged firmware image and the flash find (R376, R383). -/
structure UpdateVerdict where
  keyOk : Bool
  sigOk : Bool
  flashOk : Bool
  deriving DecidableEq, Repr

/-- What the boot ROM finds (R374, R378, R379): PUF reconstruction, the signature of each
bank's image, the tags of the flash records, and whether REFCLK carries a valid clock. -/
structure BootVerdict where
  pufOk : Bool
  sigOk0 : Bool
  sigOk1 : Bool
  netTagOk : Bool
  badTags : BitVec 4
  torn : Bool
  refclkOk : Bool
  deriving DecidableEq, Repr

/-- A frame as a fabric port receives it: its bytes from the destination MAC up to but not
including the FCS, and whether its codewords (R300) and its FCS were good. -/
structure Arrival where
  port : Port
  bytes : List Byte
  fecOk : Bool
  fcsOk : Bool
  deriving DecidableEq, Repr

/-- An event of a mark source (spec/09_orbit_and_gates.md R247, R249): `pulses` on ORBIT_IN,
or an ordered set with index, stratum and delay on a fabric port. -/
inductive OrbitIn where
  | pin (pulses : Nat)
  | os (port : Port) (index : BitVec 16) (stratum : BitVec 4) (delay : BitVec 12)
  deriving DecidableEq, Repr

/-- Whether a matrix-cell command is issued by a stream into the accumulator's buffer, or run
by the cell from the head of that buffer (spec/06_engine_isa.md R155). -/
inductive CellPhase where
  | issue (stream : StreamIx)
  | run (cell : Fin 8) (acc : Fin 4)
  deriving DecidableEq, Repr

/-- The target of a calibration window (R268). -/
inductive CalTarget where
  | port (p : Port)
  | channel (c : Channel)
  deriving DecidableEq, Repr

/-- The disruptive calibration steps (R293, R326), for a port with the lane of the block. -/
inductive CalStep where
  | dfeReseed (lane : Fin 8)
  | tapRenegotiation (lane : Fin 8)
  | eyeScan (lane : Fin 8)
  | dqRetrain
  | fullRetrain
  deriving DecidableEq, Repr

/-- The physical outcome of a calibration step: whether it succeeded and, for a lane, its
figure of merit afterwards. -/
structure CalResult where
  ok : Bool
  fom : Byte
  deriving DecidableEq, Repr

/-- What takes a port in UP down (R295). -/
inductive LinkFaultCause where
  | lossOfSignal
  | lossOfLock
  | hiSer (uncorrected : Nat)
  deriving DecidableEq, Repr

/-- What wakes a quiet transmit direction (R299). -/
inductive WakeCause where
  | frameEnqueued
  | flowControlDue
  | calLead
  | linkRetrain
  | registerWrite
  deriving DecidableEq, Repr

/-- A frame on a host port that is neither Ralow nor PTP (R301). -/
inductive HostFrame where
  | arpRequest (target : Word)
  | neighbourSolicitation (target : BitVec 128)
  | icmp6Echo (dest : BitVec 128)
  | icmp4Echo (dest : Word)
  | other
  | badFcs
  | uncorrectable
  deriving DecidableEq, Repr

/-- A PTP event or general message as the slave-only clock sees it (R279, R302): the times in
ns since the PTP epoch that the master's messages carry, and whether the message came over IPv6. -/
inductive PtpIn where
  | sync (v6 : Bool) (domain : Byte) (t1 : Nat)
  | delayResp (v6 : Bool) (domain : Byte) (t4 : Nat)
  | announce (v6 : Bool) (domain : Byte)
  deriving DecidableEq, Repr

/-- A clock fault (R438): the reference stopped, or a generated domain lost lock. -/
inductive ClockFault where
  | reference
  | domain (d : Fin 18)
  deriving DecidableEq, Repr

/-- One read of the 100 sensors (R432), in 1/16 degree, `none` for a failed self-check; and the
1 ms averages of the input in 10 mV, 10 mA and W. -/
structure SensorReadings where
  temps : List (Option Int)
  vin : BitVec 16
  iin : BitVec 16
  pin : BitVec 16
  deriving DecidableEq, Repr

/-- A field that firmware moves in Autonomous mode (R450). -/
inductive PolicyField where
  | weight (pset : Fin 4096) (member : Fin 16)
  | gateOff (entry : Fin 32768)
  | calStart (entry : JobSlot)
  | rstCur (region : Region) (slot : JobSlot)
  | reqCur (region : Region) (pool : Fin 6) (req : Fin 4096)
  deriving DecidableEq, Repr

/-- A block of the register map (spec/17_register_summary.md R456), by prefix and instance. -/
inductive BlockRef where
  | fab (b : Fin 64)
  | cpb (b : Fin 32)
  | mem (b : Fin 32)
  | rdx (b : Fin 16)
  | swc (r : Region)
  | rst (r : Region)
  | cmt (r : Region)
  | rgc (r : Region)
  | hst
  | orb
  | mgt
  | sec
  | flt
  | pwr
  | clk
  deriving DecidableEq, Repr

/-- The table window data registers of the RGC page (R89, R150, R335). -/
inductive TableReg where
  | job
  | group (w : Fin 4)
  | memberLo
  | memberHi
  | plan
  | slice
  | window
  deriving DecidableEq, Repr

/-- What a pause timer stops: a class of an edge port, a class and VC of a port with an LH8120
peer, or a host port (R225, R286). -/
inductive PausedPort where
  | cls (port : Port) (tc : Fin 8) (vc : Fin 2)
  | host (port : HostPort)
  deriving DecidableEq, Repr

/-- The commands: one constructor per row of spec/opcode_table.json. -/
inductive Instr where
  /-- HOST_HELLO (R381). A HANDSHAKE HOST_HELLO claims the lowest free session slot and is answered with DEV_HELLO, or with REFUSE. -/
  | hostHello (h : HandshakeIn)
  /-- HOST_AUTH (R381). A HANDSHAKE HOST_AUTH has its chain and signature verified; the session then opens with a role and DEV_FINISH is sent, or REFUSE is sent and the slot is freed. -/
  | hostAuth (h : HandshakeIn) (v : AuthVerdict)
  /-- HANDSHAKE_TIMEOUT (R381). A slot still in handshake 2 s after its HOST_HELLO is freed with SEC_TIMEOUT. -/
  | handshakeTimeout (slot : Sess)
  /-- REG_BATCH (R347). A REG_BATCH is checked by R342 and by its layout, then executes its register operations in order; it stops at the first UNMAPPED, DENIED or FENCED status and is answered with one REPLY. -/
  | regBatch (m : RalowIn) (body : List Byte)
  /-- MEM_READ (R352). A JOB_CONTROLLER reads up to 8,192 bytes of a window by table index, subject to the window checks of R351; the data returns in the REPLY. -/
  | memRead (m : RalowIn) (body : List Byte)
  /-- MEM_WRITE (R352). A JOB_CONTROLLER writes whole 16-byte words into a window, subject to the checks of R351; the REPLY follows once every byte can be read back. -/
  | memWrite (m : RalowIn) (body : List Byte)
  /-- JOB_ARM (R91). The job arm command runs the arming checks in order, computes the configuration digest, locks the bound registers and enters ARMED, or rejects the job with the code of the first failing check. -/
  | jobArm (m : RalowIn) (n : Nat) (ops : List Word)
  /-- JOB_RETIRE (R93). The job retire command, in finish or abort mode, takes an ARMED or RUNNING job to DRAINING, or takes a DEFINED job to RETIRED at once. -/
  | jobRetire (m : RalowIn) (n : Nat) (ops : List Word)
  /-- GROUP_LOAD (R354). The group load command reads the whole image from a window, then writes group and member entries into all copies, or writes nothing and returns an error code. -/
  | groupLoad (m : RalowIn) (n : Nat) (ops : List Word)
  /-- PROGRAM_LOAD (R197). The program load command is checked against the job state, the window and the region, and is then queued for verification. -/
  | programLoad (m : RalowIn) (n : Nat) (ops : List Word)
  /-- PROGRAM_VERIFY (R198). Gliel verifies the next queued image for a block by the rules of R191 and places it, or completes the load chit with a rejection code. -/
  | programVerify (cpb : Cpb)
  /-- MEMORY_FILL (R323). The memory fill command writes a 64-bit pattern over a window range in whole words, then completes with a status. -/
  | memoryFill (m : RalowIn) (n : Nat) (ops : List Word)
  /-- MEMORY_COPY (R323). The memory copy command copies a range between windows as if through a buffer, then completes with a status. -/
  | memoryCopy (m : RalowIn) (n : Nat) (ops : List Word)
  /-- MEMORY_CHECKPOINT (R142). The memory checkpoint command resolves the image step and writes the manifest word with state 0. -/
  | memoryCheckpoint (m : RalowIn) (n : Nat) (ops : List Word)
  /-- CHECKPOINT_SLICE_COPY (R142). Once a slice's image generation is committed, the slice is copied into the checkpoint image in index order; after the last slice, the records and the complete manifest word are written and the command completes. -/
  | checkpointSliceCopy (chit : Word)
  /-- FIRMWARE_UPDATE (R383). The firmware update command checks the staged image, writes it into the inactive bank, reads it back and writes the commit record last. -/
  | firmwareUpdate (m : RalowIn) (n : Nat) (ops : List Word) (v : UpdateVerdict)
  /-- LINK_RETRAIN (R296). The link retrain command takes a port down and restarts bring-up from CAP or from STEP3; it completes when the port reaches UP or FAILED. -/
  | linkRetrain (m : RalowIn) (n : Nat) (ops : List Word)
  /-- TABLE_SWAP (R238). The table swap command compares the banks and holds frames of the selected classes that hit affected entries; with mode 1 it only checks. -/
  | tableSwap (m : RalowIn) (n : Nat) (ops : List Word)
  /-- TABLE_SWAP_EXCHANGE (R238). When the affected descriptors have drained, the banks are exchanged on all regions in one SWITCH cycle and the held frames are looked up anew. -/
  | tableSwapExchange
  /-- SWAP_TIMEOUT (R239). A drain that does not end within the limit in marks releases the hold and leaves the banks unchanged. -/
  | swapTimeout
  /-- ATTESTATION_REPORT (R387). The attestation report command builds a signed report in the session's report buffer. -/
  | attestationReport (m : RalowIn) (n : Nat) (ops : List Word)
  /-- ACK (R359). An ACK acknowledges completion records of chits, stopping their resends on both networks. -/
  | ack (m : RalowIn) (body : List Byte)
  /-- CLOSE (R344). A received CLOSE closes the session; its long commands keep running. -/
  | close (m : RalowIn) (body : List Byte)
  /-- SESSION_IDLE_TIMEOUT (R344). A session with no accepted message for the idle time closes, and CLOSE is sent with reason idle. -/
  | sessionIdleTimeout (slot : Sess)
  /-- COMPLETION_RESEND (R359). An unacknowledged completion record is resent at each retry interval, up to the set number of tries. -/
  | completionResend (chit : Word) (rseq : Byte)
  /-- COMPLETION_HOLD_EXPIRY (R360). The home unit of an unacknowledged final record returns to P3 after the hold time. -/
  | completionHoldExpiry (chit : Word)
  /-- TELEMETRY_STROBE (R275). At each selected mark, every block latches its performance counters into telemetry stream 1. -/
  | telemetryStrobe
  /-- CONTRIB (R74). An arriving CONTRIB passes the frame and LFP checks, then the home-region checks; it sets its arrival bit and is queued to the cell, or a relay row sends it on as RESULT. -/
  | contrib (a : Arrival)
  /-- PARTIAL (R68). An arriving PARTIAL from a leaf is checked like a CONTRIB, a malformed one is dropped whole, and its elements are queued as addends. -/
  | partialMsg (a : Arrival)
  /-- GRANT (R101). A parent's plain GRANT reaches a leaf; when the chunk is complete, the leaf sends its PARTIAL messages. -/
  | grant (a : Arrival)
  /-- OPEN_NOTICE (R105). A leaf coordinator receives an open notice, opens the instance with its own deadline and forwards the notice. -/
  | openNotice (a : Arrival)
  /-- READY_NOTICE (R107). A ready notice from a contributor is recorded, and can let the instance seal or become ready. -/
  | readyNotice (a : Arrival)
  /-- SEAL_NOTICE (R106). A leaf coordinator receives the parent's seal notice, marks the instance sealed, releases its chunk records and forwards the notice. -/
  | sealNotice (a : Arrival)
  /-- ABANDON_NOTICE (R108). An abandon notice from the parent or a contributor abandons the open instance with PARENT_ABANDON or CHILD_ABANDON. -/
  | abandonNotice (a : Arrival)
  /-- COMET_C (R113). A COMET_C passes the Comet checks and is added exactly into its slot; the round opens on the first accepted message. -/
  | cometC (a : Arrival)
  /-- COMET_TIMEOUT (R115). A round open for the timeout in marks is abandoned, and COMET_R is sent with abandon set. -/
  | cometTimeout (region : Region) (index : JobSlot)
  /-- WIN_READ (R147). A WIN_READ passes the window checks, or is refused with a status, and is queued to the window engine. -/
  | winRead (a : Arrival)
  /-- WIN_REPLY (R149). The window engine reads one piece of up to 8,192 bytes once and sends it as WIN_REPLY to the requester or the reply group; the last piece carries seal. -/
  | winReply (region : Region)
  /-- WIN_WRITE (R148). A WIN_WRITE passes the window checks, or is refused, and writes whole 16-byte words. -/
  | winWrite (a : Arrival)
  /-- WIN_WRITE_ACK (R148). Once every byte of a WIN_WRITE with seal can be read back, an acknowledgement is sent. -/
  | winWriteAck (region : Region)
  /-- BEACON (R250). A received BEACON LFP message records the master identity and turn of its source; a foreign master raises master_conflict. -/
  | beacon (a : Arrival)
  /-- BEACON_SEND (R250). At each passage of perihelion, a LOCKED module sends a BEACON message on every beacon port. -/
  | beaconSend
  /-- DISCOVER (R445). A received DISCOVER is delivered to the management complex, which fills the FAB_DISC registers and sets the peer lh bit. -/
  | discover (a : Arrival)
  /-- DISCOVER_SEND (R444). A port in UP sends DISCOVER on entering UP and then once a second. -/
  | discoverSend (port : Port)
  /-- FRAME_FORWARD (R212). An arriving frame that is not terminated passes the ingress judgement, then has its cells claimed, its hop count decremented, its path chosen and is enqueued for egress. -/
  | frameForward (a : Arrival)
  /-- MAINTENANCE_FRAME (R211). A UDP frame to the LFP port plus 1 is terminated by the receiving port block as TC7. -/
  | maintenanceFrame (a : Arrival)
  /-- PFC_FRAME (R225). A received IEEE 802.1Qbb PFC frame stops or resumes the classes it names, except those it is ignored for. -/
  | pfcFrame (a : Arrival)
  /-- CLASS_VC_FLOW_CONTROL (R225). A received per-class-and-VC flow-control frame from a peer LH8120 sets or clears the stop timers of lossless classes. -/
  | classVcFlowControl (a : Arrival)
  /-- FLOW_CONTROL_REFRESH (R225). A stop in force is refreshed before half of its timer has passed. -/
  | flowControlRefresh (port : Port)
  /-- FRAME_BUILD (R235). A module unit that has claimed egress descriptors and P0 cells stores a frame once and enqueues one copy per target. -/
  | frameBuild (region : Region)
  /-- FRAME_START (R277). A head frame starts on an egress port when no window holds the port and its gate, guard band and shaper allow it, after arbitration. -/
  | frameStart (port : Port)
  /-- FRAME_TX_END (R236). A copy has left; the reference count falls, and the cells return to P0 after the last copy. -/
  | frameTxEnd (port : Port)
  /-- BUCKET_REFILL (R276). Every 1,000 PHASE cycles the policer and shaper buckets are refilled and capped. -/
  | bucketRefill
  /-- MARK (R252). A MARK from a usable source, on a port or on ORBIT_IN, is applied to the interpolator; it can update the interval estimate, count a slip and move the lock state. -/
  | mark (e : OrbitIn)
  /-- HOLD (R253). A HOLD applies its mark exactly and freezes the angle in HELD. -/
  | hold (e : OrbitIn)
  /-- RESUME (R253). A RESUME leaves HELD and sets the travel since the mark. -/
  | resume (e : OrbitIn)
  /-- PROBE (R248). A received PROBE is answered with an ECHO carrying the turnaround time. -/
  | probe (port : Port) (index : BitVec 16) (delay : BitVec 12)
  /-- PROBE_SEND (R248). A beacon port sends a PROBE at each 256th mark, or every 1 ms while unlocked. -/
  | probeSend (port : Port)
  /-- ECHO (R248). A received ECHO yields a round-trip measurement that updates the averaged one-way delay of the source. -/
  | echo (port : Port) (index : BitVec 16) (delay : BitVec 12)
  /-- CAL_ENTER (R269). A peer receiving CAL_ENTER finishes its frame, sends CAL_ACK, and holds every class and its beacons towards the port. -/
  | calEnter (port : Port)
  /-- CAL_ACK (R269). A received CAL_ACK permits disruptive steps in the port's window. -/
  | calAck (port : Port)
  /-- CAL_EXIT (R269). A received CAL_EXIT releases the peer's hold, and the gates follow the list again. -/
  | calExit (port : Port)
  /-- MASTER_MARK (R255). On the master, an interval expires: the next mark passes and is sent, the interval slews towards its target, or HOLD is sent at a boundary while hold is set. -/
  | masterMark
  /-- SOURCE_LOSS (R261). A source that has delivered no event for loss_marks intervals is lost; the block switches to the next usable source or enters LOST. -/
  | sourceLoss
  /-- DEADLINE (R23). At the passage of an instance's deadline, late contributions are dropped; the instance is sealed, becomes ready, or is abandoned with DEADLINE. -/
  | deadline (slot : JobSlot)
  /-- JOB_START (R90). The first passage of the arm start angle takes an ARMED job to RUNNING, opens its first instance and starts its program streams. -/
  | jobStart (slot : JobSlot)
  /-- CHUNK_ADMIT (R72). A waiting chunk is admitted once the pool test allows its P1 entries and P4 blocks, and its entries are initialised. -/
  | chunkAdmit (region : Region)
  /-- GRANT_RELEASE (R274). The GRANTs of an admitted chunk are released once pacing and backlog allow, one to each contributor. -/
  | grantRelease (region : Region) (slot : JobSlot)
  /-- ADDEND_ACCUMULATE (R58). A lane checks the tag and residue of an entry and adds one queued addend exactly into it. -/
  | addendAccumulate (region : Region) (cell : Fin 16) (lane : Fin 16)
  /-- JOB_DRAIN_END (R93). When no chunk record, message, program or pool resource of a DRAINING job remains, it becomes RETIRED and its final record is made. -/
  | jobDrainEnd (slot : JobSlot)
  /-- FEED_OPEN (R132). Once the previous instance's last record is pushed, and no checkpoint holds the area, the OPEN record of the instance is pushed into feedq. -/
  | feedOpen (slice : SliceIx)
  /-- FEED_DELIVER (R130). A finished chunk is written into its unit buffer once the buffer is free; the UNIT record is pushed when the unit is complete. -/
  | feedDeliver (slice : SliceIx) (chunk : BitVec 24)
  /-- COMMIT_WORD_WRITE (R135). With a valid request, the seal reported and earlier stores written, the commit gate writes the new commit word and pushes COMMITTED. -/
  | commitWordWrite (slice : SliceIx)
  /-- PARAM (R140). The distribution builder cuts distq bytes into PARAM messages of the committed generation and multicasts them to dgroup. -/
  | param (slice : SliceIx)
  /-- NOP (R164). The stream issues NOP and does nothing. -/
  | nop (cpb : Cpb) (stream : StreamIx)
  /-- HALT (R205). The stream stops; the set stops when every stream has halted, and a stop completion is sent. -/
  | halt (cpb : Cpb) (stream : StreamIx)
  /-- JMP (R167). The stream jumps to target, within the branch scope. -/
  | jmp (cpb : Cpb) (stream : StreamIx)
  /-- BR (R167). The stream compares two scalars, or a scalar and an immediate, and branches when the condition holds. -/
  | br (cpb : Cpb) (stream : StreamIx)
  /-- LOOP (R168). The stream latches a count and runs a hardware loop body count times. -/
  | loop (cpb : Cpb) (stream : StreamIx)
  /-- SET (R169). After the stream's earlier transfers complete, the flag is set, waking a waiting stream. -/
  | set (cpb : Cpb) (stream : StreamIx)
  /-- CLEAR (R169). The stream clears a flag. -/
  | clear (cpb : Cpb) (stream : StreamIx)
  /-- WAIT (R169). The stream waits until a flag is set, and optionally clears it on wake. -/
  | wait (cpb : Cpb) (stream : StreamIx)
  /-- FENCE (R169). The stream waits until all of its issued transfers are complete. -/
  | fence (cpb : Cpb) (stream : StreamIx)
  /-- MODE (R170). The stream sets its ftz bit. -/
  | mode (cpb : Cpb) (stream : StreamIx)
  /-- ALU (R166). The stream writes Sd with a 64-bit function of two scalars. -/
  | alu (cpb : Cpb) (stream : StreamIx)
  /-- ALUI (R166). The stream writes Sd with a 64-bit function of a scalar and a sign-extended immediate. -/
  | alui (cpb : Cpb) (stream : StreamIx)
  /-- LIDX (R168). The stream reads the iteration index of an active loop into Sd. -/
  | lidx (cpb : Cpb) (stream : StreamIx)
  /-- QRD (R166). The stream reads 8 bytes of a queue's head entry into Sd, waiting while the queue is empty. -/
  | qrd (cpb : Cpb) (stream : StreamIx)
  /-- QPOP (R166). The stream pops a queue's head entry whole, which can free a unit buffer. -/
  | qpop (cpb : Cpb) (stream : StreamIx)
  /-- QCLOSE (R157). The stream pushes the queue's open tail entry if it holds any bytes. -/
  | qclose (cpb : Cpb) (stream : StreamIx)
  /-- SLD (R161). The stream loads 8 bytes through an address generator into a scalar register. -/
  | sld (cpb : Cpb) (stream : StreamIx)
  /-- SST16 (R161). The stream stores two scalars as one 16-byte word; a store to the commit request is checked by R134. -/
  | sst16 (cpb : Cpb) (stream : StreamIx)
  /-- AGBASE (R160). The stream sets a generator's space, base and granule and clears its counters, waiting while its engine is busy. -/
  | agbase (cpb : Cpb) (stream : StreamIx)
  /-- AGDIM (R160). The stream sets the count and stride of one generator dimension and clears its counters. -/
  | agdim (cpb : Cpb) (stream : StreamIx)
  /-- LD (R161). The stream hands n granule loads into a queue to an address generator. -/
  | ld (cpb : Cpb) (stream : StreamIx)
  /-- ST (R161). The stream hands n granule stores from a queue to an address generator. -/
  | st (cpb : Cpb) (stream : StreamIx)
  /-- AG_GRANULE_TRANSFER (R162). A transfer engine checks one granule and moves it when its queue has bytes or room, or raises an exception. -/
  | agGranuleTransfer (cpb : Cpb) (ag : Fin 8)
  /-- VOP (R171). The stream issues a lane-wise vector function of queues. -/
  | vop (cpb : Cpb) (stream : StreamIx)
  /-- VOPS (R171). The stream issues a vector function with a scalar in place of b. -/
  | vops (cpb : Cpb) (stream : StreamIx)
  /-- VRED (R172). The stream issues a fixed-tree sum of 256 lanes. -/
  | vred (cpb : Cpb) (stream : StreamIx)
  /-- VUNPK (R173). The stream issues a decode of 256 elements to FP32. -/
  | vunpk (cpb : Cpb) (stream : StreamIx)
  /-- VCVT (R174). The stream issues a fused conversion of 256 lanes through a descriptor. -/
  | vcvt (cpb : Cpb) (stream : StreamIx)
  /-- VECTOR_OPERATION (R155). The vector unit runs one ready vector operation whose sources and destinations are ready, and pushes its result. -/
  | vectorOperation (cpb : Cpb) (stream : StreamIx)
  /-- MMA (R175). The stream issues a matrix multiply-accumulate of repeat K-group steps. -/
  | mma (cpb : Cpb) (stream : StreamIx)
  /-- MMAT (R176). The stream issues an MMA with transposed operand panels. -/
  | mmat (cpb : Cpb) (stream : StreamIx)
  /-- KGROUP_STEP (R177). A matrix cell pops one panel pair, once available, and adds its group sums into the accumulator. -/
  | kgroupStep (cpb : Cpb) (cell : Fin 8) (acc : Fin 4)
  /-- RELEASE (R181). Once earlier instructions for the accumulator are complete, it is read, raw or converted, and pushed to a queue, optionally zeroing it. -/
  | release (cpb : Cpb) (phase : CellPhase)
  /-- ZACC (R180). The accumulator is set to +0 in the chosen mode and its flags are cleared. -/
  | zacc (cpb : Cpb) (phase : CellPhase)
  /-- ACCLD (R180). The accumulator is restored from 8,192 queue bytes in the chosen mode. -/
  | accld (cpb : Cpb) (phase : CellPhase)
  /-- WAIT_TIMEOUT (R204). A stream's wait counter reaches wait_tmo marks, and it raises WAIT_TIMEOUT. -/
  | waitTimeout (cpb : Cpb) (stream : StreamIx)
  /-- PROGRAM_SET_FINISH (R205). In a finish-mode retire, once the last instance has ended, every distribution port has closed and one whole mark has passed with no instruction issued, the set stops. -/
  | programSetFinish (cpb : Cpb) (slot : JobSlot)
  /-- GATE_ENTRY_PASSAGE (R263). The passage of a gate entry's offset changes the port's open classes. -/
  | gateEntryPassage (port : Port)
  /-- GATE_SWAP (R264). At the passage of the scheduled angle, the port's gate banks are exchanged. -/
  | gateSwap (port : Port)
  /-- CAL_WINDOW_LEAD (R269). At the window start minus the lead, the port sends CAL_ENTER; an edge port sends PFC stop and withholds grants instead. -/
  | calWindowLead (entry : JobSlot)
  /-- CAL_WINDOW_OPEN (R268). A calibration window opens, or is skipped if one is already open for the target. -/
  | calWindowOpen (entry : JobSlot)
  /-- CAL_STEP_START (R270). A requested disruptive step starts once its window is open, CAL_ACK has arrived and enough angle remains. -/
  | calStepStart (target : CalTarget) (kind : CalStep)
  /-- CAL_STEP_DONE (R270). A disruptive calibration step completes after its duration. -/
  | calStepDone (target : CalTarget) (r : CalResult)
  /-- CAL_WINDOW_END (R269). A window ends; once the link carries data, CAL_EXIT is sent. -/
  | calWindowEnd (entry : JobSlot)
  /-- CAL_RECOVERY_TIMEOUT (R294). A port not back in UP 10 ms after its window ends raises cal_fail and returns to CAP. -/
  | calRecoveryTimeout (port : Port)
  /-- CMAP_SAMPLE (R240). At every mark the egress depths are binned into the congestion map counters. -/
  | cmapSample (region : Region)
  /-- CMAP_EXPORT (R241). At every 2^turns_log-th perihelion, the map is frozen, sent as telemetry stream 2 and cleared. -/
  | cmapExport (region : Region)
  /-- STATUS_WORD (R288). A received bring-up status word is recorded; after 16 ready words both ways, the port moves to the next state. -/
  | statusWord (lane : Port) (word : BitVec 56) (fom : Byte)
  /-- BRINGUP_STATE_TIMEOUT (R288). A bring-up state limit expires; the attempt ends, lanes are judged, and the port retries or enters FAILED. -/
  | bringupStateTimeout (port : Port)
  /-- BRINGUP_RETRY (R288). 1 ms after an ended attempt or a link fault, the port returns to CAP. -/
  | bringupRetry (port : Port)
  /-- PORT_ALIGNED (R287). Codeword lock, marker lock and deskew are achieved in ALIGN, and the port enters UP. -/
  | portAligned (port : Port)
  /-- LINK_FAULT (R295). Loss of signal, loss of lock or high symbol errors take the port down; queued frames are dropped and dependants are notified. -/
  | linkFault (port : Port) (cause : LinkFaultCause)
  /-- FOM_UPDATE (R291). Every 2^22 symbols a lane's figure of merit is updated, which can raise link_degrade or request a re-seed. -/
  | fomUpdate (lane : Port) (fom : Byte)
  /-- QUIET (R298). A receiver that receives QUIET sets rx_quiet and powers down its samplers. -/
  | quiet (port : Port)
  /-- TX_QUIET_ENTER (R298). After the idle time with every condition held, the transmitter sends QUIET and drives electrical idle. -/
  | txQuietEnter (port : Port)
  /-- TX_WAKE (R299). A wake cause restarts idle blocks on a quiet transmit direction; frames wait for the wake hold. -/
  | txWake (port : Port) (cause : WakeCause)
  /-- RX_WAKE_TIMEOUT (R299). A receiver without lock 10 µs after the first idle block takes a link fault. -/
  | rxWakeTimeout (port : Port)
  /-- HOST_FRAME_RECEIVE (R301). A host port answers ARP, neighbour solicitation and echo requests, and drops every other non-Ralow, non-PTP frame. -/
  | hostFrameReceive (port : HostPort) (f : HostFrame)
  /-- PTP_MESSAGE (R279). A PTP message is time stamped and updates the wall-clock servo. -/
  | ptpMessage (port : HostPort) (p : PtpIn)
  /-- HOST_PAUSE (R286). A received IEEE 802.3 PAUSE pauses a host port's transmitter. -/
  | hostPause (port : HostPort) (quanta : BitVec 16)
  /-- HOST_LINK_UP (R286). Auto-negotiation and training finish and the host port is up. -/
  | hostLinkUp (port : HostPort)
  /-- HOST_LINK_DOWN (R303). A host port loses its link, raising host_link_down, and net_lost when all four ports of a network are down. -/
  | hostLinkDown (port : HostPort)
  /-- HOST_AUTONEG_RESTART (R303). One second after losing its link, an enabled host port restarts auto-negotiation. -/
  | hostAutonegRestart (port : HostPort)
  /-- ANNOUNCE (R443). An up host port sends neighbour advertisements and gratuitous ARP at the announcement schedule. -/
  | announce (port : HostPort)
  /-- CHANNEL_REQUEST (R324). A channel cell serves one queued read or write by priority, with read-modify-write and correction write-back. -/
  | channelRequest (ch : Channel)
  /-- REFRESH (R325). Per-bank refresh runs when due, on local time. -/
  | refresh (ch : Channel) (tmult : Byte)
  /-- SCRUB_READ (R328). The scrubber reads the next burst and writes back any corrected word. -/
  | scrubRead (ch : Channel)
  /-- WCK_DQ_OSCILLATOR (R326). Every 1 ms the oscillator measures drift, which can request retraining or force it. -/
  | wckDqOscillator (ch : Channel) (drift : BitVec 16)
  /-- MEMORY_TRAINING_DONE (R309). A memory block finishes training its channels at the highest common rate. -/
  | memoryTrainingDone (blk : MemBlk) (rate : Fin 4)
  /-- MEMORY_READY (R332). A memory block finishes zeroing its channels and sets ready. -/
  | memoryReady (blk : MemBlk)
  /-- REGION_LINK_DOWN (R411). A region link loses lock, and the higher-numbered region of the pair fences. -/
  | regionLinkDown (a : Region) (b : Region)
  /-- FAULT_LOG_WRITE (R407). The aggregator writes a queued fault log record in two pages, with the tag last. -/
  | faultLogWrite
  /-- FAULTN_PULSE_END (R403). The minimum 10 µs FAULT_N pulse ends, and the pin is held, released or deasserted. -/
  | faultnPulseEnd
  /-- MAINT_LOCK_TIMEOUT (R384). The maintenance lock closes after its lifetime. -/
  | maintLockTimeout
  /-- AUX_POWER_UP (R424). With VIN at or above 36 V, the auxiliary converter powers the AON, REF and sensing parts. -/
  | auxPowerUp (vin : BitVec 16)
  /-- PWR_EN_HIGH (R424). PWR_EN high with VIN at or above 46 V starts the charge and rail sequence, ending with PWR_GOOD released. -/
  | pwrEnHigh
  /-- RESET_RELEASE (R441). The internal reset is released: the boot ROM, firmware start, identity and network load, autonegotiation and memory training follow. -/
  | resetRelease (v : BootVerdict)
  /-- RESET_N (R425). RESET_N held low for 1 µs causes a chip reset with the rails kept up. -/
  | resetN
  /-- POWER_FAILURE (R409). Input below 44 V enters chip-fatal, silences lanes, stops domains and commits a power-failure record. -/
  | powerFailure (vin : BitVec 16)
  /-- INPUT_OVERVOLTAGE (R426). Input above 57.5 V asserts PWR_GOOD and runs the power-failure sequence. -/
  | inputOvervoltage (vin : BitVec 16)
  /-- PWR_EN_LOW (R426). PWR_EN going low asserts PWR_GOOD and runs the power-failure sequence, or switches a shut module off. -/
  | pwrEnLow
  /-- RAIL_FAULT (R426). A rail leaves regulation; PWR_GOOD asserts and the chip becomes chip-fatal. -/
  | railFault
  /-- INPUT_LOW (R438). The input lies between 44 V and 46 V and raises input_low. -/
  | inputLow (vin : BitVec 16)
  /-- CLOCK_FAULT (R438). A generated domain loses lock or the reference stops; the chip becomes chip-fatal. -/
  | clockFault (f : ClockFault)
  /-- SENSOR_READ (R432). Every 1 ms the power block reads 100 sensors and updates Tj, the alerts, the thermal level and trips. -/
  | sensorRead (r : SensorReadings)
  /-- POWER_ESTIMATE_UPDATE (R428). Every 1 µs the governor updates its power estimate and limits duty under the ceiling. -/
  | powerEstimateUpdate (watts : Nat)
  /-- GOVERNOR_STAGE (R428). At a stage mark or interval, the governor sets the ceiling to the estimate plus the step, capped. -/
  | governorStage
  /-- AUTONOMOUS_DECISION (R451). Firmware changes a policy field of an enabled function within its bounds and logs it. -/
  | autonomousDecision (d : PolicyField) (value : Word)
  /-- AUTONOMOUS_BOUND_CORRECTION (R27). Within 256 marks of a narrowed bound, firmware moves the value to the nearest end and logs it. -/
  | autonomousBoundCorrection (d : PolicyField)
  /-- AUTONOMOUS_ACTIVATE (R451). Firmware becomes active at the first mark after auto is set. -/
  | autonomousActivate
  /-- SHUTDOWN_COMPLETE (R452). Once running commands and flash writes are done, lanes are silenced and state becomes shut. -/
  | shutdownComplete
  /-- BLOCK_QUIESCED (R458). A quiescing block completes its accepted work and shows quiesced. -/
  | blockQuiesced (blk : BlockRef)
  /-- BLOCK_RESET_DONE (R458). A block datapath reset completes within 10 µs and the block stays quiesced. -/
  | blockResetDone (blk : BlockRef)
  /-- JOB_DEFINE (R90). A write of JOB_ID to an empty or RETIRED slot makes the job DEFINED. -/
  | jobDefine (sess : Sess) (region : Region) (data : Word)
  /-- TABLE_WINDOW_WRITE (R83). A write through region 0's table window updates all four copies, subject to the job lock and violation counting. -/
  | tableWindowWrite (sess : Sess) (region : Region) (reg : TableReg) (data : Word)
  /-- PATH_WEIGHT_WRITE (R213). A write of SWC_PS_WEIGHT changes the live weight of the active bank in all regions. -/
  | pathWeightWrite (sess : Sess) (region : Region) (data : Word)
  /-- QUOTA_MIN_WRITE (R233). A write of a requester minimum is checked against the pool's guarantee limit, or refused and counted. -/
  | quotaMinWrite (sess : Sess) (region : Region) (rst : Bool) (data : Word)
  /-- PORT_BLOCK_CONFIG (R284). A write of FAB_BLK_MODE changes the block's ports, taking ports down or starting bring-up. -/
  | portBlockConfig (sess : Sess) (blk : Fin 64) (data : Word)
  /-- EYE_SCAN_REQUEST (R293). A write of 1 to FAB_LANE_CTRL.scan requests an eye scan in the next window. -/
  | eyeScanRequest (sess : Sess) (blk : Fin 64) (data : Word)
  /-- MIRROR_CONFIG (R237). A write of SWC_MIR_CFG.n sets the mirror ratio and restarts the count. -/
  | mirrorConfig (sess : Sess) (region : Region) (data : Word)
  /-- GATE_SWAP_SCHEDULE (R264). A write of ORB_GPORT_SWAP.at checks the shadow list and schedules the swap, or rejects it. -/
  | gateSwapSchedule (sess : Sess) (data : Word)
  /-- MASTER_ENABLE (R255). Setting ORB_CTRL.master makes the module orbit master, continuing or starting its angle. -/
  | masterEnable (sess : Sess) (data : Word)
  /-- MASTER_DISABLE (R259). Clearing ORB_CTRL.master stops marks, freezes the angle and enters LOST. -/
  | masterDisable (sess : Sess) (data : Word)
  /-- MASTER_HOLD_CLEAR (R257). Clearing hold on a held master sends RESUME next cycle and runs on. -/
  | masterHoldClear (sess : Sess) (data : Word)
  /-- MGT_POSITION_WRITE (R446). The first valid write of MGT_POSITION sets the module position and starts forwarding; later writes are LOCKED. -/
  | mgtPositionWrite (sess : Sess) (data : Word)
  /-- MGT_MODE_WRITE (R450). A FABRIC_MANAGER write of MGT_MODE selects the mode and the functions that firmware takes over. -/
  | mgtModeWrite (sess : Sess) (data : Word)
  /-- NETCFG_SAVE (R442). Setting MGT_NETCFG.save writes the tagged network record to flash. -/
  | netcfgSave (sess : Sess) (data : Word)
  /-- SHUTDOWN_REQUEST (R452). Setting MGT_SHUTDOWN.req starts closing, or is refused while a job is live. -/
  | shutdownRequest (sess : Sess) (data : Word)
  /-- SESSION_CLOSE_BIT (R344). Setting MGT_SESS_CTRL.close closes the session and sends CLOSE. -/
  | sessionCloseBit (sess : Sess) (data : Word)
  /-- ANCHOR_INSTALL (R382). Setting SEC_ANCHOR_CTRL.install writes the anchor digest to flash and raises the anchor counter. -/
  | anchorInstall (sess : Sess) (data : Word)
  /-- ANCHOR_REMOVE (R382). Setting SEC_ANCHOR_CTRL.remove removes an anchor, or refuses to remove the last. -/
  | anchorRemove (sess : Sess) (data : Word)
  /-- STAGE_DATA_WRITE (R383). A write of SEC_STAGE_DATA stores a staging word and advances the address by 4. -/
  | stageDataWrite (sess : Sess) (data : Word)
  /-- MAINT_CONSENT_M (R384). The MAINTENANCE consent write can open the maintenance lock. -/
  | maintConsentM (sess : Sess) (data : Word)
  /-- MAINT_CONSENT_O (R384). The OPERATOR consent write can open the maintenance lock. -/
  | maintConsentO (sess : Sess) (data : Word)
  /-- MAINT_CLOSE (R384). A write of close shuts the maintenance lock and resets the TAP. -/
  | maintClose (sess : Sess) (data : Word)
  /-- FAULTN_RELEASE (R403). A write of release deasserts FAULT_N, or holds the release pending during the pulse. -/
  | faultnRelease (sess : Sess) (data : Word)
  /-- FAULTN_TEST (R403). A write of test gives a 10 µs FAULT_N pulse when the pin is deasserted, and is logged. -/
  | faultnTest (sess : Sess) (data : Word)
  /-- FAULTN_HOLD_WRITE (R403). A write of 0 to hold after the minimum pulse deasserts FAULT_N at once. -/
  | faultnHoldWrite (sess : Sess) (data : Word)
  /-- BLK_EVENT_CLEAR (R394). A W1C write clears event bits and re-arms their reporting. -/
  | blkEventClear (sess : Sess) (blk : BlockRef) (data : Word)
  /-- FIRST_ERR_CLEAR (R397). Writing 1 to BLK_FIRST_ERR0.valid clears all eight capture words. -/
  | firstErrClear (sess : Sess) (blk : BlockRef) (data : Word)
  /-- BLK_EVENT_FORCE (R404). Writing BLK_EVENT_FORCE raises an event next cycle as if from its source, marked forced. -/
  | blkEventForce (sess : Sess) (blk : BlockRef) (data : Word)
  /-- CFG_LOCK (R348). Setting BLK_CTRL.cfg_lock locks the block's unbound LRW fields until chip reset. -/
  | cfgLock (sess : Sess) (blk : BlockRef) (data : Word)
  /-- QUIESCE (R458). Setting or clearing BLK_CTRL.quiesce stops or resumes the acceptance of new work. -/
  | quiesce (sess : Sess) (blk : BlockRef) (data : Word)
  /-- RESET_REQ (R458). Setting reset_req on a quiesced block with no live job resource resets its datapath, or is reported LOCKED. -/
  | resetReq (sess : Sess) (blk : BlockRef) (data : Word)
  /-- PERF_SELECT_WRITE (R460). A write to a performance selector chooses the event counted and clears its counter. -/
  | perfSelectWrite (sess : Sess) (blk : BlockRef) (counter : Fin 4) (data : Word)
  /-- COUNTER_LOW_READ (R10). A read of a 64-bit counter's low word latches its high word for the session. -/
  | counterLowRead (sess : Sess) (addr : BitVec 26)
  /-- RCL_READ (R7). A read of an RCL field returns it and then clears it. -/
  | rclRead (sess : Sess) (addr : BitVec 26)
  /-- FAULT_LOG_DATA_READ (R410). A read of FLT_LOG_DATA returns a word of the selected record and advances the offset. -/
  | faultLogDataRead (sess : Sess)
  /-- REPORT_DATA_READ (R387). A read of SEC_RPT_DATA returns a report word and advances the session's offset. -/
  | reportDataRead (sess : Sess)
  /-- REGISTER_WRITE (R7). A write to a register without behaviour of its own follows its access code, lock and range rules. -/
  | registerWrite (sess : Sess) (addr : BitVec 26) (data : Word)
  /-- RESERVED_KIND_MESSAGE (R338). A Ralow datagram of a reserved kind, or of a kind sent in the wrong direction, is dropped and counted in MGT_RALOW_DROP_FMT. -/
  | reservedKindMessage (m : RalowIn) (kind : BitVec 4) (body : List Byte)
  /-- UNKNOWN_COMMAND (R355). A COMMAND whose code is unknown is answered at once in its REPLY with RALOW_UNKNOWN and no chit. -/
  | unknownCommand (m : RalowIn) (code : BitVec 16) (n : Nat) (ops : List Word)
  /-- TERMINATED_FRAME_DROP (R212). A frame addressed to the module's own identifier that no unit takes is dropped and counted in SWC_DROP_TERM: a RESULT, PARAM, COMET_R or WIN_REPLY, an LFP message of an unheld job identifier, or a non-LFP frame. -/
  | terminatedFrameDrop (a : Arrival)
  /-- PAUSE_TIMER_EXPIRY (R225). The pause timer of a received PFC frame, per-class-and-VC flow-control frame or host PAUSE runs out without refresh, and the paused class or port resumes sending. -/
  | pauseTimerExpiry (p : PausedPort)
  /-- LINK_TRAINING_DONE (R290). In standard bring-up, the IEEE 802.3dj link training at 212.5 Gb/s completes and the port enters ALIGN. -/
  | linkTrainingDone (port : Port) (foms : List Byte)
  /-- RX_WAKE (R299). A quiet receive direction sees the peer's idle blocks, powers up its samplers, regains codeword and marker lock and clears rx_quiet. -/
  | rxWake (port : Port)
  /-- PTP_LOST (R279). The wall clock stops hearing its PTP master, fails over to the other network when failover is 1, or runs free from REFCLK and raises ptp_lost. -/
  | ptpLost
  /-- AUX_POWER_DOWN (R424). VIN falls below 36 V, the auxiliary converter stops and the AON domain, REF oscillator and power sensing lose power. -/
  | auxPowerDown (vin : BitVec 16)
  /-- CLOCK_FLOOR_WRITE (R434). A write of CLK_STEP.floor raises the step level L at once, or lets it fall one level at a time, and each change raises clock_step. -/
  | clockFloorWrite (sess : Sess) (data : Word)
  deriving DecidableEq, Repr

end Sys2Proof
end

