-- ==== Sys2Proof/Config.lean ====
section
/-!
DEFINITION. What the spec leaves to the implementation or does not state as a value: each is
a constant with no body, so that no proof can lean on its value.
-/

namespace Sys2Proof

/-- A fresh value for each count: what a result is where the spec states no value for it. -/
opaque Config.freeNat : Nat → Nat

/-- The die stepping of a region die, or of the chip blocks (key 12) (R457). -/
opaque Config.stepping : Nat → Nat

/-- SHAKE256 with 256 bits of output (spec/13_security.md, spec/07_program_loader.md R198). -/
opaque Config.shake256 : List Byte → Digest

/-- KMAC256 of a message under a key with a customisation string given as bytes (R374, R381). -/
opaque Config.kmac : Digest → List Byte → List Byte → Digest

/-- The ML-DSA-65 signature by the device identity key over a message (R381, R387). -/
opaque Config.deviceSign : List Byte → List Byte

/-- The ML-KEM-768 encapsulation for a host's key: ciphertext and shared secret, fresh for each
handshake counted by the second argument (R381). -/
opaque Config.kemEncaps : List Byte → Nat → List Byte × Digest

/-- The two session keys, host to device and device to host, of a shared secret and T4 (R380). -/
opaque Config.sessionKeys : Digest → Digest → Digest × Digest

/-- The device's identity hash (R375). -/
opaque Config.identityHash : Digest

/-- The certificate chain of the device, as DEV_HELLO carries it (R381). -/
opaque Config.deviceChain : List Byte

/-- The flash key of R374. -/
opaque Config.flashKey : Digest

/-- The hash of a flow that selects its flowlet entry (R218). -/
opaque Config.flowHash : List Byte → Nat

/-- The hash of the job and chunk fields that gives the UDP source port (R94). -/
opaque Config.entropyHash : Nat → Nat → Nat

/-- The syndrome, the corrected symbol and its flipped bits of a word-code error (R311), by block page, place and time. -/
opaque Config.syndrome : Nat → Nat → Nat → Nat

/-- What a word with three or more symbols in error decodes to, by its place and their number: the result and the
data (R310); and what an uncorrectable word reads as to a unit that the spec gives no action for it. -/
opaque Config.wordCode : Nat → Nat → Nat × Nat

/-- Measured frequency in kHz of a clock domain (`CLK_FREQ`), by domain and time (R440). -/
opaque Config.measuredFreq : Nat → Nat → Word

/-- What a block counts or times on its lines and clocks and no command carries, by register and time: codewords
(R300, R305), cycles (R460), waits and turns of an arbiter (R334, R457). -/
opaque Config.measured : Nat → Nat → Nat

/-- The base MAC address of the host ports, assigned at manufacture (R301). -/
opaque Config.hostMac : BitVec 48

/-- The hop limit or TTL of a frame that the module originates (R210, R212). -/
opaque Config.hopLimit : Byte

/-- The 64 bytes of an attestation log record of a kind with a content (R385). -/
opaque Config.attestRecord : Nat → List Byte → List Byte

end Sys2Proof
end

