-- ==== Sys2Proof/Machine/Table.lean ====
section
/-!
DEFINITION. Reading and writing a table keyed by a natural number (`Tbl`), and its one
canonical form: keys strictly rising, no pair that holds what an unlisted key reads as.
-/

namespace Sys2Proof

/-- What key `k` holds, where an unlisted key holds `d`. -/
def Tbl.look {α : Type} (d : α) : Tbl α → Nat → α
  | [], _ => d
  | (k', v) :: t, k => if k = k' then v else Tbl.look d t k

/-- The table in which key `k` holds `v`; a key that holds `d` is not listed. -/
def Tbl.put {α : Type} [DecidableEq α] (d : α) : Tbl α → Nat → α → Tbl α
  | [], k, v => if v = d then [] else [(k, v)]
  | (k', v') :: t, k, v =>
    if k < k' then (if v = d then (k', v') :: t else (k, v) :: (k', v') :: t)
    else if k = k' then (if v = d then t else (k, v) :: t)
    else (k', v') :: Tbl.put d t k v

/-- The table in which key `k` holds `f` of what it held. -/
def Tbl.upd {α : Type} [DecidableEq α] (d : α) (t : Tbl α) (k : Nat) (f : α → α) : Tbl α :=
  Tbl.put d t k (f (Tbl.look d t k))

/-- The table with every listed value replaced by `f` of it; `f` keeps a value away from its default. -/
def Tbl.mapVals {α : Type} (t : Tbl α) (f : α → α) : Tbl α := List.map (fun kv => (kv.1, f kv.2)) t

/-- The table with every key for which `p` holds set to its default. -/
def Tbl.drop {α : Type} (t : Tbl α) (p : Nat → Bool) : Tbl α :=
  List.filter (fun kv => !p kv.1) t

/-- Every key of the table lies above `lo`, the keys rise strictly, and no key holds the value
that it holds unlisted. -/
def Tbl.wfFrom {α : Type} [DecidableEq α] (d : Nat → α) : Option Nat → Tbl α → Bool
  | _, [] => true
  | lo, (k, v) :: t =>
    (match lo with | none => true | some l => decide (l < k)) && decide (v ≠ d k) &&
      Tbl.wfFrom d (some k) t

/-- The canonical form of a table whose unlisted keys hold `d`. -/
def Tbl.wf {α : Type} [DecidableEq α] (d : Nat → α) (t : Tbl α) : Bool := Tbl.wfFrom d none t

/-- The keys of a table rise strictly: what is left of the canonical form where the values do not matter. -/
def Tbl.rising {α : Type} (t : Tbl α) : Prop := List.Pairwise (fun (x y : Nat × α) => x.1 < y.1) t

/-- The canonical form of memory: an unlisted byte reads 0 (spec/11_memory.md R332). -/
def Memory.wf (m : Memory) : Bool := Tbl.wf (fun _ => (0 : Byte)) m

/-- Reading `n` bytes from address `a` up. -/
def Memory.bytes (m : Memory) (a : Nat) : Nat → List Byte
  | 0 => []
  | n + 1 => Tbl.look 0 m a :: Memory.bytes m (a + 1) n

/-- Writing bytes from address `a` up. -/
def Memory.write (m : Memory) (a : Nat) : List Byte → Memory
  | [] => m
  | b :: bs => Memory.write (Tbl.put 0 m a b) (a + 1) bs

end Sys2Proof
end

