-- ==== Sys2Proof/Machine/Bits.lean ====
section
/-!
DEFINITION. Bit fields, two's complement, byte orders and the CRC-32C that the message
formats use (spec/04_collectives.md R94 to R96, spec/12_control_plane.md R337).
-/

namespace Sys2Proof

/-- Bits [lo + w - 1 : lo] of a number. -/
def bits (x lo w : Nat) : Nat := (x >>> lo) % 2 ^ w

/-- Bits [lo + w - 1 : lo] of a register word. -/
def fld (x : Word) (lo w : Nat) : Nat := bits x.toNat lo w

/-- Bit `i` of a register word. -/
def bit (x : Word) (i : Nat) : Bool := x.toNat.testBit i

/-- A register word with bits [lo + w - 1 : lo] replaced by the low `w` bits of `v`. -/
def setFld (x : Word) (lo w v : Nat) : Word :=
  BitVec.ofNat 32 (x.toNat - (bits x.toNat lo w) <<< lo + (v % 2 ^ w) <<< lo)

/-- A register word with bit `i` set to `b`. -/
def setBit (x : Word) (i : Nat) (b : Bool) : Word := setFld x i 1 b.toNat

/-- A number as a register word. -/
def word (x : Nat) : Word := BitVec.ofNat 32 x

/-- The low `w` bits of a number read as two's complement. -/
def sext (w x : Nat) : Int :=
  if 2 * (x % 2 ^ w) < 2 ^ w then (x % 2 ^ w : Nat) else (x % 2 ^ w : Nat) - (2 ^ w : Nat)

/-- An integer as a `w`-bit two's complement code. -/
def twos (w : Nat) (x : Int) : Nat := (x % (2 ^ w : Nat)).toNat

/-- The nearest number to `x` in `lo` to `hi`. -/
def clampNat (lo hi x : Nat) : Nat := max lo (min hi x)

/-- The nearest integer to `x` in `lo` to `hi`. -/
def clampInt (lo hi x : Int) : Int := max lo (min hi x)

/-- `n` bytes of a number, least significant byte first. -/
def leBytes : Nat → Nat → List Byte
  | 0, _ => []
  | n + 1, x => BitVec.ofNat 8 x :: leBytes n (x / 256)

/-- `n` bytes of a number, most significant byte first. -/
def beBytes (n x : Nat) : List Byte := (leBytes n x).reverse

/-- The bytes of a digest, least significant byte first. -/
def digestBytes (d : Digest) : List Byte := leBytes 32 d.toNat

/-- The number that bytes spell, least significant byte first. -/
def leNat : List Byte → Nat
  | [] => 0
  | b :: bs => b.toNat + 256 * leNat bs

/-- The number that bytes spell, most significant byte first. -/
def beNat (bs : List Byte) : Nat := leNat bs.reverse

/-- `n` bytes from offset `off`. -/
def slice (bs : List Byte) (off n : Nat) : List Byte := (bs.drop off).take n

/-- The little-endian number of `n` bytes at offset `off`. -/
def leAt (bs : List Byte) (off n : Nat) : Nat := leNat (slice bs off n)

/-- The big-endian number of `n` bytes at offset `off`. -/
def beAt (bs : List Byte) (off n : Nat) : Nat := beNat (slice bs off n)

/-- Bytes padded with zeros at the end to length `n`. -/
def padTo (n : Nat) (bs : List Byte) : List Byte := bs ++ List.replicate (n - bs.length) 0

/-- Bytes with `new` in place of as many bytes from offset `off`. -/
def patch (bs : List Byte) (off : Nat) (new : List Byte) : List Byte :=
  bs.take off ++ new ++ bs.drop (off + new.length)

/-- Bytes cut into 32-bit little-endian words. -/
def leWords : List Byte → List Word
  | a :: b :: c :: d :: t => word (leNat [a, b, c, d]) :: leWords t
  | _ => []

/-- A list of register words as bytes, each least significant byte first. -/
def wordBytes (ws : List Word) : List Byte := ws.flatMap fun w => leBytes 4 w.toNat

/-- One bit step of the reflected CRC-32C register. -/
def crcBit (r : Word) : Word := if r.getLsbD 0 then (r >>> 1) ^^^ 0x82F63B78#32 else r >>> 1

/-- The CRC-32C register after one more byte. -/
def crcByte (r : Word) (b : Byte) : Word :=
  crcBit (crcBit (crcBit (crcBit (crcBit (crcBit (crcBit (crcBit (r ^^^ b.zeroExtend 32))))))))

/-- CRC-32C: reflected, initial value and final exclusive-or of all ones. -/
def crc32c (bs : List Byte) : Word := (bs.foldl crcByte 0xFFFFFFFF#32) ^^^ 0xFFFFFFFF#32

/-- The least number below `n` that `p` accepts. -/
def leastBelow (n : Nat) (p : Nat → Bool) : Option Nat := (List.range n).find? p

/-- How many numbers below `n` `p` accepts. -/
def countBelow (n : Nat) (p : Nat → Bool) : Nat := ((List.range n).filter p).length

/-- The greatest power of two not above `n`, as an exponent; 0 for 0. -/
def log2 (n : Nat) : Nat := n.log2

/-- A list cut into pieces of `n`; `fuel` bounds the number of pieces. -/
def chunksOf {α : Type} (n : Nat) : Nat → List α → List (List α)
  | 0, _ => []
  | fuel + 1, l => if l.isEmpty then [] else l.take n :: chunksOf n fuel (l.drop n)

/-- An increasing list of numbers with `x` put in once. -/
def insertOnce : List Nat → Nat → List Nat
  | [], x => [x]
  | y :: t, x => if x < y then x :: y :: t else if x = y then y :: t else y :: insertOnce t x

end Sys2Proof
end

