-- ==== Sys2Proof/Machine/RegMap.lean ====
section
/-!
DEFINITION. The register map: the offset of every register, its fields with access code,
reset value and range, and the select register that its instances stand behind
(spec/17_register_summary.md R455 to R463 and the register tables of the chapters).
-/

namespace Sys2Proof.Machine

/-- The prefixes of the register blocks (R456). -/
inductive Pfx where
  | FAB | CPB | MEM | RDX | SWC | RST | CMT | RGC | HST | ORB | MGT | SEC | FLT | PWR | CLK
  deriving DecidableEq, Repr

/-- The access codes of R7. -/
inductive Acc7 where
  | RO | RW | WO | W1C | W1S | RCL | LRW | ROH
  deriving DecidableEq, Repr

/-- The select register behind which the instances of a register stand. -/
inductive SelKind where
  | one | fabPort | fabLane | fabSch | swcEm | swcRt | swcPs | swcPort | swcPool | swcReq | swcMir | swcMirPort
  | rstSlot | memCh | hstPort | hstNet | orbGport | orbGent | orbCal | secAnchor | mgtSess | rgcJob
  deriving DecidableEq, Repr

/-- A field of a register: lowest bit, width, access, reset value, range of R465. -/
structure Fld where
  lo : Nat
  w : Nat
  acc : Acc7
  rst : Nat
  min : Nat
  max : Nat
  deriving DecidableEq, Repr

/-- A register: its offset in the page, the select register, its fields. -/
structure RegRow where
  off : Nat
  sel : SelKind
  fields : List Fld
  deriving DecidableEq, Repr

/-- Offset of `BLK_IDENT` (R457). -/
abbrev Off.BLK_IDENT : Nat := 0x0

/-- Offset of `BLK_CAPS` (R457). -/
abbrev Off.BLK_CAPS : Nat := 0x4

/-- Offset of `BLK_CTRL` (R457). -/
abbrev Off.BLK_CTRL : Nat := 0x8

/-- Offset of `BLK_STATE` (R457). -/
abbrev Off.BLK_STATE : Nat := 0xC

/-- Offset of `BLK_EVENT` (R457). -/
abbrev Off.BLK_EVENT : Nat := 0x10

/-- Offset of `BLK_EVENT_EN` (R457). -/
abbrev Off.BLK_EVENT_EN : Nat := 0x14

/-- Offset of `BLK_EVENT_FORCE` (R457). -/
abbrev Off.BLK_EVENT_FORCE : Nat := 0x18

/-- Offset of `BLK_FAULT_MAP` (R457). -/
abbrev Off.BLK_FAULT_MAP : Nat := 0x1C

/-- Offset of `BLK_FIRST_ERR0` (R395). -/
abbrev Off.BLK_FIRST_ERR0 : Nat := 0x20

/-- Offset of `BLK_FIRST_ERR1` (R395). -/
abbrev Off.BLK_FIRST_ERR1 : Nat := 0x24

/-- Offset of `BLK_FIRST_ERR2` (R395). -/
abbrev Off.BLK_FIRST_ERR2 : Nat := 0x28

/-- Offset of `BLK_FIRST_ERR3` (R395). -/
abbrev Off.BLK_FIRST_ERR3 : Nat := 0x2C

/-- Offset of `BLK_FIRST_ERR4` (R395). -/
abbrev Off.BLK_FIRST_ERR4 : Nat := 0x30

/-- Offset of `BLK_FIRST_ERR5` (R395). -/
abbrev Off.BLK_FIRST_ERR5 : Nat := 0x34

/-- Offset of `BLK_FIRST_ERR6` (R395). -/
abbrev Off.BLK_FIRST_ERR6 : Nat := 0x38

/-- Offset of `BLK_FIRST_ERR7` (R395). -/
abbrev Off.BLK_FIRST_ERR7 : Nat := 0x3C

/-- Offset of `BLK_ERR_CE` (R457). -/
abbrev Off.BLK_ERR_CE : Nat := 0x40

/-- Offset of `BLK_ERR_UE` (R457). -/
abbrev Off.BLK_ERR_UE : Nat := 0x44

/-- Offset of `BLK_ARB_CFG` (R457). -/
abbrev Off.BLK_ARB_CFG : Nat := 0x48

/-- Offset of `BLK_ARB_STAT` (R457). -/
abbrev Off.BLK_ARB_STAT : Nat := 0x4C

/-- Offset of `BLK_PERF_SEL0` (R457). -/
abbrev Off.BLK_PERF_SEL0 : Nat := 0x50

/-- Offset of `BLK_PERF_SEL1` (R457). -/
abbrev Off.BLK_PERF_SEL1 : Nat := 0x54

/-- Offset of `BLK_PERF_SEL2` (R457). -/
abbrev Off.BLK_PERF_SEL2 : Nat := 0x58

/-- Offset of `BLK_PERF_SEL3` (R457). -/
abbrev Off.BLK_PERF_SEL3 : Nat := 0x5C

/-- Offset of `BLK_PERF_CNT` (R457). -/
abbrev Off.BLK_PERF_CNT : Nat := 0x60

/-- Offset of `BLK_PERF_CNT_HI` (R457). -/
abbrev Off.BLK_PERF_CNT_HI : Nat := 0x64

/-- Offset of `CLK_CTRL` (R440). -/
abbrev Off.CLK_CTRL : Nat := 0x100

/-- Offset of `CLK_STEP` (R440). -/
abbrev Off.CLK_STEP : Nat := 0x104

/-- Offset of `CLK_STEP_N` (R440). -/
abbrev Off.CLK_STEP_N : Nat := 0x108

/-- Offset of `CLK_LOCK` (R440). -/
abbrev Off.CLK_LOCK : Nat := 0x10C

/-- Offset of `CLK_FREQ_SEL` (R440). -/
abbrev Off.CLK_FREQ_SEL : Nat := 0x110

/-- Offset of `CLK_FREQ` (R440). -/
abbrev Off.CLK_FREQ : Nat := 0x114

/-- Offset of `CMT_DROP_SLOT` (R116). -/
abbrev Off.CMT_DROP_SLOT : Nat := 0x100

/-- Offset of `CMT_DROP_GROUP` (R116). -/
abbrev Off.CMT_DROP_GROUP : Nat := 0x104

/-- Offset of `CMT_DROP_FORMAT` (R116). -/
abbrev Off.CMT_DROP_FORMAT : Nat := 0x108

/-- Offset of `CMT_DROP_ROUND` (R116). -/
abbrev Off.CMT_DROP_ROUND : Nat := 0x10C

/-- Offset of `CMT_DROP_DUP` (R116). -/
abbrev Off.CMT_DROP_DUP : Nat := 0x110

/-- Offset of `CMT_ROUND_ABANDON` (R116). -/
abbrev Off.CMT_ROUND_ABANDON : Nat := 0x114

/-- Offset of `CMT_BUSY` (R116). -/
abbrev Off.CMT_BUSY : Nat := 0x118

/-- Offset of `CPB_STR_STATE` (R186). -/
abbrev Off.CPB_STR_STATE : Nat := 0x100

/-- Offset of `CPB_STR_PC0` (R186). -/
abbrev Off.CPB_STR_PC0 : Nat := 0x104

/-- Offset of `CPB_STR_PC1` (R186). -/
abbrev Off.CPB_STR_PC1 : Nat := 0x108

/-- Offset of `CPB_STR_PC2` (R186). -/
abbrev Off.CPB_STR_PC2 : Nat := 0x10C

/-- Offset of `CPB_STR_PC3` (R186). -/
abbrev Off.CPB_STR_PC3 : Nat := 0x110

/-- Offset of `CPB_STR_WAIT` (R186). -/
abbrev Off.CPB_STR_WAIT : Nat := 0x114

/-- Offset of `CPB_STR_COND` (R186). -/
abbrev Off.CPB_STR_COND : Nat := 0x118

/-- Offset of `CPB_SET_SEL` (R186). -/
abbrev Off.CPB_SET_SEL : Nat := 0x11C

/-- Offset of `CPB_EXC_STAT` (R186). -/
abbrev Off.CPB_EXC_STAT : Nat := 0x120

/-- Offset of `CPB_EXC_PC` (R186). -/
abbrev Off.CPB_EXC_PC : Nat := 0x124

/-- Offset of `CPB_EXC_ADDR_LO` (R186). -/
abbrev Off.CPB_EXC_ADDR_LO : Nat := 0x128

/-- Offset of `CPB_EXC_ADDR_HI` (R186). -/
abbrev Off.CPB_EXC_ADDR_HI : Nat := 0x12C

/-- Offset of `CPB_INV_CAP0` (R186). -/
abbrev Off.CPB_INV_CAP0 : Nat := 0x130

/-- Offset of `CPB_INV_CAP1` (R186). -/
abbrev Off.CPB_INV_CAP1 : Nat := 0x134

/-- Offset of `CPB_INV_CAP2` (R186). -/
abbrev Off.CPB_INV_CAP2 : Nat := 0x138

/-- Offset of `CPB_ACC_INVALID` (R186). -/
abbrev Off.CPB_ACC_INVALID : Nat := 0x140

/-- Offset of `CPB_ACC_OVERFLOW` (R186). -/
abbrev Off.CPB_ACC_OVERFLOW : Nat := 0x144

/-- Offset of `CPB_EXC_SUMMARY` (R186). -/
abbrev Off.CPB_EXC_SUMMARY : Nat := 0x148

/-- Offset of `CPB_Q_LEVEL0` (R186). -/
abbrev Off.CPB_Q_LEVEL0 : Nat := 0x150

/-- Offset of `CPB_Q_LEVEL1` (R186). -/
abbrev Off.CPB_Q_LEVEL1 : Nat := 0x154

/-- Offset of `CPB_Q_LEVEL2` (R186). -/
abbrev Off.CPB_Q_LEVEL2 : Nat := 0x158

/-- Offset of `CPB_Q_LEVEL3` (R186). -/
abbrev Off.CPB_Q_LEVEL3 : Nat := 0x15C

/-- Offset of `CPB_FLAGS_LO` (R186). -/
abbrev Off.CPB_FLAGS_LO : Nat := 0x160

/-- Offset of `CPB_FLAGS_HI` (R186). -/
abbrev Off.CPB_FLAGS_HI : Nat := 0x164

/-- Offset of `CPB_STR_JOB01` (R208). -/
abbrev Off.CPB_STR_JOB01 : Nat := 0x170

/-- Offset of `CPB_STR_JOB23` (R208). -/
abbrev Off.CPB_STR_JOB23 : Nat := 0x174

/-- Offset of `CPB_STR_PLACED` (R208). -/
abbrev Off.CPB_STR_PLACED : Nat := 0x178

/-- Offset of `CPB_WAIT_MARKS0` (R208). -/
abbrev Off.CPB_WAIT_MARKS0 : Nat := 0x180

/-- Offset of `CPB_WAIT_MARKS1` (R208). -/
abbrev Off.CPB_WAIT_MARKS1 : Nat := 0x184

/-- Offset of `CPB_WAIT_MARKS2` (R208). -/
abbrev Off.CPB_WAIT_MARKS2 : Nat := 0x188

/-- Offset of `CPB_WAIT_MARKS3` (R208). -/
abbrev Off.CPB_WAIT_MARKS3 : Nat := 0x18C

/-- Offset of `CPB_STORE_FREE` (R208). -/
abbrev Off.CPB_STORE_FREE : Nat := 0x190

/-- Offset of `FAB_BLK_MODE` (R305). -/
abbrev Off.FAB_BLK_MODE : Nat := 0x100

/-- Offset of `FAB_FOM_THR` (R305). -/
abbrev Off.FAB_FOM_THR : Nat := 0x104

/-- Offset of `FAB_FOM_LOW` (R305). -/
abbrev Off.FAB_FOM_LOW : Nat := 0x108

/-- Offset of `FAB_HISER` (R305). -/
abbrev Off.FAB_HISER : Nat := 0x10C

/-- Offset of `FAB_PORT_SEL` (R305). -/
abbrev Off.FAB_PORT_SEL : Nat := 0x110

/-- Offset of `FAB_PORT_CTRL` (R305). -/
abbrev Off.FAB_PORT_CTRL : Nat := 0x114

/-- Offset of `FAB_PORT_STATE` (R305). -/
abbrev Off.FAB_PORT_STATE : Nat := 0x118

/-- Offset of `FAB_PORT_SLEEP` (R305). -/
abbrev Off.FAB_PORT_SLEEP : Nat := 0x11C

/-- Offset of `FAB_PORT_PEER_CAP` (R305). -/
abbrev Off.FAB_PORT_PEER_CAP : Nat := 0x120

/-- Offset of `FAB_FEC_CW_LO` (R305). -/
abbrev Off.FAB_FEC_CW_LO : Nat := 0x124

/-- Offset of `FAB_FEC_CW_HI` (R305). -/
abbrev Off.FAB_FEC_CW_HI : Nat := 0x128

/-- Offset of `FAB_FEC_CORR_CW` (R305). -/
abbrev Off.FAB_FEC_CORR_CW : Nat := 0x12C

/-- Offset of `FAB_FEC_UNCORR_CW` (R305). -/
abbrev Off.FAB_FEC_UNCORR_CW : Nat := 0x130

/-- Offset of `FAB_FEC_SYM` (R305). -/
abbrev Off.FAB_FEC_SYM : Nat := 0x134

/-- Offset of `FAB_RX_FCS_ERR` (R305). -/
abbrev Off.FAB_RX_FCS_ERR : Nat := 0x138

/-- Offset of `FAB_LINK_DOWN` (R305). -/
abbrev Off.FAB_LINK_DOWN : Nat := 0x13C

/-- Offset of `FAB_RETRAIN` (R305). -/
abbrev Off.FAB_RETRAIN : Nat := 0x140

/-- Offset of `FAB_DROP_DOWN` (R305). -/
abbrev Off.FAB_DROP_DOWN : Nat := 0x144

/-- Offset of `FAB_LFP_DROP_HDR` (R305). -/
abbrev Off.FAB_LFP_DROP_HDR : Nat := 0x148

/-- Offset of `FAB_LFP_DROP_LEN` (R305). -/
abbrev Off.FAB_LFP_DROP_LEN : Nat := 0x14C

/-- Offset of `FAB_LFP_DROP_CRC` (R305). -/
abbrev Off.FAB_LFP_DROP_CRC : Nat := 0x150

/-- Offset of `FAB_PAUSE_IGNORED` (R305). -/
abbrev Off.FAB_PAUSE_IGNORED : Nat := 0x154

/-- Offset of `FAB_SLEEP_TX_N` (R305). -/
abbrev Off.FAB_SLEEP_TX_N : Nat := 0x158

/-- Offset of `FAB_SLEEP_RX_N` (R305). -/
abbrev Off.FAB_SLEEP_RX_N : Nat := 0x15C

/-- Offset of `FAB_LANE_SEL` (R305). -/
abbrev Off.FAB_LANE_SEL : Nat := 0x160

/-- Offset of `FAB_LANE_CTRL` (R305). -/
abbrev Off.FAB_LANE_CTRL : Nat := 0x164

/-- Offset of `FAB_LANE_FOM` (R305). -/
abbrev Off.FAB_LANE_FOM : Nat := 0x168

/-- Offset of `FAB_LANE_SYM_ERR` (R305). -/
abbrev Off.FAB_LANE_SYM_ERR : Nat := 0x16C

/-- Offset of `FAB_FEC_HIST0` (R305). -/
abbrev Off.FAB_FEC_HIST0 : Nat := 0x180

/-- Offset of `FAB_FEC_HIST1` (R305). -/
abbrev Off.FAB_FEC_HIST1 : Nat := 0x184

/-- Offset of `FAB_FEC_HIST2` (R305). -/
abbrev Off.FAB_FEC_HIST2 : Nat := 0x188

/-- Offset of `FAB_FEC_HIST3` (R305). -/
abbrev Off.FAB_FEC_HIST3 : Nat := 0x18C

/-- Offset of `FAB_FEC_HIST4` (R305). -/
abbrev Off.FAB_FEC_HIST4 : Nat := 0x190

/-- Offset of `FAB_FEC_HIST5` (R305). -/
abbrev Off.FAB_FEC_HIST5 : Nat := 0x194

/-- Offset of `FAB_FEC_HIST6` (R305). -/
abbrev Off.FAB_FEC_HIST6 : Nat := 0x198

/-- Offset of `FAB_FEC_HIST7` (R305). -/
abbrev Off.FAB_FEC_HIST7 : Nat := 0x19C

/-- Offset of `FAB_FEC_HIST8` (R305). -/
abbrev Off.FAB_FEC_HIST8 : Nat := 0x1A0

/-- Offset of `FAB_FEC_HIST9` (R305). -/
abbrev Off.FAB_FEC_HIST9 : Nat := 0x1A4

/-- Offset of `FAB_FEC_HIST10` (R305). -/
abbrev Off.FAB_FEC_HIST10 : Nat := 0x1A8

/-- Offset of `FAB_FEC_HIST11` (R305). -/
abbrev Off.FAB_FEC_HIST11 : Nat := 0x1AC

/-- Offset of `FAB_FEC_HIST12` (R305). -/
abbrev Off.FAB_FEC_HIST12 : Nat := 0x1B0

/-- Offset of `FAB_FEC_HIST13` (R305). -/
abbrev Off.FAB_FEC_HIST13 : Nat := 0x1B4

/-- Offset of `FAB_FEC_HIST14` (R305). -/
abbrev Off.FAB_FEC_HIST14 : Nat := 0x1B8

/-- Offset of `FAB_FEC_HIST15` (R305). -/
abbrev Off.FAB_FEC_HIST15 : Nat := 0x1BC

/-- Offset of `FAB_DISC_POS` (R454). -/
abbrev Off.FAB_DISC_POS : Nat := 0x1C0

/-- Offset of `FAB_DISC_PORT` (R454). -/
abbrev Off.FAB_DISC_PORT : Nat := 0x1C4

/-- Offset of `FAB_DISC_ID` (R454). -/
abbrev Off.FAB_DISC_ID : Nat := 0x1C8

/-- Offset of `FAB_DISC_MAC_LO` (R454). -/
abbrev Off.FAB_DISC_MAC_LO : Nat := 0x1CC

/-- Offset of `FAB_DISC_MAC_HI` (R454). -/
abbrev Off.FAB_DISC_MAC_HI : Nat := 0x1D0

/-- Offset of `FAB_DISC_RX` (R454). -/
abbrev Off.FAB_DISC_RX : Nat := 0x1D4

/-- Offset of `FAB_SCH_SEL` (R282). -/
abbrev Off.FAB_SCH_SEL : Nat := 0x800

/-- Offset of `FAB_POL_CTRL` (R282). -/
abbrev Off.FAB_POL_CTRL : Nat := 0x804

/-- Offset of `FAB_POL_CIR` (R282). -/
abbrev Off.FAB_POL_CIR : Nat := 0x808

/-- Offset of `FAB_POL_CBS` (R282). -/
abbrev Off.FAB_POL_CBS : Nat := 0x80C

/-- Offset of `FAB_POL_PIR` (R282). -/
abbrev Off.FAB_POL_PIR : Nat := 0x810

/-- Offset of `FAB_POL_PBS` (R282). -/
abbrev Off.FAB_POL_PBS : Nat := 0x814

/-- Offset of `FAB_POL_GREEN` (R282). -/
abbrev Off.FAB_POL_GREEN : Nat := 0x818

/-- Offset of `FAB_POL_YELLOW` (R282). -/
abbrev Off.FAB_POL_YELLOW : Nat := 0x81C

/-- Offset of `FAB_POL_RED` (R282). -/
abbrev Off.FAB_POL_RED : Nat := 0x820

/-- Offset of `FAB_POL_DROP` (R282). -/
abbrev Off.FAB_POL_DROP : Nat := 0x824

/-- Offset of `FAB_SHP_CTRL` (R282). -/
abbrev Off.FAB_SHP_CTRL : Nat := 0x830

/-- Offset of `FAB_SHP_RATE` (R282). -/
abbrev Off.FAB_SHP_RATE : Nat := 0x834

/-- Offset of `FAB_SHP_BURST` (R282). -/
abbrev Off.FAB_SHP_BURST : Nat := 0x838

/-- Offset of `FLT_STATE` (R412). -/
abbrev Off.FLT_STATE : Nat := 0x100

/-- Offset of `FLT_FAULTN` (R412). -/
abbrev Off.FLT_FAULTN : Nat := 0x104

/-- Offset of `FLT_FIRST_FATAL` (R412). -/
abbrev Off.FLT_FIRST_FATAL : Nat := 0x108

/-- Offset of `FLT_FENCE_CAUSE0` (R412). -/
abbrev Off.FLT_FENCE_CAUSE0 : Nat := 0x10C

/-- Offset of `FLT_FENCE_CAUSE1` (R412). -/
abbrev Off.FLT_FENCE_CAUSE1 : Nat := 0x110

/-- Offset of `FLT_FENCE_CAUSE2` (R412). -/
abbrev Off.FLT_FENCE_CAUSE2 : Nat := 0x114

/-- Offset of `FLT_FENCE_CAUSE3` (R412). -/
abbrev Off.FLT_FENCE_CAUSE3 : Nat := 0x118

/-- Offset of `FLT_INJECT` (R412). -/
abbrev Off.FLT_INJECT : Nat := 0x120

/-- Offset of `FLT_LOG_HEAD` (R412). -/
abbrev Off.FLT_LOG_HEAD : Nat := 0x130

/-- Offset of `FLT_LOG_OLDEST` (R412). -/
abbrev Off.FLT_LOG_OLDEST : Nat := 0x134

/-- Offset of `FLT_LOG_SEL` (R412). -/
abbrev Off.FLT_LOG_SEL : Nat := 0x138

/-- Offset of `FLT_LOG_OFF` (R412). -/
abbrev Off.FLT_LOG_OFF : Nat := 0x13C

/-- Offset of `FLT_LOG_DATA` (R412). -/
abbrev Off.FLT_LOG_DATA : Nat := 0x140

/-- Offset of `FLT_LOG_STAT` (R412). -/
abbrev Off.FLT_LOG_STAT : Nat := 0x144

/-- Offset of `FLT_LOG_CTRL` (R412). -/
abbrev Off.FLT_LOG_CTRL : Nat := 0x148

/-- Offset of `FLT_PF_COUNT` (R412). -/
abbrev Off.FLT_PF_COUNT : Nat := 0x14C

/-- Offset of `HST_PORT_SEL` (R306). -/
abbrev Off.HST_PORT_SEL : Nat := 0x100

/-- Offset of `HST_PORT_STATE` (R306). -/
abbrev Off.HST_PORT_STATE : Nat := 0x104

/-- Offset of `HST_MAC_BASE_LO` (R306). -/
abbrev Off.HST_MAC_BASE_LO : Nat := 0x108

/-- Offset of `HST_MAC_BASE_HI` (R306). -/
abbrev Off.HST_MAC_BASE_HI : Nat := 0x10C

/-- Offset of `HST_NET_SEL` (R306). -/
abbrev Off.HST_NET_SEL : Nat := 0x110

/-- Offset of `HST_NET_V4` (R306). -/
abbrev Off.HST_NET_V4 : Nat := 0x114

/-- Offset of `HST_NET_V6_0` (R306). -/
abbrev Off.HST_NET_V6_0 : Nat := 0x118

/-- Offset of `HST_NET_V6_1` (R306). -/
abbrev Off.HST_NET_V6_1 : Nat := 0x11C

/-- Offset of `HST_NET_V6_2` (R306). -/
abbrev Off.HST_NET_V6_2 : Nat := 0x120

/-- Offset of `HST_NET_V6_3` (R306). -/
abbrev Off.HST_NET_V6_3 : Nat := 0x124

/-- Offset of `HST_RX_DROP` (R306). -/
abbrev Off.HST_RX_DROP : Nat := 0x128

/-- Offset of `HST_FCS_ERR` (R306). -/
abbrev Off.HST_FCS_ERR : Nat := 0x12C

/-- Offset of `HST_FEC_UNCORR` (R306). -/
abbrev Off.HST_FEC_UNCORR : Nat := 0x130

/-- Offset of `HST_PTP_LAT` (R306). -/
abbrev Off.HST_PTP_LAT : Nat := 0x134

/-- Offset of `HST_LINK_DOWN` (R306). -/
abbrev Off.HST_LINK_DOWN : Nat := 0x138

/-- Offset of `HST_RALOW_PORT` (R372). -/
abbrev Off.HST_RALOW_PORT : Nat := 0x140

/-- Offset of `MEM_CFG` (R334). -/
abbrev Off.MEM_CFG : Nat := 0x100

/-- Offset of `MEM_CH_SEL` (R334). -/
abbrev Off.MEM_CH_SEL : Nat := 0x104

/-- Offset of `MEM_CH_STATE` (R334). -/
abbrev Off.MEM_CH_STATE : Nat := 0x108

/-- Offset of `MEM_CH_CE` (R334). -/
abbrev Off.MEM_CH_CE : Nat := 0x10C

/-- Offset of `MEM_CH_UE` (R334). -/
abbrev Off.MEM_CH_UE : Nat := 0x110

/-- Offset of `MEM_CH_DRIFT` (R334). -/
abbrev Off.MEM_CH_DRIFT : Nat := 0x114

/-- Offset of `MEM_CH_RETRAIN` (R334). -/
abbrev Off.MEM_CH_RETRAIN : Nat := 0x118

/-- Offset of `MEM_CH_FORCED` (R334). -/
abbrev Off.MEM_CH_FORCED : Nat := 0x11C

/-- Offset of `MEM_SCRUB_POS` (R334). -/
abbrev Off.MEM_SCRUB_POS : Nat := 0x120

/-- Offset of `MEM_SCRUB_PASSES` (R334). -/
abbrev Off.MEM_SCRUB_PASSES : Nat := 0x124

/-- Offset of `MEM_QUEUE_WAIT` (R334). -/
abbrev Off.MEM_QUEUE_WAIT : Nat := 0x128

/-- Offset of `MEM_RETRAIN_THR` (R334). -/
abbrev Off.MEM_RETRAIN_THR : Nat := 0x130

/-- Offset of `MEM_SCRUB_CTRL` (R334). -/
abbrev Off.MEM_SCRUB_CTRL : Nat := 0x134

/-- Offset of `MEM_CE_THR` (R334). -/
abbrev Off.MEM_CE_THR : Nat := 0x138

/-- Offset of `MEM_FWL_SEL` (R334). -/
abbrev Off.MEM_FWL_SEL : Nat := 0x140

/-- Offset of `MEM_FWL_ADDR_LO` (R334). -/
abbrev Off.MEM_FWL_ADDR_LO : Nat := 0x144

/-- Offset of `MEM_FWL_ADDR_HI` (R334). -/
abbrev Off.MEM_FWL_ADDR_HI : Nat := 0x148

/-- Offset of `MGT_CHIT_SEL` (R373). -/
abbrev Off.MGT_CHIT_SEL : Nat := 0x100

/-- Offset of `MGT_CHIT_STATUS` (R373). -/
abbrev Off.MGT_CHIT_STATUS : Nat := 0x104

/-- Offset of `MGT_CHIT_REC0` (R373). -/
abbrev Off.MGT_CHIT_REC0 : Nat := 0x108

/-- Offset of `MGT_CHIT_REC1` (R373). -/
abbrev Off.MGT_CHIT_REC1 : Nat := 0x10C

/-- Offset of `MGT_CHIT_REC2` (R373). -/
abbrev Off.MGT_CHIT_REC2 : Nat := 0x110

/-- Offset of `MGT_CHIT_REC3` (R373). -/
abbrev Off.MGT_CHIT_REC3 : Nat := 0x114

/-- Offset of `MGT_CHIT_REC4` (R373). -/
abbrev Off.MGT_CHIT_REC4 : Nat := 0x118

/-- Offset of `MGT_CHIT_REC5` (R373). -/
abbrev Off.MGT_CHIT_REC5 : Nat := 0x11C

/-- Offset of `MGT_CHIT_REC6` (R373). -/
abbrev Off.MGT_CHIT_REC6 : Nat := 0x120

/-- Offset of `MGT_CHIT_REC7` (R373). -/
abbrev Off.MGT_CHIT_REC7 : Nat := 0x124

/-- Offset of `MGT_SESS_SEL` (R373). -/
abbrev Off.MGT_SESS_SEL : Nat := 0x130

/-- Offset of `MGT_SESS_STATE` (R373). -/
abbrev Off.MGT_SESS_STATE : Nat := 0x134

/-- Offset of `MGT_SESS_CTRL` (R373). -/
abbrev Off.MGT_SESS_CTRL : Nat := 0x138

/-- Offset of `MGT_SESS_RX_SEQ` (R373). -/
abbrev Off.MGT_SESS_RX_SEQ : Nat := 0x13C

/-- Offset of `MGT_SESS_TX_SEQ` (R373). -/
abbrev Off.MGT_SESS_TX_SEQ : Nat := 0x140

/-- Offset of `MGT_SESS_STAT` (R373). -/
abbrev Off.MGT_SESS_STAT : Nat := 0x144

/-- Offset of `MGT_SESS_CMDS` (R373). -/
abbrev Off.MGT_SESS_CMDS : Nat := 0x148

/-- Offset of `MGT_SESS_IDLE` (R373). -/
abbrev Off.MGT_SESS_IDLE : Nat := 0x150

/-- Offset of `MGT_CPL_RETRY` (R373). -/
abbrev Off.MGT_CPL_RETRY : Nat := 0x154

/-- Offset of `MGT_CPL_HOLD` (R373). -/
abbrev Off.MGT_CPL_HOLD : Nat := 0x158

/-- Offset of `MGT_RALOW_DROP_TAG` (R373). -/
abbrev Off.MGT_RALOW_DROP_TAG : Nat := 0x15C

/-- Offset of `MGT_RALOW_DROP_SEQ` (R373). -/
abbrev Off.MGT_RALOW_DROP_SEQ : Nat := 0x160

/-- Offset of `MGT_RALOW_DROP_FMT` (R373). -/
abbrev Off.MGT_RALOW_DROP_FMT : Nat := 0x164

/-- Offset of `MGT_CPL_LOST` (R373). -/
abbrev Off.MGT_CPL_LOST : Nat := 0x168

/-- Offset of `MGT_TEL_LOST` (R373). -/
abbrev Off.MGT_TEL_LOST : Nat := 0x16C

/-- Offset of `MGT_EVT_HEAD` (R373). -/
abbrev Off.MGT_EVT_HEAD : Nat := 0x170

/-- Offset of `MGT_EVT_SEL` (R373). -/
abbrev Off.MGT_EVT_SEL : Nat := 0x174

/-- Offset of `MGT_EVT_REC0` (R373). -/
abbrev Off.MGT_EVT_REC0 : Nat := 0x180

/-- Offset of `MGT_EVT_REC1` (R373). -/
abbrev Off.MGT_EVT_REC1 : Nat := 0x184

/-- Offset of `MGT_EVT_REC2` (R373). -/
abbrev Off.MGT_EVT_REC2 : Nat := 0x188

/-- Offset of `MGT_EVT_REC3` (R373). -/
abbrev Off.MGT_EVT_REC3 : Nat := 0x18C

/-- Offset of `MGT_EVT_REC4` (R373). -/
abbrev Off.MGT_EVT_REC4 : Nat := 0x190

/-- Offset of `MGT_EVT_REC5` (R373). -/
abbrev Off.MGT_EVT_REC5 : Nat := 0x194

/-- Offset of `MGT_EVT_REC6` (R373). -/
abbrev Off.MGT_EVT_REC6 : Nat := 0x198

/-- Offset of `MGT_EVT_REC7` (R373). -/
abbrev Off.MGT_EVT_REC7 : Nat := 0x19C

/-- Offset of `MGT_BOOT` (R453). -/
abbrev Off.MGT_BOOT : Nat := 0x1A0

/-- Offset of `MGT_POSITION` (R453). -/
abbrev Off.MGT_POSITION : Nat := 0x1A4

/-- Offset of `MGT_MODE` (R453). -/
abbrev Off.MGT_MODE : Nat := 0x1A8

/-- Offset of `MGT_NETCFG` (R453). -/
abbrev Off.MGT_NETCFG : Nat := 0x1AC

/-- Offset of `MGT_SHUTDOWN` (R453). -/
abbrev Off.MGT_SHUTDOWN : Nat := 0x1B0

/-- Offset of `ORB_CTRL` (R281). -/
abbrev Off.ORB_CTRL : Nat := 0x100

/-- Offset of `ORB_MASTER_INTERVAL` (R281). -/
abbrev Off.ORB_MASTER_INTERVAL : Nat := 0x104

/-- Offset of `ORB_MASTER_ID` (R281). -/
abbrev Off.ORB_MASTER_ID : Nat := 0x108

/-- Offset of `ORB_PIN_MASTER_ID` (R281). -/
abbrev Off.ORB_PIN_MASTER_ID : Nat := 0x10C

/-- Offset of `ORB_SRC0` (R281). -/
abbrev Off.ORB_SRC0 : Nat := 0x110

/-- Offset of `ORB_SRC1` (R281). -/
abbrev Off.ORB_SRC1 : Nat := 0x114

/-- Offset of `ORB_SRC2` (R281). -/
abbrev Off.ORB_SRC2 : Nat := 0x118

/-- Offset of `ORB_SRC3` (R281). -/
abbrev Off.ORB_SRC3 : Nat := 0x11C

/-- Offset of `ORB_SRC_DELAY0` (R281). -/
abbrev Off.ORB_SRC_DELAY0 : Nat := 0x120

/-- Offset of `ORB_SRC_DELAY1` (R281). -/
abbrev Off.ORB_SRC_DELAY1 : Nat := 0x124

/-- Offset of `ORB_SRC_DELAY2` (R281). -/
abbrev Off.ORB_SRC_DELAY2 : Nat := 0x128

/-- Offset of `ORB_SRC_DELAY3` (R281). -/
abbrev Off.ORB_SRC_DELAY3 : Nat := 0x12C

/-- Offset of `ORB_STATE` (R281). -/
abbrev Off.ORB_STATE : Nat := 0x130

/-- Offset of `ORB_ANGLE` (R281). -/
abbrev Off.ORB_ANGLE : Nat := 0x134

/-- Offset of `ORB_TURN` (R281). -/
abbrev Off.ORB_TURN : Nat := 0x138

/-- Offset of `ORB_INTERVAL` (R281). -/
abbrev Off.ORB_INTERVAL : Nat := 0x13C

/-- Offset of `ORB_MASTER_SEEN` (R281). -/
abbrev Off.ORB_MASTER_SEEN : Nat := 0x140

/-- Offset of `ORB_JUMP_MAX` (R281). -/
abbrev Off.ORB_JUMP_MAX : Nat := 0x144

/-- Offset of `ORB_SLIP` (R281). -/
abbrev Off.ORB_SLIP : Nat := 0x148

/-- Offset of `ORB_SWITCHES` (R281). -/
abbrev Off.ORB_SWITCHES : Nat := 0x14C

/-- Offset of `ORB_LOSSES` (R281). -/
abbrev Off.ORB_LOSSES : Nat := 0x150

/-- Offset of `ORB_MARGIN` (R281). -/
abbrev Off.ORB_MARGIN : Nat := 0x154

/-- Offset of `ORB_TEL_CTRL` (R281). -/
abbrev Off.ORB_TEL_CTRL : Nat := 0x158

/-- Offset of `ORB_BEACON_EN0` (R281). -/
abbrev Off.ORB_BEACON_EN0 : Nat := 0x160

/-- Offset of `ORB_BEACON_EN1` (R281). -/
abbrev Off.ORB_BEACON_EN1 : Nat := 0x164

/-- Offset of `ORB_BEACON_EN2` (R281). -/
abbrev Off.ORB_BEACON_EN2 : Nat := 0x168

/-- Offset of `ORB_BEACON_EN3` (R281). -/
abbrev Off.ORB_BEACON_EN3 : Nat := 0x16C

/-- Offset of `ORB_BEACON_EN4` (R281). -/
abbrev Off.ORB_BEACON_EN4 : Nat := 0x170

/-- Offset of `ORB_BEACON_EN5` (R281). -/
abbrev Off.ORB_BEACON_EN5 : Nat := 0x174

/-- Offset of `ORB_BEACON_EN6` (R281). -/
abbrev Off.ORB_BEACON_EN6 : Nat := 0x178

/-- Offset of `ORB_BEACON_EN7` (R281). -/
abbrev Off.ORB_BEACON_EN7 : Nat := 0x17C

/-- Offset of `ORB_BEACON_EN8` (R281). -/
abbrev Off.ORB_BEACON_EN8 : Nat := 0x180

/-- Offset of `ORB_BEACON_EN9` (R281). -/
abbrev Off.ORB_BEACON_EN9 : Nat := 0x184

/-- Offset of `ORB_BEACON_EN10` (R281). -/
abbrev Off.ORB_BEACON_EN10 : Nat := 0x188

/-- Offset of `ORB_BEACON_EN11` (R281). -/
abbrev Off.ORB_BEACON_EN11 : Nat := 0x18C

/-- Offset of `ORB_BEACON_EN12` (R281). -/
abbrev Off.ORB_BEACON_EN12 : Nat := 0x190

/-- Offset of `ORB_BEACON_EN13` (R281). -/
abbrev Off.ORB_BEACON_EN13 : Nat := 0x194

/-- Offset of `ORB_BEACON_EN14` (R281). -/
abbrev Off.ORB_BEACON_EN14 : Nat := 0x198

/-- Offset of `ORB_BEACON_EN15` (R281). -/
abbrev Off.ORB_BEACON_EN15 : Nat := 0x19C

/-- Offset of `ORB_GPORT_SEL` (R281). -/
abbrev Off.ORB_GPORT_SEL : Nat := 0x1A0

/-- Offset of `ORB_GPORT_LIST` (R281). -/
abbrev Off.ORB_GPORT_LIST : Nat := 0x1A4

/-- Offset of `ORB_GPORT_PHASE` (R281). -/
abbrev Off.ORB_GPORT_PHASE : Nat := 0x1A8

/-- Offset of `ORB_GPORT_SWAP` (R281). -/
abbrev Off.ORB_GPORT_SWAP : Nat := 0x1AC

/-- Offset of `ORB_GPORT_STAT` (R281). -/
abbrev Off.ORB_GPORT_STAT : Nat := 0x1B0

/-- Offset of `ORB_GPORT_OVERRUN` (R281). -/
abbrev Off.ORB_GPORT_OVERRUN : Nat := 0x1B4

/-- Offset of `ORB_GPORT_GUARD` (R281). -/
abbrev Off.ORB_GPORT_GUARD : Nat := 0x1B8

/-- Offset of `ORB_GENT_SEL` (R281). -/
abbrev Off.ORB_GENT_SEL : Nat := 0x1C0

/-- Offset of `ORB_GENT_OFF` (R281). -/
abbrev Off.ORB_GENT_OFF : Nat := 0x1C4

/-- Offset of `ORB_GENT_OPEN` (R281). -/
abbrev Off.ORB_GENT_OPEN : Nat := 0x1C8

/-- Offset of `ORB_GENT_MIN` (R281). -/
abbrev Off.ORB_GENT_MIN : Nat := 0x1CC

/-- Offset of `ORB_GENT_MAX` (R281). -/
abbrev Off.ORB_GENT_MAX : Nat := 0x1D0

/-- Offset of `ORB_CAL_SEL` (R281). -/
abbrev Off.ORB_CAL_SEL : Nat := 0x1E0

/-- Offset of `ORB_CAL_TARGET` (R281). -/
abbrev Off.ORB_CAL_TARGET : Nat := 0x1E4

/-- Offset of `ORB_CAL_START` (R281). -/
abbrev Off.ORB_CAL_START : Nat := 0x1E8

/-- Offset of `ORB_CAL_LEN` (R281). -/
abbrev Off.ORB_CAL_LEN : Nat := 0x1EC

/-- Offset of `ORB_CAL_SECT_LO` (R281). -/
abbrev Off.ORB_CAL_SECT_LO : Nat := 0x1F0

/-- Offset of `ORB_CAL_SECT_HI` (R281). -/
abbrev Off.ORB_CAL_SECT_HI : Nat := 0x1F4

/-- Offset of `ORB_CAL_RUN` (R281). -/
abbrev Off.ORB_CAL_RUN : Nat := 0x1F8

/-- Offset of `ORB_CAL_SKIP` (R281). -/
abbrev Off.ORB_CAL_SKIP : Nat := 0x1FC

/-- Offset of `ORB_CAL_CUT` (R281). -/
abbrev Off.ORB_CAL_CUT : Nat := 0x200

/-- Offset of `ORB_CAL_RXDROP` (R281). -/
abbrev Off.ORB_CAL_RXDROP : Nat := 0x204

/-- Offset of `ORB_PTP_CTRL` (R281). -/
abbrev Off.ORB_PTP_CTRL : Nat := 0x210

/-- Offset of `ORB_WALL_SEC_LO` (R281). -/
abbrev Off.ORB_WALL_SEC_LO : Nat := 0x214

/-- Offset of `ORB_WALL_SEC_HI` (R281). -/
abbrev Off.ORB_WALL_SEC_HI : Nat := 0x218

/-- Offset of `ORB_WALL_NS` (R281). -/
abbrev Off.ORB_WALL_NS : Nat := 0x21C

/-- Offset of `ORB_PTP_OFFSET` (R281). -/
abbrev Off.ORB_PTP_OFFSET : Nat := 0x220

/-- Offset of `ORB_PTP_STATE` (R281). -/
abbrev Off.ORB_PTP_STATE : Nat := 0x224

/-- Offset of `PWR_STATE` (R439). -/
abbrev Off.PWR_STATE : Nat := 0x100

/-- Offset of `PWR_VIN` (R439). -/
abbrev Off.PWR_VIN : Nat := 0x104

/-- Offset of `PWR_IIN` (R439). -/
abbrev Off.PWR_IIN : Nat := 0x108

/-- Offset of `PWR_PIN` (R439). -/
abbrev Off.PWR_PIN : Nat := 0x10C

/-- Offset of `PWR_PIN_MAX` (R439). -/
abbrev Off.PWR_PIN_MAX : Nat := 0x110

/-- Offset of `PWR_CAP` (R439). -/
abbrev Off.PWR_CAP : Nat := 0x114

/-- Offset of `PWR_RAMP` (R439). -/
abbrev Off.PWR_RAMP : Nat := 0x118

/-- Offset of `PWR_RAMP_STAT` (R439). -/
abbrev Off.PWR_RAMP_STAT : Nat := 0x11C

/-- Offset of `PWR_THERM` (R439). -/
abbrev Off.PWR_THERM : Nat := 0x120

/-- Offset of `PWR_DRAM_THERM` (R439). -/
abbrev Off.PWR_DRAM_THERM : Nat := 0x124

/-- Offset of `PWR_TEMP_SEL` (R439). -/
abbrev Off.PWR_TEMP_SEL : Nat := 0x128

/-- Offset of `PWR_TEMP` (R439). -/
abbrev Off.PWR_TEMP : Nat := 0x12C

/-- Offset of `PWR_TJ_MAX` (R439). -/
abbrev Off.PWR_TJ_MAX : Nat := 0x130

/-- Offset of `RDX_RESIDUE_ERR` (R82). -/
abbrev Off.RDX_RESIDUE_ERR : Nat := 0x100

/-- Offset of `RDX_COUNT_ERR` (R82). -/
abbrev Off.RDX_COUNT_ERR : Nat := 0x104

/-- Offset of `RDX_CELL_BUSY` (R82). -/
abbrev Off.RDX_CELL_BUSY : Nat := 0x108

/-- Offset of `RGC_JOB_SEL` (R89). -/
abbrev Off.RGC_JOB_SEL : Nat := 0x100

/-- Offset of `RGC_JOB_WSEL` (R89). -/
abbrev Off.RGC_JOB_WSEL : Nat := 0x104

/-- Offset of `RGC_JOB_DATA` (R89). -/
abbrev Off.RGC_JOB_DATA : Nat := 0x108

/-- Offset of `RGC_GRP_SEL` (R89). -/
abbrev Off.RGC_GRP_SEL : Nat := 0x10C

/-- Offset of `RGC_GRP_W0` (R89). -/
abbrev Off.RGC_GRP_W0 : Nat := 0x110

/-- Offset of `RGC_GRP_W1` (R89). -/
abbrev Off.RGC_GRP_W1 : Nat := 0x114

/-- Offset of `RGC_GRP_W2` (R89). -/
abbrev Off.RGC_GRP_W2 : Nat := 0x118

/-- Offset of `RGC_GRP_W3` (R89). -/
abbrev Off.RGC_GRP_W3 : Nat := 0x11C

/-- Offset of `RGC_MBR_SEL` (R89). -/
abbrev Off.RGC_MBR_SEL : Nat := 0x120

/-- Offset of `RGC_MBR_LO` (R89). -/
abbrev Off.RGC_MBR_LO : Nat := 0x124

/-- Offset of `RGC_MBR_HI` (R89). -/
abbrev Off.RGC_MBR_HI : Nat := 0x128

/-- Offset of `RGC_PLAN_WSEL` (R89). -/
abbrev Off.RGC_PLAN_WSEL : Nat := 0x12C

/-- Offset of `RGC_PLAN_DATA` (R89). -/
abbrev Off.RGC_PLAN_DATA : Nat := 0x130

/-- Offset of `RGC_STEP_STAT` (R89). -/
abbrev Off.RGC_STEP_STAT : Nat := 0x134

/-- Offset of `RGC_STEP` (R89). -/
abbrev Off.RGC_STEP : Nat := 0x138

/-- Offset of `RGC_DEADLINE` (R89). -/
abbrev Off.RGC_DEADLINE : Nat := 0x13C

/-- Offset of `RGC_LAG_SEL` (R89). -/
abbrev Off.RGC_LAG_SEL : Nat := 0x140

/-- Offset of `RGC_LAG_ARRIVED` (R89). -/
abbrev Off.RGC_LAG_ARRIVED : Nat := 0x144

/-- Offset of `RGC_LAG_LAST` (R89). -/
abbrev Off.RGC_LAG_LAST : Nat := 0x148

/-- Offset of `RGC_LAG_NAMED` (R89). -/
abbrev Off.RGC_LAG_NAMED : Nat := 0x14C

/-- Offset of `RGC_LOCK_VIOL` (R89). -/
abbrev Off.RGC_LOCK_VIOL : Nat := 0x150

/-- Offset of `RGC_DROP_INACTIVE` (R89). -/
abbrev Off.RGC_DROP_INACTIVE : Nat := 0x154

/-- Offset of `RGC_DROP_LATE` (R89). -/
abbrev Off.RGC_DROP_LATE : Nat := 0x158

/-- Offset of `RGC_SLC_SEL` (R150). -/
abbrev Off.RGC_SLC_SEL : Nat := 0x160

/-- Offset of `RGC_SLC_WSEL` (R150). -/
abbrev Off.RGC_SLC_WSEL : Nat := 0x164

/-- Offset of `RGC_SLC_DATA` (R150). -/
abbrev Off.RGC_SLC_DATA : Nat := 0x168

/-- Offset of `RGC_WIN_REFUSED` (R150). -/
abbrev Off.RGC_WIN_REFUSED : Nat := 0x16C

/-- Offset of `RGC_WIN_SEL` (R335). -/
abbrev Off.RGC_WIN_SEL : Nat := 0x170

/-- Offset of `RGC_WIN_WSEL` (R335). -/
abbrev Off.RGC_WIN_WSEL : Nat := 0x174

/-- Offset of `RGC_WIN_DATA` (R335). -/
abbrev Off.RGC_WIN_DATA : Nat := 0x178

/-- Offset of `RST_SLOT_SEL` (R81). -/
abbrev Off.RST_SLOT_SEL : Nat := 0x100

/-- Offset of `RST_QUOTA_MIN` (R81). -/
abbrev Off.RST_QUOTA_MIN : Nat := 0x104

/-- Offset of `RST_QUOTA_MAX` (R81). -/
abbrev Off.RST_QUOTA_MAX : Nat := 0x108

/-- Offset of `RST_QUOTA_CUR` (R81). -/
abbrev Off.RST_QUOTA_CUR : Nat := 0x10C

/-- Offset of `RST_INUSE` (R81). -/
abbrev Off.RST_INUSE : Nat := 0x110

/-- Offset of `RST_POOL_FREE` (R81). -/
abbrev Off.RST_POOL_FREE : Nat := 0x114

/-- Offset of `RST_DROP_UNGRANTED` (R81). -/
abbrev Off.RST_DROP_UNGRANTED : Nat := 0x118

/-- Offset of `RST_DROP_FORMAT` (R81). -/
abbrev Off.RST_DROP_FORMAT : Nat := 0x11C

/-- Offset of `RST_DROP_SEGMENT` (R81). -/
abbrev Off.RST_DROP_SEGMENT : Nat := 0x120

/-- Offset of `RST_DROP_DUP` (R81). -/
abbrev Off.RST_DROP_DUP : Nat := 0x124

/-- Offset of `RST_COND_STEP` (R81). -/
abbrev Off.RST_COND_STEP : Nat := 0x128

/-- Offset of `RST_COND_FLAGS` (R81). -/
abbrev Off.RST_COND_FLAGS : Nat := 0x12C

/-- Offset of `RST_COND_NAN` (R81). -/
abbrev Off.RST_COND_NAN : Nat := 0x130

/-- Offset of `RST_COND_OVF` (R81). -/
abbrev Off.RST_COND_OVF : Nat := 0x134

/-- Offset of `RST_COND_BF` (R81). -/
abbrev Off.RST_COND_BF : Nat := 0x138

/-- Offset of `RST_COND_FAULT` (R81). -/
abbrev Off.RST_COND_FAULT : Nat := 0x13C

/-- Offset of `SEC_STATE` (R389). -/
abbrev Off.SEC_STATE : Nat := 0x100

/-- Offset of `SEC_FW_VERSION` (R389). -/
abbrev Off.SEC_FW_VERSION : Nat := 0x104

/-- Offset of `SEC_FW_SVN` (R389). -/
abbrev Off.SEC_FW_SVN : Nat := 0x108

/-- Offset of `SEC_FW_CTR` (R389). -/
abbrev Off.SEC_FW_CTR : Nat := 0x10C

/-- Offset of `SEC_ID_HASH0` (R389). -/
abbrev Off.SEC_ID_HASH0 : Nat := 0x110

/-- Offset of `SEC_ID_HASH1` (R389). -/
abbrev Off.SEC_ID_HASH1 : Nat := 0x114

/-- Offset of `SEC_ID_HASH2` (R389). -/
abbrev Off.SEC_ID_HASH2 : Nat := 0x118

/-- Offset of `SEC_ID_HASH3` (R389). -/
abbrev Off.SEC_ID_HASH3 : Nat := 0x11C

/-- Offset of `SEC_ID_HASH4` (R389). -/
abbrev Off.SEC_ID_HASH4 : Nat := 0x120

/-- Offset of `SEC_ID_HASH5` (R389). -/
abbrev Off.SEC_ID_HASH5 : Nat := 0x124

/-- Offset of `SEC_ID_HASH6` (R389). -/
abbrev Off.SEC_ID_HASH6 : Nat := 0x128

/-- Offset of `SEC_ID_HASH7` (R389). -/
abbrev Off.SEC_ID_HASH7 : Nat := 0x12C

/-- Offset of `SEC_ANCHOR_SEL` (R389). -/
abbrev Off.SEC_ANCHOR_SEL : Nat := 0x130

/-- Offset of `SEC_ANCHOR_CTRL` (R389). -/
abbrev Off.SEC_ANCHOR_CTRL : Nat := 0x134

/-- Offset of `SEC_ANCHOR_HASH0` (R389). -/
abbrev Off.SEC_ANCHOR_HASH0 : Nat := 0x138

/-- Offset of `SEC_ANCHOR_HASH1` (R389). -/
abbrev Off.SEC_ANCHOR_HASH1 : Nat := 0x13C

/-- Offset of `SEC_ANCHOR_HASH2` (R389). -/
abbrev Off.SEC_ANCHOR_HASH2 : Nat := 0x140

/-- Offset of `SEC_ANCHOR_HASH3` (R389). -/
abbrev Off.SEC_ANCHOR_HASH3 : Nat := 0x144

/-- Offset of `SEC_ANCHOR_HASH4` (R389). -/
abbrev Off.SEC_ANCHOR_HASH4 : Nat := 0x148

/-- Offset of `SEC_ANCHOR_HASH5` (R389). -/
abbrev Off.SEC_ANCHOR_HASH5 : Nat := 0x14C

/-- Offset of `SEC_ANCHOR_HASH6` (R389). -/
abbrev Off.SEC_ANCHOR_HASH6 : Nat := 0x150

/-- Offset of `SEC_ANCHOR_HASH7` (R389). -/
abbrev Off.SEC_ANCHOR_HASH7 : Nat := 0x154

/-- Offset of `SEC_STAGE_ADDR` (R389). -/
abbrev Off.SEC_STAGE_ADDR : Nat := 0x160

/-- Offset of `SEC_STAGE_DATA` (R389). -/
abbrev Off.SEC_STAGE_DATA : Nat := 0x164

/-- Offset of `SEC_MAINT_CTRL` (R389). -/
abbrev Off.SEC_MAINT_CTRL : Nat := 0x170

/-- Offset of `SEC_MAINT_TMO` (R389). -/
abbrev Off.SEC_MAINT_TMO : Nat := 0x174

/-- Offset of `SEC_INJECT_N` (R389). -/
abbrev Off.SEC_INJECT_N : Nat := 0x178

/-- Offset of `SEC_RPT_OFF` (R389). -/
abbrev Off.SEC_RPT_OFF : Nat := 0x180

/-- Offset of `SEC_RPT_DATA` (R389). -/
abbrev Off.SEC_RPT_DATA : Nat := 0x184

/-- Offset of `SEC_LOG_HEAD` (R389). -/
abbrev Off.SEC_LOG_HEAD : Nat := 0x190

/-- Offset of `SEC_LOG_DIGEST0` (R389). -/
abbrev Off.SEC_LOG_DIGEST0 : Nat := 0x1A0

/-- Offset of `SEC_LOG_DIGEST1` (R389). -/
abbrev Off.SEC_LOG_DIGEST1 : Nat := 0x1A4

/-- Offset of `SEC_LOG_DIGEST2` (R389). -/
abbrev Off.SEC_LOG_DIGEST2 : Nat := 0x1A8

/-- Offset of `SEC_LOG_DIGEST3` (R389). -/
abbrev Off.SEC_LOG_DIGEST3 : Nat := 0x1AC

/-- Offset of `SEC_LOG_DIGEST4` (R389). -/
abbrev Off.SEC_LOG_DIGEST4 : Nat := 0x1B0

/-- Offset of `SEC_LOG_DIGEST5` (R389). -/
abbrev Off.SEC_LOG_DIGEST5 : Nat := 0x1B4

/-- Offset of `SEC_LOG_DIGEST6` (R389). -/
abbrev Off.SEC_LOG_DIGEST6 : Nat := 0x1B8

/-- Offset of `SEC_LOG_DIGEST7` (R389). -/
abbrev Off.SEC_LOG_DIGEST7 : Nat := 0x1BC

/-- Offset of `SWC_LFP_UDP_PORT` (R243). -/
abbrev Off.SWC_LFP_UDP_PORT : Nat := 0x100

/-- Offset of `SWC_FAB_V4` (R243). -/
abbrev Off.SWC_FAB_V4 : Nat := 0x104

/-- Offset of `SWC_FAB_V6_0` (R243). -/
abbrev Off.SWC_FAB_V6_0 : Nat := 0x108

/-- Offset of `SWC_FAB_V6_1` (R243). -/
abbrev Off.SWC_FAB_V6_1 : Nat := 0x10C

/-- Offset of `SWC_FAB_V6_2` (R243). -/
abbrev Off.SWC_FAB_V6_2 : Nat := 0x110

/-- Offset of `SWC_FAB_V6_3` (R243). -/
abbrev Off.SWC_FAB_V6_3 : Nat := 0x114

/-- Offset of `SWC_ROUTE_CTRL` (R243). -/
abbrev Off.SWC_ROUTE_CTRL : Nat := 0x118

/-- Offset of `SWC_EM_SEL` (R243). -/
abbrev Off.SWC_EM_SEL : Nat := 0x11C

/-- Offset of `SWC_EM_KEY` (R243). -/
abbrev Off.SWC_EM_KEY : Nat := 0x120

/-- Offset of `SWC_EM_PSET` (R243). -/
abbrev Off.SWC_EM_PSET : Nat := 0x124

/-- Offset of `SWC_RT_SEL` (R243). -/
abbrev Off.SWC_RT_SEL : Nat := 0x128

/-- Offset of `SWC_RT_DATA` (R243). -/
abbrev Off.SWC_RT_DATA : Nat := 0x12C

/-- Offset of `SWC_PS_SEL` (R243). -/
abbrev Off.SWC_PS_SEL : Nat := 0x130

/-- Offset of `SWC_PS_DATA` (R243). -/
abbrev Off.SWC_PS_DATA : Nat := 0x134

/-- Offset of `SWC_PS_WEIGHT` (R243). -/
abbrev Off.SWC_PS_WEIGHT : Nat := 0x138

/-- Offset of `SWC_PORT_SEL` (R243). -/
abbrev Off.SWC_PORT_SEL : Nat := 0x13C

/-- Offset of `SWC_PORT_ATTR` (R243). -/
abbrev Off.SWC_PORT_ATTR : Nat := 0x140

/-- Offset of `SWC_PORT_HDRM` (R243). -/
abbrev Off.SWC_PORT_HDRM : Nat := 0x144

/-- Offset of `SWC_PORT_PEER_LO` (R243). -/
abbrev Off.SWC_PORT_PEER_LO : Nat := 0x148

/-- Offset of `SWC_PORT_PEER_HI` (R243). -/
abbrev Off.SWC_PORT_PEER_HI : Nat := 0x14C

/-- Offset of `SWC_MAC_BASE_LO` (R243). -/
abbrev Off.SWC_MAC_BASE_LO : Nat := 0x150

/-- Offset of `SWC_MAC_BASE_HI` (R243). -/
abbrev Off.SWC_MAC_BASE_HI : Nat := 0x154

/-- Offset of `SWC_FLOWLET` (R243). -/
abbrev Off.SWC_FLOWLET : Nat := 0x158

/-- Offset of `SWC_CLASS_WEIGHT` (R243). -/
abbrev Off.SWC_CLASS_WEIGHT : Nat := 0x15C

/-- Offset of `SWC_POOL_SEL` (R243). -/
abbrev Off.SWC_POOL_SEL : Nat := 0x160

/-- Offset of `SWC_POOL_SIZE` (R243). -/
abbrev Off.SWC_POOL_SIZE : Nat := 0x164

/-- Offset of `SWC_POOL_LEVEL` (R243). -/
abbrev Off.SWC_POOL_LEVEL : Nat := 0x168

/-- Offset of `SWC_POOL_WARN` (R243). -/
abbrev Off.SWC_POOL_WARN : Nat := 0x16C

/-- Offset of `SWC_POOL_PRESS` (R243). -/
abbrev Off.SWC_POOL_PRESS : Nat := 0x170

/-- Offset of `SWC_POOL_STOP` (R243). -/
abbrev Off.SWC_POOL_STOP : Nat := 0x174

/-- Offset of `SWC_POOL_QUAR` (R243). -/
abbrev Off.SWC_POOL_QUAR : Nat := 0x178

/-- Offset of `SWC_REQ_SEL` (R243). -/
abbrev Off.SWC_REQ_SEL : Nat := 0x17C

/-- Offset of `SWC_REQ_MIN` (R243). -/
abbrev Off.SWC_REQ_MIN : Nat := 0x180

/-- Offset of `SWC_REQ_MAX` (R243). -/
abbrev Off.SWC_REQ_MAX : Nat := 0x184

/-- Offset of `SWC_REQ_CUR` (R243). -/
abbrev Off.SWC_REQ_CUR : Nat := 0x188

/-- Offset of `SWC_REQ_INUSE` (R243). -/
abbrev Off.SWC_REQ_INUSE : Nat := 0x18C

/-- Offset of `SWC_QUOTA_REFUSED` (R243). -/
abbrev Off.SWC_QUOTA_REFUSED : Nat := 0x190

/-- Offset of `SWC_MIR_SEL` (R243). -/
abbrev Off.SWC_MIR_SEL : Nat := 0x1A0

/-- Offset of `SWC_MIR_CFG` (R243). -/
abbrev Off.SWC_MIR_CFG : Nat := 0x1A4

/-- Offset of `SWC_MIR_LOST` (R243). -/
abbrev Off.SWC_MIR_LOST : Nat := 0x1A8

/-- Offset of `SWC_CMAP_CTRL` (R243). -/
abbrev Off.SWC_CMAP_CTRL : Nat := 0x1B0

/-- Offset of `SWC_DROP_PARSE` (R243). -/
abbrev Off.SWC_DROP_PARSE : Nat := 0x1C0

/-- Offset of `SWC_DROP_PREFIX` (R243). -/
abbrev Off.SWC_DROP_PREFIX : Nat := 0x1C4

/-- Offset of `SWC_DROP_HOP` (R243). -/
abbrev Off.SWC_DROP_HOP : Nat := 0x1C8

/-- Offset of `SWC_DROP_PREPOS` (R243). -/
abbrev Off.SWC_DROP_PREPOS : Nat := 0x1CC

/-- Offset of `SWC_DROP_TERM` (R243). -/
abbrev Off.SWC_DROP_TERM : Nat := 0x1D0

/-- Offset of `SWC_DROP_NOROUTE` (R243). -/
abbrev Off.SWC_DROP_NOROUTE : Nat := 0x1D4

/-- Offset of `SWC_DROP_NOPATH` (R243). -/
abbrev Off.SWC_DROP_NOPATH : Nat := 0x1D8

/-- Offset of `SWC_DROP_TURN` (R243). -/
abbrev Off.SWC_DROP_TURN : Nat := 0x1DC

/-- Offset of `SWC_DROP_LOSSY` (R243). -/
abbrev Off.SWC_DROP_LOSSY : Nat := 0x1E0

/-- Offset of `SWC_DROP_HDRM` (R243). -/
abbrev Off.SWC_DROP_HDRM : Nat := 0x1E4

/-- Offset of `SWC_DROP_FENCE` (R243). -/
abbrev Off.SWC_DROP_FENCE : Nat := 0x1E8

/-- Offset of `SWC_DROP_UE` (R243). -/
abbrev Off.SWC_DROP_UE : Nat := 0x1EC

/-- Offset of `SWC_SWAP_STAT` (R243). -/
abbrev Off.SWC_SWAP_STAT : Nat := 0x1F0

/-- Offset of `SWC_SWAP_INFLIGHT` (R243). -/
abbrev Off.SWC_SWAP_INFLIGHT : Nat := 0x1F4

/-- Offset of `SWC_DESC_FREE` (R243). -/
abbrev Off.SWC_DESC_FREE : Nat := 0x1F8

/-- Registers of a FAB page, part 0. -/
def rowsFAB0 : List RegRow := [
  ⟨Off.FAB_BLK_MODE, .one, [⟨0, 2, .RW, 0x0, 0, 0x3⟩, ⟨8, 8, .RW, 0x0, 0, 0xFF⟩]⟩,
  ⟨Off.FAB_FOM_THR, .one, [⟨0, 8, .RW, 0x30, 0, 0xFF⟩, ⟨8, 8, .RW, 0x4C, 0, 0xFF⟩, ⟨16, 8, .RW, 0x4C, 0, 0xFF⟩, ⟨24, 8, .RW, 0x4C, 0, 0xFF⟩]⟩,
  ⟨Off.FAB_FOM_LOW, .one, [⟨0, 8, .RW, 0x48, 0, 0xFF⟩, ⟨8, 8, .RW, 0x4A, 0, 0xFF⟩]⟩,
  ⟨Off.FAB_HISER, .one, [⟨0, 16, .RW, 0x20, 0, 0xFFFF⟩]⟩,
  ⟨Off.FAB_PORT_SEL, .one, [⟨0, 3, .RW, 0x0, 0, 0x7⟩]⟩,
  ⟨Off.FAB_PORT_CTRL, .fabPort, [⟨0, 1, .RW, 0x0, 0, 0x1⟩, ⟨1, 1, .RW, 0x1, 0, 0x1⟩, ⟨2, 1, .RW, 0x0, 0, 0x1⟩, ⟨4, 4, .RW, 0x3, 1, 0xF⟩]⟩,
  ⟨Off.FAB_PORT_STATE, .fabPort, [⟨0, 4, .ROH, 0x0, 0, 0xF⟩, ⟨4, 4, .ROH, 0x0, 0, 0xF⟩, ⟨8, 4, .ROH, 0x0, 0, 0xF⟩, ⟨12, 4, .ROH, 0x0, 0, 0xF⟩, ⟨16, 8, .ROH, 0x0, 0, 0xFF⟩, ⟨24, 1, .ROH, 0x0, 0, 0x1⟩, ⟨25, 1, .ROH, 0x0, 0, 0x1⟩]⟩,
  ⟨Off.FAB_PORT_SLEEP, .fabPort, [⟨0, 16, .RW, 0x0, 0, 0xFFFF⟩, ⟨16, 16, .RW, 0x7D0, 0, 0xFFFF⟩]⟩,
  ⟨Off.FAB_PORT_PEER_CAP, .fabPort, [⟨0, 32, .ROH, 0x0, 0, 0xFFFFFFFF⟩]⟩,
  ⟨Off.FAB_FEC_CW_LO, .fabPort, [⟨0, 32, .ROH, 0x0, 0, 0xFFFFFFFF⟩]⟩,
  ⟨Off.FAB_FEC_CW_HI, .fabPort, [⟨0, 32, .ROH, 0x0, 0, 0xFFFFFFFF⟩]⟩,
  ⟨Off.FAB_FEC_CORR_CW, .fabPort, [⟨0, 32, .ROH, 0x0, 0, 0xFFFFFFFF⟩]⟩,
  ⟨Off.FAB_FEC_UNCORR_CW, .fabPort, [⟨0, 32, .ROH, 0x0, 0, 0xFFFFFFFF⟩]⟩,
  ⟨Off.FAB_FEC_SYM, .fabPort, [⟨0, 32, .ROH, 0x0, 0, 0xFFFFFFFF⟩]⟩,
  ⟨Off.FAB_RX_FCS_ERR, .fabPort, [⟨0, 32, .ROH, 0x0, 0, 0xFFFFFFFF⟩]⟩,
  ⟨Off.FAB_LINK_DOWN, .fabPort, [⟨0, 32, .ROH, 0x0, 0, 0xFFFFFFFF⟩]⟩,
  ⟨Off.FAB_RETRAIN, .fabPort, [⟨0, 32, .ROH, 0x0, 0, 0xFFFFFFFF⟩]⟩,
  ⟨Off.FAB_DROP_DOWN, .fabPort, [⟨0, 32, .ROH, 0x0, 0, 0xFFFFFFFF⟩]⟩,
  ⟨Off.FAB_LFP_DROP_HDR, .fabPort, [⟨0, 32, .ROH, 0x0, 0, 0xFFFFFFFF⟩]⟩,
  ⟨Off.FAB_LFP_DROP_LEN, .fabPort, [⟨0, 32, .ROH, 0x0, 0, 0xFFFFFFFF⟩]⟩,
  ⟨Off.FAB_LFP_DROP_CRC, .fabPort, [⟨0, 32, .ROH, 0x0, 0, 0xFFFFFFFF⟩]⟩,
  ⟨Off.FAB_PAUSE_IGNORED, .fabPort, [⟨0, 32, .ROH, 0x0, 0, 0xFFFFFFFF⟩]⟩,
  ⟨Off.FAB_SLEEP_TX_N, .fabPort, [⟨0, 32, .ROH, 0x0, 0, 0xFFFFFFFF⟩]⟩,
  ⟨Off.FAB_SLEEP_RX_N, .fabPort, [⟨0, 32, .ROH, 0x0, 0, 0xFFFFFFFF⟩]⟩]

/-- Registers of a FAB page, part 1. -/
def rowsFAB1 : List RegRow := [
  ⟨Off.FAB_LANE_SEL, .one, [⟨0, 3, .RW, 0x0, 0, 0x7⟩]⟩,
  ⟨Off.FAB_LANE_CTRL, .fabLane, [⟨0, 1, .RW, 0x0, 0, 0x1⟩, ⟨1, 1, .RW, 0x0, 0, 0x1⟩, ⟨2, 1, .W1S, 0x0, 0, 0x1⟩]⟩,
  ⟨Off.FAB_LANE_FOM, .fabLane, [⟨0, 8, .ROH, 0x0, 0, 0xFF⟩, ⟨8, 8, .RCL, 0xFF, 0, 0xFF⟩, ⟨20, 1, .ROH, 0x0, 0, 0x1⟩]⟩,
  ⟨Off.FAB_LANE_SYM_ERR, .fabLane, [⟨0, 32, .ROH, 0x0, 0, 0xFFFFFFFF⟩]⟩,
  ⟨Off.FAB_FEC_HIST0, .fabPort, [⟨0, 32, .ROH, 0x0, 0, 0xFFFFFFFF⟩]⟩,
  ⟨Off.FAB_FEC_HIST1, .fabPort, [⟨0, 32, .ROH, 0x0, 0, 0xFFFFFFFF⟩]⟩,
  ⟨Off.FAB_FEC_HIST2, .fabPort, [⟨0, 32, .ROH, 0x0, 0, 0xFFFFFFFF⟩]⟩,
  ⟨Off.FAB_FEC_HIST3, .fabPort, [⟨0, 32, .ROH, 0x0, 0, 0xFFFFFFFF⟩]⟩,
  ⟨Off.FAB_FEC_HIST4, .fabPort, [⟨0, 32, .ROH, 0x0, 0, 0xFFFFFFFF⟩]⟩,
  ⟨Off.FAB_FEC_HIST5, .fabPort, [⟨0, 32, .ROH, 0x0, 0, 0xFFFFFFFF⟩]⟩,
  ⟨Off.FAB_FEC_HIST6, .fabPort, [⟨0, 32, .ROH, 0x0, 0, 0xFFFFFFFF⟩]⟩,
  ⟨Off.FAB_FEC_HIST7, .fabPort, [⟨0, 32, .ROH, 0x0, 0, 0xFFFFFFFF⟩]⟩,
  ⟨Off.FAB_FEC_HIST8, .fabPort, [⟨0, 32, .ROH, 0x0, 0, 0xFFFFFFFF⟩]⟩,
  ⟨Off.FAB_FEC_HIST9, .fabPort, [⟨0, 32, .ROH, 0x0, 0, 0xFFFFFFFF⟩]⟩,
  ⟨Off.FAB_FEC_HIST10, .fabPort, [⟨0, 32, .ROH, 0x0, 0, 0xFFFFFFFF⟩]⟩,
  ⟨Off.FAB_FEC_HIST11, .fabPort, [⟨0, 32, .ROH, 0x0, 0, 0xFFFFFFFF⟩]⟩,
  ⟨Off.FAB_FEC_HIST12, .fabPort, [⟨0, 32, .ROH, 0x0, 0, 0xFFFFFFFF⟩]⟩,
  ⟨Off.FAB_FEC_HIST13, .fabPort, [⟨0, 32, .ROH, 0x0, 0, 0xFFFFFFFF⟩]⟩,
  ⟨Off.FAB_FEC_HIST14, .fabPort, [⟨0, 32, .ROH, 0x0, 0, 0xFFFFFFFF⟩]⟩,
  ⟨Off.FAB_FEC_HIST15, .fabPort, [⟨0, 32, .ROH, 0x0, 0, 0xFFFFFFFF⟩]⟩,
  ⟨Off.FAB_DISC_POS, .fabPort, [⟨0, 24, .ROH, 0x0, 0, 0xFFFFFF⟩, ⟨30, 1, .ROH, 0x0, 0, 0x1⟩, ⟨31, 1, .ROH, 0x0, 0, 0x1⟩]⟩,
  ⟨Off.FAB_DISC_PORT, .fabPort, [⟨0, 9, .ROH, 0x0, 0, 0x1FF⟩, ⟨16, 2, .ROH, 0x0, 0, 0x3⟩]⟩,
  ⟨Off.FAB_DISC_ID, .fabPort, [⟨0, 32, .ROH, 0x0, 0, 0xFFFFFFFF⟩]⟩,
  ⟨Off.FAB_DISC_MAC_LO, .fabPort, [⟨0, 32, .ROH, 0x0, 0, 0xFFFFFFFF⟩]⟩]

/-- Registers of a FAB page, part 2. -/
def rowsFAB2 : List RegRow := [
  ⟨Off.FAB_DISC_MAC_HI, .fabPort, [⟨0, 16, .ROH, 0x0, 0, 0xFFFF⟩]⟩,
  ⟨Off.FAB_DISC_RX, .fabPort, [⟨0, 32, .ROH, 0x0, 0, 0xFFFFFFFF⟩]⟩,
  ⟨Off.FAB_SCH_SEL, .one, [⟨0, 3, .RW, 0x0, 0, 0x7⟩, ⟨3, 3, .RW, 0x0, 0, 0x7⟩]⟩,
  ⟨Off.FAB_POL_CTRL, .fabSch, [⟨0, 1, .RW, 0x0, 0, 0x1⟩, ⟨1, 1, .RW, 0x0, 0, 0x1⟩, ⟨2, 1, .RW, 0x1, 0, 0x1⟩]⟩,
  ⟨Off.FAB_POL_CIR, .fabSch, [⟨0, 21, .RW, 0x0, 0, 0x1FFFFF⟩]⟩,
  ⟨Off.FAB_POL_CBS, .fabSch, [⟨0, 24, .RW, 0x2400, 0, 0xFFFFFF⟩]⟩,
  ⟨Off.FAB_POL_PIR, .fabSch, [⟨0, 21, .RW, 0x0, 0, 0x1FFFFF⟩]⟩,
  ⟨Off.FAB_POL_PBS, .fabSch, [⟨0, 24, .RW, 0x2400, 0, 0xFFFFFF⟩]⟩,
  ⟨Off.FAB_POL_GREEN, .fabSch, [⟨0, 32, .ROH, 0x0, 0, 0xFFFFFFFF⟩]⟩,
  ⟨Off.FAB_POL_YELLOW, .fabSch, [⟨0, 32, .ROH, 0x0, 0, 0xFFFFFFFF⟩]⟩,
  ⟨Off.FAB_POL_RED, .fabSch, [⟨0, 32, .ROH, 0x0, 0, 0xFFFFFFFF⟩]⟩,
  ⟨Off.FAB_POL_DROP, .fabSch, [⟨0, 32, .ROH, 0x0, 0, 0xFFFFFFFF⟩]⟩,
  ⟨Off.FAB_SHP_CTRL, .fabSch, [⟨0, 1, .RW, 0x0, 0, 0x1⟩]⟩,
  ⟨Off.FAB_SHP_RATE, .fabSch, [⟨0, 21, .RW, 0x0, 0, 0x1FFFFF⟩]⟩,
  ⟨Off.FAB_SHP_BURST, .fabSch, [⟨0, 24, .RW, 0x2400, 0, 0xFFFFFF⟩]⟩]

/-- The block-specific registers of a FAB page. -/
def rowsFAB : List RegRow := rowsFAB0 ++ rowsFAB1 ++ rowsFAB2

/-- Registers of a CPB page, part 0. -/
def rowsCPB0 : List RegRow := [
  ⟨Off.CPB_STR_STATE, .one, [⟨0, 32, .ROH, 0x0, 0, 0xFFFFFFFF⟩]⟩,
  ⟨Off.CPB_STR_PC0, .one, [⟨0, 15, .ROH, 0x0, 0, 0x7FFF⟩]⟩,
  ⟨Off.CPB_STR_PC1, .one, [⟨0, 15, .ROH, 0x0, 0, 0x7FFF⟩]⟩,
  ⟨Off.CPB_STR_PC2, .one, [⟨0, 15, .ROH, 0x0, 0, 0x7FFF⟩]⟩,
  ⟨Off.CPB_STR_PC3, .one, [⟨0, 15, .ROH, 0x0, 0, 0x7FFF⟩]⟩,
  ⟨Off.CPB_STR_WAIT, .one, [⟨0, 32, .ROH, 0x0, 0, 0xFFFFFFFF⟩]⟩,
  ⟨Off.CPB_STR_COND, .one, [⟨0, 32, .ROH, 0x0, 0, 0xFFFFFFFF⟩]⟩,
  ⟨Off.CPB_SET_SEL, .one, [⟨0, 2, .RW, 0x0, 0, 0x3⟩]⟩,
  ⟨Off.CPB_EXC_STAT, .one, [⟨0, 8, .ROH, 0x0, 0, 0xFF⟩, ⟨8, 2, .ROH, 0x0, 0, 0x3⟩, ⟨31, 1, .ROH, 0x0, 0, 0x1⟩]⟩,
  ⟨Off.CPB_EXC_PC, .one, [⟨0, 15, .ROH, 0x0, 0, 0x7FFF⟩]⟩,
  ⟨Off.CPB_EXC_ADDR_LO, .one, [⟨0, 32, .ROH, 0x0, 0, 0xFFFFFFFF⟩]⟩,
  ⟨Off.CPB_EXC_ADDR_HI, .one, [⟨0, 20, .ROH, 0x0, 0, 0xFFFFF⟩, ⟨20, 5, .ROH, 0x0, 0, 0x1F⟩]⟩,
  ⟨Off.CPB_INV_CAP0, .one, [⟨0, 3, .ROH, 0x0, 0, 0x7⟩, ⟨3, 2, .ROH, 0x0, 0, 0x3⟩, ⟨5, 5, .ROH, 0x0, 0, 0x1F⟩, ⟨10, 5, .ROH, 0x0, 0, 0x1F⟩, ⟨15, 2, .ROH, 0x0, 0, 0x3⟩, ⟨31, 1, .ROH, 0x0, 0, 0x1⟩]⟩,
  ⟨Off.CPB_INV_CAP1, .one, [⟨0, 32, .ROH, 0x0, 0, 0xFFFFFFFF⟩]⟩,
  ⟨Off.CPB_INV_CAP2, .one, [⟨0, 15, .ROH, 0x0, 0, 0x7FFF⟩]⟩,
  ⟨Off.CPB_ACC_INVALID, .one, [⟨0, 32, .ROH, 0x0, 0, 0xFFFFFFFF⟩]⟩,
  ⟨Off.CPB_ACC_OVERFLOW, .one, [⟨0, 32, .ROH, 0x0, 0, 0xFFFFFFFF⟩]⟩,
  ⟨Off.CPB_EXC_SUMMARY, .one, [⟨0, 6, .ROH, 0x0, 0, 0x3F⟩, ⟨8, 8, .ROH, 0x0, 0, 0xFF⟩, ⟨16, 2, .ROH, 0x0, 0, 0x3⟩]⟩,
  ⟨Off.CPB_Q_LEVEL0, .one, [⟨0, 32, .ROH, 0x0, 0, 0xFFFFFFFF⟩]⟩,
  ⟨Off.CPB_Q_LEVEL1, .one, [⟨0, 32, .ROH, 0x0, 0, 0xFFFFFFFF⟩]⟩,
  ⟨Off.CPB_Q_LEVEL2, .one, [⟨0, 32, .ROH, 0x0, 0, 0xFFFFFFFF⟩]⟩,
  ⟨Off.CPB_Q_LEVEL3, .one, [⟨0, 32, .ROH, 0x0, 0, 0xFFFFFFFF⟩]⟩,
  ⟨Off.CPB_FLAGS_LO, .one, [⟨0, 32, .ROH, 0x0, 0, 0xFFFFFFFF⟩]⟩,
  ⟨Off.CPB_FLAGS_HI, .one, [⟨0, 32, .ROH, 0x0, 0, 0xFFFFFFFF⟩]⟩]

/-- Registers of a CPB page, part 1. -/
def rowsCPB1 : List RegRow := [
  ⟨Off.CPB_STR_JOB01, .one, [⟨0, 16, .ROH, 0x0, 0, 0xFFFF⟩, ⟨16, 16, .ROH, 0x0, 0, 0xFFFF⟩]⟩,
  ⟨Off.CPB_STR_JOB23, .one, [⟨0, 16, .ROH, 0x0, 0, 0xFFFF⟩, ⟨16, 16, .ROH, 0x0, 0, 0xFFFF⟩]⟩,
  ⟨Off.CPB_STR_PLACED, .one, [⟨0, 4, .ROH, 0x0, 0, 0xF⟩]⟩,
  ⟨Off.CPB_WAIT_MARKS0, .one, [⟨0, 20, .ROH, 0x0, 0, 0xFFFFF⟩]⟩,
  ⟨Off.CPB_WAIT_MARKS1, .one, [⟨0, 20, .ROH, 0x0, 0, 0xFFFFF⟩]⟩,
  ⟨Off.CPB_WAIT_MARKS2, .one, [⟨0, 20, .ROH, 0x0, 0, 0xFFFFF⟩]⟩,
  ⟨Off.CPB_WAIT_MARKS3, .one, [⟨0, 20, .ROH, 0x0, 0, 0xFFFFF⟩]⟩,
  ⟨Off.CPB_STORE_FREE, .one, [⟨0, 17, .ROH, 0x8000, 0, 0x1FFFF⟩]⟩]

/-- The block-specific registers of a CPB page. -/
def rowsCPB : List RegRow := rowsCPB0 ++ rowsCPB1

/-- Registers of a MEM page, part 0. -/
def rowsMEM0 : List RegRow := [
  ⟨Off.MEM_CFG, .one, [⟨0, 2, .ROH, 0x0, 0, 0x3⟩, ⟨8, 1, .ROH, 0x0, 0, 0x1⟩]⟩,
  ⟨Off.MEM_CH_SEL, .one, [⟨0, 2, .RW, 0x0, 0, 0x3⟩]⟩,
  ⟨Off.MEM_CH_STATE, .memCh, [⟨0, 2, .ROH, 0x0, 0, 0x3⟩, ⟨8, 8, .ROH, 0x0, 0, 0xFF⟩]⟩,
  ⟨Off.MEM_CH_CE, .memCh, [⟨0, 32, .ROH, 0x0, 0, 0xFFFFFFFF⟩]⟩,
  ⟨Off.MEM_CH_UE, .memCh, [⟨0, 32, .ROH, 0x0, 0, 0xFFFFFFFF⟩]⟩,
  ⟨Off.MEM_CH_DRIFT, .memCh, [⟨0, 16, .ROH, 0x0, 0, 0xFFFF⟩]⟩,
  ⟨Off.MEM_CH_RETRAIN, .memCh, [⟨0, 32, .ROH, 0x0, 0, 0xFFFFFFFF⟩]⟩,
  ⟨Off.MEM_CH_FORCED, .memCh, [⟨0, 32, .ROH, 0x0, 0, 0xFFFFFFFF⟩]⟩,
  ⟨Off.MEM_SCRUB_POS, .memCh, [⟨0, 29, .ROH, 0x0, 0, 0x1FFFFFFF⟩]⟩,
  ⟨Off.MEM_SCRUB_PASSES, .memCh, [⟨0, 32, .ROH, 0x0, 0, 0xFFFFFFFF⟩]⟩,
  ⟨Off.MEM_QUEUE_WAIT, .memCh, [⟨0, 16, .RCL, 0x0, 0, 0xFFFF⟩]⟩,
  ⟨Off.MEM_RETRAIN_THR, .one, [⟨0, 8, .RW, 0x14, 0, 0xFF⟩, ⟨8, 8, .RW, 0x3C, 0, 0xFF⟩]⟩,
  ⟨Off.MEM_SCRUB_CTRL, .one, [⟨0, 1, .RW, 0x1, 0, 0x1⟩, ⟨8, 8, .RW, 0x18, 1, 0xFF⟩]⟩,
  ⟨Off.MEM_CE_THR, .one, [⟨0, 16, .RW, 0x100, 0, 0xFFFF⟩]⟩,
  ⟨Off.MEM_FWL_SEL, .one, [⟨0, 4, .RW, 0x0, 0, 0xF⟩, ⟨8, 5, .ROH, 0x0, 0, 0x1F⟩, ⟨16, 16, .ROH, 0x0, 0, 0xFFFF⟩]⟩,
  ⟨Off.MEM_FWL_ADDR_LO, .one, [⟨0, 32, .ROH, 0x0, 0, 0xFFFFFFFF⟩]⟩,
  ⟨Off.MEM_FWL_ADDR_HI, .one, [⟨0, 3, .ROH, 0x0, 0, 0x7⟩, ⟨4, 2, .ROH, 0x0, 0, 0x3⟩, ⟨8, 1, .ROH, 0x0, 0, 0x1⟩, ⟨31, 1, .ROH, 0x0, 0, 0x1⟩]⟩]

/-- The block-specific registers of a MEM page. -/
def rowsMEM : List RegRow := rowsMEM0

/-- Registers of a RDX page, part 0. -/
def rowsRDX0 : List RegRow := [
  ⟨Off.RDX_RESIDUE_ERR, .one, [⟨0, 32, .ROH, 0x0, 0, 0xFFFFFFFF⟩]⟩,
  ⟨Off.RDX_COUNT_ERR, .one, [⟨0, 32, .ROH, 0x0, 0, 0xFFFFFFFF⟩]⟩,
  ⟨Off.RDX_CELL_BUSY, .one, [⟨0, 4, .ROH, 0x0, 0, 0xF⟩]⟩]

/-- The block-specific registers of a RDX page. -/
def rowsRDX : List RegRow := rowsRDX0

/-- Registers of a SWC page, part 0. -/
def rowsSWC0 : List RegRow := [
  ⟨Off.SWC_LFP_UDP_PORT, .one, [⟨0, 16, .LRW, 0x1B3C, 0, 0xFFFF⟩]⟩,
  ⟨Off.SWC_FAB_V4, .one, [⟨0, 8, .LRW, 0xA, 0, 0xFF⟩]⟩,
  ⟨Off.SWC_FAB_V6_0, .one, [⟨0, 32, .LRW, 0x0, 0, 0xFFFFFFFF⟩]⟩,
  ⟨Off.SWC_FAB_V6_1, .one, [⟨0, 32, .LRW, 0x0, 0, 0xFFFFFFFF⟩]⟩,
  ⟨Off.SWC_FAB_V6_2, .one, [⟨0, 32, .LRW, 0x0, 0, 0xFFFFFFFF⟩]⟩,
  ⟨Off.SWC_FAB_V6_3, .one, [⟨0, 8, .LRW, 0x0, 0, 0xFF⟩]⟩,
  ⟨Off.SWC_ROUTE_CTRL, .one, [⟨0, 2, .RW, 0x0, 0, 0x3⟩, ⟨4, 4, .RW, 0xA, 0, 0xF⟩, ⟨16, 1, .ROH, 0x0, 0, 0x1⟩, ⟨17, 2, .ROH, 0x0, 0, 0x3⟩, ⟨20, 4, .ROH, 0xA, 0, 0xF⟩]⟩,
  ⟨Off.SWC_EM_SEL, .one, [⟨0, 15, .RW, 0x0, 0, 0x7FFF⟩]⟩,
  ⟨Off.SWC_EM_KEY, .swcEm, [⟨0, 24, .RW, 0x0, 0, 0xFFFFFF⟩, ⟨31, 1, .RW, 0x0, 0, 0x1⟩]⟩,
  ⟨Off.SWC_EM_PSET, .swcEm, [⟨0, 12, .RW, 0x0, 0, 0xFFF⟩]⟩,
  ⟨Off.SWC_RT_SEL, .one, [⟨0, 14, .RW, 0x0, 0, 0x3FFF⟩]⟩,
  ⟨Off.SWC_RT_DATA, .swcRt, [⟨0, 12, .RW, 0x0, 0, 0xFFF⟩, ⟨31, 1, .RW, 0x0, 0, 0x1⟩]⟩,
  ⟨Off.SWC_PS_SEL, .one, [⟨0, 12, .RW, 0x0, 0, 0xFFF⟩, ⟨12, 4, .RW, 0x0, 0, 0xF⟩]⟩,
  ⟨Off.SWC_PS_DATA, .swcPs, [⟨0, 9, .RW, 0x0, 0, 0x1FF⟩, ⟨9, 4, .RW, 0x1, 0, 0xF⟩, ⟨13, 4, .RW, 0xF, 0, 0xF⟩, ⟨31, 1, .RW, 0x0, 0, 0x1⟩]⟩,
  ⟨Off.SWC_PS_WEIGHT, .swcPs, [⟨0, 4, .RW, 0x8, 0, 0xF⟩]⟩,
  ⟨Off.SWC_PORT_SEL, .one, [⟨0, 9, .RW, 0x0, 0, 0x1FF⟩]⟩,
  ⟨Off.SWC_PORT_ATTR, .swcPort, [⟨0, 3, .RW, 0x0, 0, 0x7⟩, ⟨3, 2, .RW, 0x0, 0, 0x3⟩, ⟨5, 1, .RW, 0x0, 0, 0x1⟩]⟩,
  ⟨Off.SWC_PORT_HDRM, .swcPort, [⟨0, 16, .RW, 0x72, 0, 0xFFFF⟩, ⟨16, 16, .RW, 0xB4, 0, 0xFFFF⟩]⟩,
  ⟨Off.SWC_PORT_PEER_LO, .swcPort, [⟨0, 32, .RW, 0x0, 0, 0xFFFFFFFF⟩]⟩,
  ⟨Off.SWC_PORT_PEER_HI, .swcPort, [⟨0, 16, .RW, 0x0, 0, 0xFFFF⟩, ⟨16, 1, .ROH, 0x0, 0, 0x1⟩]⟩,
  ⟨Off.SWC_MAC_BASE_LO, .one, [⟨0, 32, .LRW, 0x0, 0, 0xFFFFFFFF⟩]⟩,
  ⟨Off.SWC_MAC_BASE_HI, .one, [⟨0, 16, .LRW, 0x0, 0, 0xFFFF⟩]⟩,
  ⟨Off.SWC_FLOWLET, .one, [⟨0, 16, .RW, 0x7D0, 0, 0xFFFF⟩]⟩,
  ⟨Off.SWC_CLASS_WEIGHT, .one, [⟨0, 32, .RW, 0x12224401, 0, 0xFFFFFFFF⟩]⟩]

/-- Registers of a SWC page, part 1. -/
def rowsSWC1 : List RegRow := [
  ⟨Off.SWC_POOL_SEL, .one, [⟨0, 3, .RW, 0x0, 0, 0x5⟩]⟩,
  ⟨Off.SWC_POOL_SIZE, .swcPool, [⟨0, 21, .ROH, 0x0, 0, 0x1FFFFF⟩]⟩,
  ⟨Off.SWC_POOL_LEVEL, .swcPool, [⟨0, 21, .ROH, 0x0, 0, 0x1FFFFF⟩]⟩,
  ⟨Off.SWC_POOL_WARN, .swcPool, [⟨0, 21, .RW, 0x0, 0, 0x1FFFFF⟩]⟩,
  ⟨Off.SWC_POOL_PRESS, .swcPool, [⟨0, 21, .RW, 0x0, 0, 0x1FFFFF⟩]⟩,
  ⟨Off.SWC_POOL_STOP, .swcPool, [⟨0, 21, .RW, 0x0, 0, 0x1FFFFF⟩]⟩,
  ⟨Off.SWC_POOL_QUAR, .swcPool, [⟨0, 21, .ROH, 0x0, 0, 0x1FFFFF⟩]⟩,
  ⟨Off.SWC_REQ_SEL, .one, [⟨0, 12, .RW, 0x0, 0, 0xFFF⟩]⟩,
  ⟨Off.SWC_REQ_MIN, .swcReq, [⟨0, 21, .RW, 0x0, 0, 0x1FFFFF⟩]⟩,
  ⟨Off.SWC_REQ_MAX, .swcReq, [⟨0, 21, .RW, 0x0, 0, 0x1FFFFF⟩]⟩,
  ⟨Off.SWC_REQ_CUR, .swcReq, [⟨0, 21, .RW, 0x0, 0, 0x1FFFFF⟩]⟩,
  ⟨Off.SWC_REQ_INUSE, .swcReq, [⟨0, 21, .ROH, 0x0, 0, 0x1FFFFF⟩]⟩,
  ⟨Off.SWC_QUOTA_REFUSED, .one, [⟨0, 32, .ROH, 0x0, 0, 0xFFFFFFFF⟩]⟩,
  ⟨Off.SWC_MIR_SEL, .one, [⟨0, 9, .RW, 0x0, 0, 0x1FF⟩, ⟨9, 3, .RW, 0x0, 0, 0x7⟩]⟩,
  ⟨Off.SWC_MIR_CFG, .swcMir, [⟨0, 16, .RW, 0x0, 0, 0xFFFF⟩, ⟨16, 1, .RW, 0x0, 0, 0x1⟩]⟩,
  ⟨Off.SWC_MIR_LOST, .swcMirPort, [⟨0, 32, .ROH, 0x0, 0, 0xFFFFFFFF⟩]⟩,
  ⟨Off.SWC_CMAP_CTRL, .one, [⟨0, 1, .RW, 0x0, 0, 0x1⟩, ⟨1, 3, .RW, 0x4, 0, 0x4⟩, ⟨4, 4, .RW, 0x0, 0, 0x8⟩]⟩,
  ⟨Off.SWC_DROP_PARSE, .one, [⟨0, 32, .ROH, 0x0, 0, 0xFFFFFFFF⟩]⟩,
  ⟨Off.SWC_DROP_PREFIX, .one, [⟨0, 32, .ROH, 0x0, 0, 0xFFFFFFFF⟩]⟩,
  ⟨Off.SWC_DROP_HOP, .one, [⟨0, 32, .ROH, 0x0, 0, 0xFFFFFFFF⟩]⟩,
  ⟨Off.SWC_DROP_PREPOS, .one, [⟨0, 32, .ROH, 0x0, 0, 0xFFFFFFFF⟩]⟩,
  ⟨Off.SWC_DROP_TERM, .one, [⟨0, 32, .ROH, 0x0, 0, 0xFFFFFFFF⟩]⟩,
  ⟨Off.SWC_DROP_NOROUTE, .one, [⟨0, 32, .ROH, 0x0, 0, 0xFFFFFFFF⟩]⟩,
  ⟨Off.SWC_DROP_NOPATH, .one, [⟨0, 32, .ROH, 0x0, 0, 0xFFFFFFFF⟩]⟩]

/-- Registers of a SWC page, part 2. -/
def rowsSWC2 : List RegRow := [
  ⟨Off.SWC_DROP_TURN, .one, [⟨0, 32, .ROH, 0x0, 0, 0xFFFFFFFF⟩]⟩,
  ⟨Off.SWC_DROP_LOSSY, .one, [⟨0, 32, .ROH, 0x0, 0, 0xFFFFFFFF⟩]⟩,
  ⟨Off.SWC_DROP_HDRM, .one, [⟨0, 32, .ROH, 0x0, 0, 0xFFFFFFFF⟩]⟩,
  ⟨Off.SWC_DROP_FENCE, .one, [⟨0, 32, .ROH, 0x0, 0, 0xFFFFFFFF⟩]⟩,
  ⟨Off.SWC_DROP_UE, .one, [⟨0, 32, .ROH, 0x0, 0, 0xFFFFFFFF⟩]⟩,
  ⟨Off.SWC_SWAP_STAT, .one, [⟨0, 1, .ROH, 0x0, 0, 0x1⟩, ⟨1, 1, .ROH, 0x0, 0, 0x1⟩, ⟨16, 16, .ROH, 0x0, 0, 0xFFFF⟩]⟩,
  ⟨Off.SWC_SWAP_INFLIGHT, .one, [⟨0, 21, .ROH, 0x0, 0, 0x1FFFFF⟩]⟩,
  ⟨Off.SWC_DESC_FREE, .one, [⟨0, 21, .ROH, 0x100000, 0, 0x1FFFFF⟩]⟩]

/-- The block-specific registers of a SWC page. -/
def rowsSWC : List RegRow := rowsSWC0 ++ rowsSWC1 ++ rowsSWC2

/-- Registers of a RST page, part 0. -/
def rowsRST0 : List RegRow := [
  ⟨Off.RST_SLOT_SEL, .one, [⟨0, 10, .RW, 0x0, 0, 0x3FF⟩]⟩,
  ⟨Off.RST_QUOTA_MIN, .rstSlot, [⟨0, 21, .LRW, 0x0, 0, 0x1FFFFF⟩]⟩,
  ⟨Off.RST_QUOTA_MAX, .rstSlot, [⟨0, 21, .LRW, 0x0, 0, 0x1FFFFF⟩]⟩,
  ⟨Off.RST_QUOTA_CUR, .rstSlot, [⟨0, 21, .RW, 0x0, 0, 0x1FFFFF⟩]⟩,
  ⟨Off.RST_INUSE, .rstSlot, [⟨0, 21, .ROH, 0x0, 0, 0x1FFFFF⟩]⟩,
  ⟨Off.RST_POOL_FREE, .one, [⟨0, 21, .ROH, 0x100000, 0, 0x1FFFFF⟩]⟩,
  ⟨Off.RST_DROP_UNGRANTED, .rstSlot, [⟨0, 32, .ROH, 0x0, 0, 0xFFFFFFFF⟩]⟩,
  ⟨Off.RST_DROP_FORMAT, .rstSlot, [⟨0, 32, .ROH, 0x0, 0, 0xFFFFFFFF⟩]⟩,
  ⟨Off.RST_DROP_SEGMENT, .rstSlot, [⟨0, 32, .ROH, 0x0, 0, 0xFFFFFFFF⟩]⟩,
  ⟨Off.RST_DROP_DUP, .rstSlot, [⟨0, 32, .ROH, 0x0, 0, 0xFFFFFFFF⟩]⟩,
  ⟨Off.RST_COND_STEP, .rstSlot, [⟨0, 32, .ROH, 0x0, 0, 0xFFFFFFFF⟩]⟩,
  ⟨Off.RST_COND_FLAGS, .rstSlot, [⟨0, 1, .ROH, 0x0, 0, 0x1⟩, ⟨1, 1, .ROH, 0x0, 0, 0x1⟩, ⟨2, 1, .ROH, 0x0, 0, 0x1⟩, ⟨3, 1, .ROH, 0x0, 0, 0x1⟩, ⟨4, 1, .ROH, 0x0, 0, 0x1⟩, ⟨5, 1, .ROH, 0x0, 0, 0x1⟩, ⟨6, 1, .ROH, 0x0, 0, 0x1⟩]⟩,
  ⟨Off.RST_COND_NAN, .rstSlot, [⟨0, 24, .ROH, 0x0, 0, 0xFFFFFF⟩, ⟨31, 1, .ROH, 0x0, 0, 0x1⟩]⟩,
  ⟨Off.RST_COND_OVF, .rstSlot, [⟨0, 24, .ROH, 0x0, 0, 0xFFFFFF⟩, ⟨31, 1, .ROH, 0x0, 0, 0x1⟩]⟩,
  ⟨Off.RST_COND_BF, .rstSlot, [⟨0, 24, .ROH, 0x0, 0, 0xFFFFFF⟩, ⟨31, 1, .ROH, 0x0, 0, 0x1⟩]⟩,
  ⟨Off.RST_COND_FAULT, .rstSlot, [⟨0, 24, .ROH, 0x0, 0, 0xFFFFFF⟩, ⟨31, 1, .ROH, 0x0, 0, 0x1⟩]⟩]

/-- The block-specific registers of a RST page. -/
def rowsRST : List RegRow := rowsRST0

/-- Registers of a CMT page, part 0. -/
def rowsCMT0 : List RegRow := [
  ⟨Off.CMT_DROP_SLOT, .one, [⟨0, 32, .ROH, 0x0, 0, 0xFFFFFFFF⟩]⟩,
  ⟨Off.CMT_DROP_GROUP, .one, [⟨0, 32, .ROH, 0x0, 0, 0xFFFFFFFF⟩]⟩,
  ⟨Off.CMT_DROP_FORMAT, .one, [⟨0, 32, .ROH, 0x0, 0, 0xFFFFFFFF⟩]⟩,
  ⟨Off.CMT_DROP_ROUND, .one, [⟨0, 32, .ROH, 0x0, 0, 0xFFFFFFFF⟩]⟩,
  ⟨Off.CMT_DROP_DUP, .one, [⟨0, 32, .ROH, 0x0, 0, 0xFFFFFFFF⟩]⟩,
  ⟨Off.CMT_ROUND_ABANDON, .one, [⟨0, 32, .ROH, 0x0, 0, 0xFFFFFFFF⟩]⟩,
  ⟨Off.CMT_BUSY, .one, [⟨0, 11, .ROH, 0x0, 0, 0x7FF⟩]⟩]

/-- The block-specific registers of a CMT page. -/
def rowsCMT : List RegRow := rowsCMT0

/-- Registers of a RGC page, part 0. -/
def rowsRGC0 : List RegRow := [
  ⟨Off.RGC_JOB_SEL, .one, [⟨0, 10, .RW, 0x0, 0, 0x3FF⟩]⟩,
  ⟨Off.RGC_JOB_WSEL, .one, [⟨0, 8, .RW, 0x0, 0, 0x9F⟩]⟩,
  ⟨Off.RGC_JOB_DATA, .one, [⟨0, 32, .RW, 0x0, 0, 0xFFFFFFFF⟩]⟩,
  ⟨Off.RGC_GRP_SEL, .one, [⟨0, 12, .RW, 0x0, 0, 0xFFF⟩]⟩,
  ⟨Off.RGC_GRP_W0, .one, [⟨0, 32, .RW, 0x0, 0, 0xFFFFFFFF⟩]⟩,
  ⟨Off.RGC_GRP_W1, .one, [⟨0, 32, .RW, 0x0, 0, 0xFFFFFFFF⟩]⟩,
  ⟨Off.RGC_GRP_W2, .one, [⟨0, 32, .RW, 0x0, 0, 0xFFFFFFFF⟩]⟩,
  ⟨Off.RGC_GRP_W3, .one, [⟨0, 32, .RW, 0x0, 0, 0xFFFFFFFF⟩]⟩,
  ⟨Off.RGC_MBR_SEL, .one, [⟨0, 18, .RW, 0x0, 0, 0x3FFFF⟩]⟩,
  ⟨Off.RGC_MBR_LO, .one, [⟨0, 32, .LRW, 0x0, 0, 0xFFFFFFFF⟩]⟩,
  ⟨Off.RGC_MBR_HI, .one, [⟨0, 32, .LRW, 0x0, 0, 0xFFFFFFFF⟩]⟩,
  ⟨Off.RGC_PLAN_WSEL, .one, [⟨0, 8, .RW, 0x0, 0, 0x87⟩]⟩,
  ⟨Off.RGC_PLAN_DATA, .one, [⟨0, 32, .LRW, 0x0, 0, 0xFFFFFFFF⟩]⟩,
  ⟨Off.RGC_STEP_STAT, .rgcJob, [⟨0, 8, .ROH, 0x0, 0, 0xFF⟩, ⟨8, 3, .ROH, 0x0, 0, 0x7⟩]⟩,
  ⟨Off.RGC_STEP, .rgcJob, [⟨0, 32, .ROH, 0x0, 0, 0xFFFFFFFF⟩]⟩,
  ⟨Off.RGC_DEADLINE, .rgcJob, [⟨0, 32, .ROH, 0x0, 0, 0xFFFFFFFF⟩]⟩,
  ⟨Off.RGC_LAG_SEL, .one, [⟨0, 12, .RW, 0x0, 0, 0xFFF⟩]⟩,
  ⟨Off.RGC_LAG_ARRIVED, .rgcJob, [⟨0, 32, .ROH, 0x0, 0, 0xFFFFFFFF⟩]⟩,
  ⟨Off.RGC_LAG_LAST, .rgcJob, [⟨0, 32, .ROH, 0x0, 0, 0xFFFFFFFF⟩]⟩,
  ⟨Off.RGC_LAG_NAMED, .rgcJob, [⟨0, 16, .ROH, 0x0, 0, 0xFFFF⟩]⟩,
  ⟨Off.RGC_LOCK_VIOL, .rgcJob, [⟨0, 32, .ROH, 0x0, 0, 0xFFFFFFFF⟩]⟩,
  ⟨Off.RGC_DROP_INACTIVE, .rgcJob, [⟨0, 32, .ROH, 0x0, 0, 0xFFFFFFFF⟩]⟩,
  ⟨Off.RGC_DROP_LATE, .rgcJob, [⟨0, 32, .ROH, 0x0, 0, 0xFFFFFFFF⟩]⟩,
  ⟨Off.RGC_SLC_SEL, .one, [⟨0, 12, .RW, 0x0, 0, 0xFFF⟩]⟩]

/-- Registers of a RGC page, part 1. -/
def rowsRGC1 : List RegRow := [
  ⟨Off.RGC_SLC_WSEL, .one, [⟨0, 3, .RW, 0x0, 0, 0x7⟩]⟩,
  ⟨Off.RGC_SLC_DATA, .one, [⟨0, 32, .RW, 0x0, 0, 0xFFFFFFFF⟩]⟩,
  ⟨Off.RGC_WIN_REFUSED, .rgcJob, [⟨0, 32, .ROH, 0x0, 0, 0xFFFFFFFF⟩]⟩,
  ⟨Off.RGC_WIN_SEL, .one, [⟨0, 12, .RW, 0x0, 0, 0xFFF⟩]⟩,
  ⟨Off.RGC_WIN_WSEL, .one, [⟨0, 2, .RW, 0x0, 0, 0x3⟩]⟩,
  ⟨Off.RGC_WIN_DATA, .one, [⟨0, 32, .RW, 0x0, 0, 0xFFFFFFFF⟩]⟩]

/-- The block-specific registers of a RGC page. -/
def rowsRGC : List RegRow := rowsRGC0 ++ rowsRGC1

/-- Registers of a HST page, part 0. -/
def rowsHST0 : List RegRow := [
  ⟨Off.HST_PORT_SEL, .one, [⟨0, 3, .RW, 0x0, 0, 0x7⟩]⟩,
  ⟨Off.HST_PORT_STATE, .hstPort, [⟨0, 2, .ROH, 0x0, 0, 0x3⟩, ⟨8, 1, .ROH, 0x0, 0, 0x1⟩]⟩,
  ⟨Off.HST_MAC_BASE_LO, .one, [⟨0, 32, .ROH, 0x0, 0, 0xFFFFFFFF⟩]⟩,
  ⟨Off.HST_MAC_BASE_HI, .one, [⟨0, 16, .ROH, 0x0, 0, 0xFFFF⟩]⟩,
  ⟨Off.HST_NET_SEL, .one, [⟨0, 1, .RW, 0x0, 0, 0x1⟩]⟩,
  ⟨Off.HST_NET_V4, .hstNet, [⟨0, 32, .RW, 0x0, 0, 0xFFFFFFFF⟩]⟩,
  ⟨Off.HST_NET_V6_0, .hstNet, [⟨0, 32, .RW, 0x0, 0, 0xFFFFFFFF⟩]⟩,
  ⟨Off.HST_NET_V6_1, .hstNet, [⟨0, 32, .RW, 0x0, 0, 0xFFFFFFFF⟩]⟩,
  ⟨Off.HST_NET_V6_2, .hstNet, [⟨0, 32, .RW, 0x0, 0, 0xFFFFFFFF⟩]⟩,
  ⟨Off.HST_NET_V6_3, .hstNet, [⟨0, 32, .RW, 0x0, 0, 0xFFFFFFFF⟩]⟩,
  ⟨Off.HST_RX_DROP, .hstPort, [⟨0, 32, .ROH, 0x0, 0, 0xFFFFFFFF⟩]⟩,
  ⟨Off.HST_FCS_ERR, .hstPort, [⟨0, 32, .ROH, 0x0, 0, 0xFFFFFFFF⟩]⟩,
  ⟨Off.HST_FEC_UNCORR, .hstPort, [⟨0, 32, .ROH, 0x0, 0, 0xFFFFFFFF⟩]⟩,
  ⟨Off.HST_PTP_LAT, .hstPort, [⟨0, 16, .RW, 0x0, 0, 0xFFFF⟩, ⟨16, 16, .RW, 0x0, 0, 0xFFFF⟩]⟩,
  ⟨Off.HST_LINK_DOWN, .hstPort, [⟨0, 32, .ROH, 0x0, 0, 0xFFFFFFFF⟩]⟩,
  ⟨Off.HST_RALOW_PORT, .one, [⟨0, 16, .LRW, 0x1B44, 0, 0xFFFF⟩]⟩]

/-- The block-specific registers of a HST page. -/
def rowsHST : List RegRow := rowsHST0

/-- Registers of a ORB page, part 0. -/
def rowsORB0 : List RegRow := [
  ⟨Off.ORB_CTRL, .one, [⟨0, 1, .RW, 0x0, 0, 0x1⟩, ⟨1, 1, .RW, 0x0, 0, 0x1⟩, ⟨2, 1, .RW, 0x0, 0, 0x1⟩, ⟨4, 3, .RW, 0x2, 0, 0x7⟩, ⟨8, 4, .RW, 0x4, 2, 0xF⟩]⟩,
  ⟨Off.ORB_MASTER_INTERVAL, .one, [⟨0, 32, .RW, 0x3B9ACA, 0x3E800, 0xFFFFFFFF⟩]⟩,
  ⟨Off.ORB_MASTER_ID, .one, [⟨0, 32, .RW, 0x0, 0, 0xFFFFFFFF⟩]⟩,
  ⟨Off.ORB_PIN_MASTER_ID, .one, [⟨0, 32, .RW, 0x0, 0, 0xFFFFFFFF⟩]⟩,
  ⟨Off.ORB_SRC0, .one, [⟨0, 1, .RW, 0x0, 0, 0x1⟩, ⟨1, 1, .RW, 0x0, 0, 0x1⟩, ⟨2, 9, .RW, 0x0, 0, 0x1FF⟩, ⟨16, 16, .RW, 0x0, 0, 0xFFFF⟩]⟩,
  ⟨Off.ORB_SRC1, .one, [⟨0, 1, .RW, 0x0, 0, 0x1⟩, ⟨1, 1, .RW, 0x0, 0, 0x1⟩, ⟨2, 9, .RW, 0x0, 0, 0x1FF⟩, ⟨16, 16, .RW, 0x0, 0, 0xFFFF⟩]⟩,
  ⟨Off.ORB_SRC2, .one, [⟨0, 1, .RW, 0x0, 0, 0x1⟩, ⟨1, 1, .RW, 0x0, 0, 0x1⟩, ⟨2, 9, .RW, 0x0, 0, 0x1FF⟩, ⟨16, 16, .RW, 0x0, 0, 0xFFFF⟩]⟩,
  ⟨Off.ORB_SRC3, .one, [⟨0, 1, .RW, 0x0, 0, 0x1⟩, ⟨1, 1, .RW, 0x0, 0, 0x1⟩, ⟨2, 9, .RW, 0x0, 0, 0x1FF⟩, ⟨16, 16, .RW, 0x0, 0, 0xFFFF⟩]⟩,
  ⟨Off.ORB_SRC_DELAY0, .one, [⟨0, 16, .ROH, 0x0, 0, 0xFFFF⟩, ⟨31, 1, .ROH, 0x0, 0, 0x1⟩]⟩,
  ⟨Off.ORB_SRC_DELAY1, .one, [⟨0, 16, .ROH, 0x0, 0, 0xFFFF⟩, ⟨31, 1, .ROH, 0x0, 0, 0x1⟩]⟩,
  ⟨Off.ORB_SRC_DELAY2, .one, [⟨0, 16, .ROH, 0x0, 0, 0xFFFF⟩, ⟨31, 1, .ROH, 0x0, 0, 0x1⟩]⟩,
  ⟨Off.ORB_SRC_DELAY3, .one, [⟨0, 16, .ROH, 0x0, 0, 0xFFFF⟩, ⟨31, 1, .ROH, 0x0, 0, 0x1⟩]⟩,
  ⟨Off.ORB_STATE, .one, [⟨0, 3, .ROH, 0x0, 0, 0x7⟩, ⟨4, 2, .ROH, 0x0, 0, 0x3⟩, ⟨8, 4, .ROH, 0xF, 0, 0xF⟩, ⟨12, 1, .ROH, 0x0, 0, 0x1⟩]⟩,
  ⟨Off.ORB_ANGLE, .one, [⟨0, 32, .ROH, 0x0, 0, 0xFFFFFFFF⟩]⟩,
  ⟨Off.ORB_TURN, .one, [⟨0, 32, .ROH, 0x0, 0, 0xFFFFFFFF⟩]⟩,
  ⟨Off.ORB_INTERVAL, .one, [⟨0, 32, .ROH, 0x0, 0, 0xFFFFFFFF⟩]⟩,
  ⟨Off.ORB_MASTER_SEEN, .one, [⟨0, 32, .ROH, 0x0, 0, 0xFFFFFFFF⟩]⟩,
  ⟨Off.ORB_JUMP_MAX, .one, [⟨0, 16, .RCL, 0x0, 0, 0xFFFF⟩]⟩,
  ⟨Off.ORB_SLIP, .one, [⟨0, 32, .ROH, 0x0, 0, 0xFFFFFFFF⟩]⟩,
  ⟨Off.ORB_SWITCHES, .one, [⟨0, 32, .ROH, 0x0, 0, 0xFFFFFFFF⟩]⟩,
  ⟨Off.ORB_LOSSES, .one, [⟨0, 32, .ROH, 0x0, 0, 0xFFFFFFFF⟩]⟩,
  ⟨Off.ORB_MARGIN, .one, [⟨0, 16, .RW, 0x64, 0, 0xFFFF⟩]⟩,
  ⟨Off.ORB_TEL_CTRL, .one, [⟨0, 1, .RW, 0x0, 0, 0x1⟩, ⟨1, 5, .RW, 0x0, 0, 0x10⟩, ⟨16, 16, .RW, 0x0, 0, 0xFFFF⟩]⟩,
  ⟨Off.ORB_BEACON_EN0, .one, [⟨0, 32, .RW, 0x0, 0, 0xFFFFFFFF⟩]⟩]

/-- Registers of a ORB page, part 1. -/
def rowsORB1 : List RegRow := [
  ⟨Off.ORB_BEACON_EN1, .one, [⟨0, 32, .RW, 0x0, 0, 0xFFFFFFFF⟩]⟩,
  ⟨Off.ORB_BEACON_EN2, .one, [⟨0, 32, .RW, 0x0, 0, 0xFFFFFFFF⟩]⟩,
  ⟨Off.ORB_BEACON_EN3, .one, [⟨0, 32, .RW, 0x0, 0, 0xFFFFFFFF⟩]⟩,
  ⟨Off.ORB_BEACON_EN4, .one, [⟨0, 32, .RW, 0x0, 0, 0xFFFFFFFF⟩]⟩,
  ⟨Off.ORB_BEACON_EN5, .one, [⟨0, 32, .RW, 0x0, 0, 0xFFFFFFFF⟩]⟩,
  ⟨Off.ORB_BEACON_EN6, .one, [⟨0, 32, .RW, 0x0, 0, 0xFFFFFFFF⟩]⟩,
  ⟨Off.ORB_BEACON_EN7, .one, [⟨0, 32, .RW, 0x0, 0, 0xFFFFFFFF⟩]⟩,
  ⟨Off.ORB_BEACON_EN8, .one, [⟨0, 32, .RW, 0x0, 0, 0xFFFFFFFF⟩]⟩,
  ⟨Off.ORB_BEACON_EN9, .one, [⟨0, 32, .RW, 0x0, 0, 0xFFFFFFFF⟩]⟩,
  ⟨Off.ORB_BEACON_EN10, .one, [⟨0, 32, .RW, 0x0, 0, 0xFFFFFFFF⟩]⟩,
  ⟨Off.ORB_BEACON_EN11, .one, [⟨0, 32, .RW, 0x0, 0, 0xFFFFFFFF⟩]⟩,
  ⟨Off.ORB_BEACON_EN12, .one, [⟨0, 32, .RW, 0x0, 0, 0xFFFFFFFF⟩]⟩,
  ⟨Off.ORB_BEACON_EN13, .one, [⟨0, 32, .RW, 0x0, 0, 0xFFFFFFFF⟩]⟩,
  ⟨Off.ORB_BEACON_EN14, .one, [⟨0, 32, .RW, 0x0, 0, 0xFFFFFFFF⟩]⟩,
  ⟨Off.ORB_BEACON_EN15, .one, [⟨0, 32, .RW, 0x0, 0, 0xFFFFFFFF⟩]⟩,
  ⟨Off.ORB_GPORT_SEL, .one, [⟨0, 9, .RW, 0x0, 0, 0x1FF⟩]⟩,
  ⟨Off.ORB_GPORT_LIST, .orbGport, [⟨0, 15, .RW, 0x0, 0, 0x7FFF⟩, ⟨16, 7, .RW, 0x0, 0, 0x7F⟩, ⟨24, 6, .RW, 0x20, 0, 0x3F⟩]⟩,
  ⟨Off.ORB_GPORT_PHASE, .orbGport, [⟨0, 32, .RW, 0x0, 0, 0xFFFFFFFF⟩]⟩,
  ⟨Off.ORB_GPORT_SWAP, .orbGport, [⟨0, 32, .RW, 0x0, 0, 0xFFFFFFFF⟩]⟩,
  ⟨Off.ORB_GPORT_STAT, .orbGport, [⟨0, 1, .ROH, 0x0, 0, 0x1⟩, ⟨1, 1, .ROH, 0x0, 0, 0x1⟩, ⟨2, 1, .ROH, 0x0, 0, 0x1⟩, ⟨4, 3, .ROH, 0x0, 0, 0x7⟩]⟩,
  ⟨Off.ORB_GPORT_OVERRUN, .orbGport, [⟨0, 32, .ROH, 0x0, 0, 0xFFFFFFFF⟩]⟩,
  ⟨Off.ORB_GPORT_GUARD, .orbGport, [⟨0, 32, .ROH, 0x0, 0, 0xFFFFFFFF⟩]⟩,
  ⟨Off.ORB_GENT_SEL, .one, [⟨0, 15, .RW, 0x0, 0, 0x7FFF⟩]⟩,
  ⟨Off.ORB_GENT_OFF, .orbGent, [⟨0, 32, .RW, 0x0, 0, 0xFFFFFFFF⟩]⟩]

/-- Registers of a ORB page, part 2. -/
def rowsORB2 : List RegRow := [
  ⟨Off.ORB_GENT_OPEN, .orbGent, [⟨0, 8, .RW, 0xFF, 0, 0xFF⟩]⟩,
  ⟨Off.ORB_GENT_MIN, .orbGent, [⟨0, 32, .RW, 0x0, 0, 0xFFFFFFFF⟩]⟩,
  ⟨Off.ORB_GENT_MAX, .orbGent, [⟨0, 32, .RW, 0xFFFFFFFF, 0, 0xFFFFFFFF⟩]⟩,
  ⟨Off.ORB_CAL_SEL, .one, [⟨0, 10, .RW, 0x0, 0, 0x3FF⟩]⟩,
  ⟨Off.ORB_CAL_TARGET, .orbCal, [⟨0, 1, .RW, 0x0, 0, 0x1⟩, ⟨1, 1, .RW, 0x0, 0, 0x1⟩, ⟨2, 9, .RW, 0x0, 0, 0x1FF⟩]⟩,
  ⟨Off.ORB_CAL_START, .orbCal, [⟨0, 32, .RW, 0x0, 0, 0xFFFFFFFF⟩]⟩,
  ⟨Off.ORB_CAL_LEN, .orbCal, [⟨0, 7, .RW, 0x1, 1, 0x40⟩, ⟨8, 6, .RW, 0x20, 16, 0x20⟩]⟩,
  ⟨Off.ORB_CAL_SECT_LO, .orbCal, [⟨0, 32, .RW, 0x0, 0, 0xFFFFFFFF⟩]⟩,
  ⟨Off.ORB_CAL_SECT_HI, .orbCal, [⟨0, 32, .RW, 0xFFFFFFFF, 0, 0xFFFFFFFF⟩]⟩,
  ⟨Off.ORB_CAL_RUN, .one, [⟨0, 32, .ROH, 0x0, 0, 0xFFFFFFFF⟩]⟩,
  ⟨Off.ORB_CAL_SKIP, .one, [⟨0, 32, .ROH, 0x0, 0, 0xFFFFFFFF⟩]⟩,
  ⟨Off.ORB_CAL_CUT, .one, [⟨0, 32, .ROH, 0x0, 0, 0xFFFFFFFF⟩]⟩,
  ⟨Off.ORB_CAL_RXDROP, .one, [⟨0, 32, .ROH, 0x0, 0, 0xFFFFFFFF⟩]⟩,
  ⟨Off.ORB_PTP_CTRL, .one, [⟨0, 1, .RW, 0x0, 0, 0x1⟩, ⟨1, 1, .RW, 0x0, 0, 0x1⟩, ⟨2, 1, .RW, 0x1, 0, 0x1⟩, ⟨3, 1, .RW, 0x0, 0, 0x1⟩, ⟨8, 8, .RW, 0x0, 0, 0xFF⟩]⟩,
  ⟨Off.ORB_WALL_SEC_LO, .one, [⟨0, 32, .ROH, 0x0, 0, 0xFFFFFFFF⟩]⟩,
  ⟨Off.ORB_WALL_SEC_HI, .one, [⟨0, 16, .ROH, 0x0, 0, 0xFFFF⟩]⟩,
  ⟨Off.ORB_WALL_NS, .one, [⟨0, 30, .ROH, 0x0, 0, 0x3FFFFFFF⟩]⟩,
  ⟨Off.ORB_PTP_OFFSET, .one, [⟨0, 32, .ROH, 0x0, 0, 0xFFFFFFFF⟩]⟩,
  ⟨Off.ORB_PTP_STATE, .one, [⟨0, 2, .ROH, 0x0, 0, 0x3⟩, ⟨2, 1, .ROH, 0x0, 0, 0x1⟩]⟩]

/-- The block-specific registers of a ORB page. -/
def rowsORB : List RegRow := rowsORB0 ++ rowsORB1 ++ rowsORB2

/-- Registers of a MGT page, part 0. -/
def rowsMGT0 : List RegRow := [
  ⟨Off.MGT_CHIT_SEL, .one, [⟨0, 32, .RW, 0x0, 0, 0xFFFFFFFF⟩]⟩,
  ⟨Off.MGT_CHIT_STATUS, .one, [⟨0, 2, .ROH, 0x0, 0, 0x3⟩, ⟨8, 8, .ROH, 0x0, 0, 0xFF⟩, ⟨16, 1, .ROH, 0x0, 0, 0x1⟩]⟩,
  ⟨Off.MGT_CHIT_REC0, .one, [⟨0, 32, .ROH, 0x0, 0, 0xFFFFFFFF⟩]⟩,
  ⟨Off.MGT_CHIT_REC1, .one, [⟨0, 32, .ROH, 0x0, 0, 0xFFFFFFFF⟩]⟩,
  ⟨Off.MGT_CHIT_REC2, .one, [⟨0, 32, .ROH, 0x0, 0, 0xFFFFFFFF⟩]⟩,
  ⟨Off.MGT_CHIT_REC3, .one, [⟨0, 32, .ROH, 0x0, 0, 0xFFFFFFFF⟩]⟩,
  ⟨Off.MGT_CHIT_REC4, .one, [⟨0, 32, .ROH, 0x0, 0, 0xFFFFFFFF⟩]⟩,
  ⟨Off.MGT_CHIT_REC5, .one, [⟨0, 32, .ROH, 0x0, 0, 0xFFFFFFFF⟩]⟩,
  ⟨Off.MGT_CHIT_REC6, .one, [⟨0, 32, .ROH, 0x0, 0, 0xFFFFFFFF⟩]⟩,
  ⟨Off.MGT_CHIT_REC7, .one, [⟨0, 32, .ROH, 0x0, 0, 0xFFFFFFFF⟩]⟩,
  ⟨Off.MGT_SESS_SEL, .one, [⟨0, 4, .RW, 0x0, 0, 0xF⟩]⟩,
  ⟨Off.MGT_SESS_STATE, .mgtSess, [⟨0, 2, .ROH, 0x0, 0, 0x3⟩, ⟨4, 3, .ROH, 0x0, 0, 0x7⟩, ⟨8, 24, .ROH, 0x0, 0, 0xFFFFFF⟩]⟩,
  ⟨Off.MGT_SESS_CTRL, .mgtSess, [⟨0, 1, .W1S, 0x0, 0, 0x1⟩, ⟨1, 1, .RW, 0x0, 0, 0x1⟩, ⟨2, 4, .RW, 0xF, 0, 0xF⟩, ⟨6, 1, .RW, 0x0, 0, 0x1⟩, ⟨7, 1, .RW, 0x0, 0, 0x1⟩, ⟨8, 1, .RW, 0x0, 0, 0x1⟩]⟩,
  ⟨Off.MGT_SESS_RX_SEQ, .mgtSess, [⟨0, 32, .ROH, 0x0, 0, 0xFFFFFFFF⟩]⟩,
  ⟨Off.MGT_SESS_TX_SEQ, .mgtSess, [⟨0, 32, .ROH, 0x0, 0, 0xFFFFFFFF⟩]⟩,
  ⟨Off.MGT_SESS_STAT, .mgtSess, [⟨0, 16, .ROH, 0x0, 0, 0xFFFF⟩, ⟨16, 16, .ROH, 0x0, 0, 0xFFFF⟩]⟩,
  ⟨Off.MGT_SESS_CMDS, .mgtSess, [⟨0, 12, .ROH, 0x0, 0, 0xFFF⟩]⟩,
  ⟨Off.MGT_SESS_IDLE, .one, [⟨0, 16, .RW, 0x3C, 1, 0xFFFF⟩]⟩,
  ⟨Off.MGT_CPL_RETRY, .one, [⟨0, 16, .RW, 0xA, 1, 0xFFFF⟩, ⟨16, 4, .RW, 0x8, 0, 0xF⟩]⟩,
  ⟨Off.MGT_CPL_HOLD, .one, [⟨0, 16, .RW, 0x258, 0, 0xFFFF⟩]⟩,
  ⟨Off.MGT_RALOW_DROP_TAG, .one, [⟨0, 32, .ROH, 0x0, 0, 0xFFFFFFFF⟩]⟩,
  ⟨Off.MGT_RALOW_DROP_SEQ, .one, [⟨0, 32, .ROH, 0x0, 0, 0xFFFFFFFF⟩]⟩,
  ⟨Off.MGT_RALOW_DROP_FMT, .one, [⟨0, 32, .ROH, 0x0, 0, 0xFFFFFFFF⟩]⟩,
  ⟨Off.MGT_CPL_LOST, .one, [⟨0, 32, .ROH, 0x0, 0, 0xFFFFFFFF⟩]⟩]

/-- Registers of a MGT page, part 1. -/
def rowsMGT1 : List RegRow := [
  ⟨Off.MGT_TEL_LOST, .one, [⟨0, 32, .ROH, 0x0, 0, 0xFFFFFFFF⟩]⟩,
  ⟨Off.MGT_EVT_HEAD, .one, [⟨0, 32, .ROH, 0x0, 0, 0xFFFFFFFF⟩]⟩,
  ⟨Off.MGT_EVT_SEL, .one, [⟨0, 32, .RW, 0x0, 0, 0xFFFFFFFF⟩]⟩,
  ⟨Off.MGT_EVT_REC0, .one, [⟨0, 32, .ROH, 0x0, 0, 0xFFFFFFFF⟩]⟩,
  ⟨Off.MGT_EVT_REC1, .one, [⟨0, 32, .ROH, 0x0, 0, 0xFFFFFFFF⟩]⟩,
  ⟨Off.MGT_EVT_REC2, .one, [⟨0, 32, .ROH, 0x0, 0, 0xFFFFFFFF⟩]⟩,
  ⟨Off.MGT_EVT_REC3, .one, [⟨0, 32, .ROH, 0x0, 0, 0xFFFFFFFF⟩]⟩,
  ⟨Off.MGT_EVT_REC4, .one, [⟨0, 32, .ROH, 0x0, 0, 0xFFFFFFFF⟩]⟩,
  ⟨Off.MGT_EVT_REC5, .one, [⟨0, 32, .ROH, 0x0, 0, 0xFFFFFFFF⟩]⟩,
  ⟨Off.MGT_EVT_REC6, .one, [⟨0, 32, .ROH, 0x0, 0, 0xFFFFFFFF⟩]⟩,
  ⟨Off.MGT_EVT_REC7, .one, [⟨0, 32, .ROH, 0x0, 0, 0xFFFFFFFF⟩]⟩,
  ⟨Off.MGT_BOOT, .one, [⟨0, 1, .ROH, 0x0, 0, 0x1⟩, ⟨1, 1, .ROH, 0x0, 0, 0x1⟩, ⟨2, 1, .ROH, 0x0, 0, 0x1⟩, ⟨3, 1, .ROH, 0x0, 0, 0x1⟩, ⟨4, 1, .ROH, 0x0, 0, 0x1⟩]⟩,
  ⟨Off.MGT_POSITION, .one, [⟨0, 10, .RW, 0x0, 0, 0x3FF⟩, ⟨10, 2, .RW, 0x0, 0, 0x3⟩, ⟨12, 4, .RW, 0x0, 0, 0xF⟩, ⟨16, 8, .RW, 0x0, 0, 0xFF⟩, ⟨31, 1, .ROH, 0x0, 0, 0x1⟩]⟩,
  ⟨Off.MGT_MODE, .one, [⟨0, 1, .RW, 0x0, 0, 0x1⟩, ⟨1, 1, .RW, 0x0, 0, 0x1⟩, ⟨2, 1, .RW, 0x0, 0, 0x1⟩, ⟨3, 1, .RW, 0x0, 0, 0x1⟩, ⟨4, 1, .RW, 0x0, 0, 0x1⟩, ⟨5, 1, .RW, 0x0, 0, 0x1⟩, ⟨8, 8, .RW, 0x10, 1, 0xFF⟩, ⟨31, 1, .ROH, 0x0, 0, 0x1⟩]⟩,
  ⟨Off.MGT_NETCFG, .one, [⟨0, 1, .W1S, 0x0, 0, 0x1⟩, ⟨1, 1, .ROH, 0x0, 0, 0x1⟩, ⟨2, 1, .ROH, 0x0, 0, 0x1⟩, ⟨8, 8, .RW, 0x3C, 0, 0xFF⟩]⟩,
  ⟨Off.MGT_SHUTDOWN, .one, [⟨0, 1, .W1S, 0x0, 0, 0x1⟩, ⟨1, 1, .ROH, 0x0, 0, 0x1⟩, ⟨2, 2, .ROH, 0x0, 0, 0x3⟩]⟩]

/-- The block-specific registers of a MGT page. -/
def rowsMGT : List RegRow := rowsMGT0 ++ rowsMGT1

/-- Registers of a SEC page, part 0. -/
def rowsSEC0 : List RegRow := [
  ⟨Off.SEC_STATE, .one, [⟨0, 1, .ROH, 0x0, 0, 0x1⟩, ⟨1, 1, .ROH, 0x0, 0, 0x1⟩, ⟨2, 1, .ROH, 0x0, 0, 0x1⟩, ⟨3, 1, .ROH, 0x0, 0, 0x1⟩, ⟨4, 3, .ROH, 0x0, 0, 0x7⟩]⟩,
  ⟨Off.SEC_FW_VERSION, .one, [⟨0, 32, .ROH, 0x0, 0, 0xFFFFFFFF⟩]⟩,
  ⟨Off.SEC_FW_SVN, .one, [⟨0, 32, .ROH, 0x0, 0, 0xFFFFFFFF⟩]⟩,
  ⟨Off.SEC_FW_CTR, .one, [⟨0, 32, .ROH, 0x0, 0, 0xFFFFFFFF⟩]⟩,
  ⟨Off.SEC_ID_HASH0, .one, [⟨0, 32, .ROH, 0x0, 0, 0xFFFFFFFF⟩]⟩,
  ⟨Off.SEC_ID_HASH1, .one, [⟨0, 32, .ROH, 0x0, 0, 0xFFFFFFFF⟩]⟩,
  ⟨Off.SEC_ID_HASH2, .one, [⟨0, 32, .ROH, 0x0, 0, 0xFFFFFFFF⟩]⟩,
  ⟨Off.SEC_ID_HASH3, .one, [⟨0, 32, .ROH, 0x0, 0, 0xFFFFFFFF⟩]⟩,
  ⟨Off.SEC_ID_HASH4, .one, [⟨0, 32, .ROH, 0x0, 0, 0xFFFFFFFF⟩]⟩,
  ⟨Off.SEC_ID_HASH5, .one, [⟨0, 32, .ROH, 0x0, 0, 0xFFFFFFFF⟩]⟩,
  ⟨Off.SEC_ID_HASH6, .one, [⟨0, 32, .ROH, 0x0, 0, 0xFFFFFFFF⟩]⟩,
  ⟨Off.SEC_ID_HASH7, .one, [⟨0, 32, .ROH, 0x0, 0, 0xFFFFFFFF⟩]⟩,
  ⟨Off.SEC_ANCHOR_SEL, .one, [⟨0, 2, .RW, 0x0, 0, 0x3⟩]⟩,
  ⟨Off.SEC_ANCHOR_CTRL, .one, [⟨0, 1, .W1S, 0x0, 0, 0x1⟩, ⟨1, 1, .W1S, 0x0, 0, 0x1⟩, ⟨2, 1, .ROH, 0x0, 0, 0x1⟩]⟩,
  ⟨Off.SEC_ANCHOR_HASH0, .secAnchor, [⟨0, 32, .RW, 0x0, 0, 0xFFFFFFFF⟩]⟩,
  ⟨Off.SEC_ANCHOR_HASH1, .secAnchor, [⟨0, 32, .RW, 0x0, 0, 0xFFFFFFFF⟩]⟩,
  ⟨Off.SEC_ANCHOR_HASH2, .secAnchor, [⟨0, 32, .RW, 0x0, 0, 0xFFFFFFFF⟩]⟩,
  ⟨Off.SEC_ANCHOR_HASH3, .secAnchor, [⟨0, 32, .RW, 0x0, 0, 0xFFFFFFFF⟩]⟩,
  ⟨Off.SEC_ANCHOR_HASH4, .secAnchor, [⟨0, 32, .RW, 0x0, 0, 0xFFFFFFFF⟩]⟩,
  ⟨Off.SEC_ANCHOR_HASH5, .secAnchor, [⟨0, 32, .RW, 0x0, 0, 0xFFFFFFFF⟩]⟩,
  ⟨Off.SEC_ANCHOR_HASH6, .secAnchor, [⟨0, 32, .RW, 0x0, 0, 0xFFFFFFFF⟩]⟩,
  ⟨Off.SEC_ANCHOR_HASH7, .secAnchor, [⟨0, 32, .RW, 0x0, 0, 0xFFFFFFFF⟩]⟩,
  ⟨Off.SEC_STAGE_ADDR, .one, [⟨0, 22, .RW, 0x0, 0, 0x3FFFFF⟩]⟩,
  ⟨Off.SEC_STAGE_DATA, .one, [⟨0, 32, .WO, 0x0, 0, 0xFFFFFFFF⟩]⟩]

/-- Registers of a SEC page, part 1. -/
def rowsSEC1 : List RegRow := [
  ⟨Off.SEC_MAINT_CTRL, .one, [⟨0, 1, .W1S, 0x0, 0, 0x1⟩, ⟨1, 1, .W1S, 0x0, 0, 0x1⟩, ⟨2, 1, .W1S, 0x0, 0, 0x1⟩]⟩,
  ⟨Off.SEC_MAINT_TMO, .one, [⟨0, 8, .RW, 0x1E, 1, 0xFF⟩]⟩,
  ⟨Off.SEC_INJECT_N, .one, [⟨0, 32, .ROH, 0x0, 0, 0xFFFFFFFF⟩]⟩,
  ⟨Off.SEC_RPT_OFF, .one, [⟨0, 18, .RW, 0x0, 0, 0x3FFFF⟩]⟩,
  ⟨Off.SEC_RPT_DATA, .one, [⟨0, 32, .RO, 0x0, 0, 0xFFFFFFFF⟩]⟩,
  ⟨Off.SEC_LOG_HEAD, .one, [⟨0, 32, .ROH, 0x0, 0, 0xFFFFFFFF⟩]⟩,
  ⟨Off.SEC_LOG_DIGEST0, .one, [⟨0, 32, .ROH, 0x0, 0, 0xFFFFFFFF⟩]⟩,
  ⟨Off.SEC_LOG_DIGEST1, .one, [⟨0, 32, .ROH, 0x0, 0, 0xFFFFFFFF⟩]⟩,
  ⟨Off.SEC_LOG_DIGEST2, .one, [⟨0, 32, .ROH, 0x0, 0, 0xFFFFFFFF⟩]⟩,
  ⟨Off.SEC_LOG_DIGEST3, .one, [⟨0, 32, .ROH, 0x0, 0, 0xFFFFFFFF⟩]⟩,
  ⟨Off.SEC_LOG_DIGEST4, .one, [⟨0, 32, .ROH, 0x0, 0, 0xFFFFFFFF⟩]⟩,
  ⟨Off.SEC_LOG_DIGEST5, .one, [⟨0, 32, .ROH, 0x0, 0, 0xFFFFFFFF⟩]⟩,
  ⟨Off.SEC_LOG_DIGEST6, .one, [⟨0, 32, .ROH, 0x0, 0, 0xFFFFFFFF⟩]⟩,
  ⟨Off.SEC_LOG_DIGEST7, .one, [⟨0, 32, .ROH, 0x0, 0, 0xFFFFFFFF⟩]⟩]

/-- The block-specific registers of a SEC page. -/
def rowsSEC : List RegRow := rowsSEC0 ++ rowsSEC1

/-- Registers of a FLT page, part 0. -/
def rowsFLT0 : List RegRow := [
  ⟨Off.FLT_STATE, .one, [⟨0, 1, .ROH, 0x0, 0, 0x1⟩, ⟨4, 4, .ROH, 0x0, 0, 0xF⟩, ⟨8, 1, .ROH, 0x0, 0, 0x1⟩, ⟨9, 1, .ROH, 0x0, 0, 0x1⟩, ⟨10, 1, .ROH, 0x0, 0, 0x1⟩]⟩,
  ⟨Off.FLT_FAULTN, .one, [⟨0, 1, .RW, 0x1, 0, 0x1⟩, ⟨1, 1, .W1S, 0x0, 0, 0x1⟩, ⟨2, 1, .W1S, 0x0, 0, 0x1⟩]⟩,
  ⟨Off.FLT_FIRST_FATAL, .one, [⟨0, 16, .ROH, 0x0, 0, 0xFFFF⟩, ⟨16, 4, .ROH, 0x0, 0, 0xF⟩, ⟨20, 2, .ROH, 0x0, 0, 0x3⟩, ⟨31, 1, .ROH, 0x0, 0, 0x1⟩]⟩,
  ⟨Off.FLT_FENCE_CAUSE0, .one, [⟨0, 32, .ROH, 0x0, 0, 0xFFFFFFFF⟩]⟩,
  ⟨Off.FLT_FENCE_CAUSE1, .one, [⟨0, 32, .ROH, 0x0, 0, 0xFFFFFFFF⟩]⟩,
  ⟨Off.FLT_FENCE_CAUSE2, .one, [⟨0, 32, .ROH, 0x0, 0, 0xFFFFFFFF⟩]⟩,
  ⟨Off.FLT_FENCE_CAUSE3, .one, [⟨0, 32, .ROH, 0x0, 0, 0xFFFFFFFF⟩]⟩,
  ⟨Off.FLT_INJECT, .one, [⟨0, 10, .RW, 0x0, 0, 0x3FF⟩, ⟨31, 1, .RW, 0x0, 0, 0x1⟩]⟩,
  ⟨Off.FLT_LOG_HEAD, .one, [⟨0, 32, .ROH, 0x0, 0, 0xFFFFFFFF⟩]⟩,
  ⟨Off.FLT_LOG_OLDEST, .one, [⟨0, 32, .ROH, 0x0, 0, 0xFFFFFFFF⟩]⟩,
  ⟨Off.FLT_LOG_SEL, .one, [⟨0, 32, .RW, 0x0, 0, 0xFFFFFFFF⟩]⟩,
  ⟨Off.FLT_LOG_OFF, .one, [⟨0, 9, .RW, 0x0, 0, 0x1FF⟩]⟩,
  ⟨Off.FLT_LOG_DATA, .one, [⟨0, 32, .RO, 0x0, 0, 0xFFFFFFFF⟩]⟩,
  ⟨Off.FLT_LOG_STAT, .one, [⟨0, 1, .ROH, 0x0, 0, 0x1⟩, ⟨1, 1, .ROH, 0x0, 0, 0x1⟩, ⟨16, 16, .ROH, 0x0, 0, 0xFFFF⟩]⟩,
  ⟨Off.FLT_LOG_CTRL, .one, [⟨0, 1, .RW, 0x0, 0, 0x1⟩]⟩,
  ⟨Off.FLT_PF_COUNT, .one, [⟨0, 32, .ROH, 0x0, 0, 0xFFFFFFFF⟩]⟩]

/-- The block-specific registers of a FLT page. -/
def rowsFLT : List RegRow := rowsFLT0

/-- Registers of a PWR page, part 0. -/
def rowsPWR0 : List RegRow := [
  ⟨Off.PWR_STATE, .one, [⟨0, 1, .ROH, 0x0, 0, 0x1⟩, ⟨1, 1, .ROH, 0x0, 0, 0x1⟩, ⟨2, 1, .ROH, 0x0, 0, 0x1⟩, ⟨3, 1, .ROH, 0x0, 0, 0x1⟩, ⟨4, 1, .ROH, 0x0, 0, 0x1⟩]⟩,
  ⟨Off.PWR_VIN, .one, [⟨0, 16, .ROH, 0x0, 0, 0xFFFF⟩]⟩,
  ⟨Off.PWR_IIN, .one, [⟨0, 16, .ROH, 0x0, 0, 0xFFFF⟩]⟩,
  ⟨Off.PWR_PIN, .one, [⟨0, 16, .ROH, 0x0, 0, 0xFFFF⟩]⟩,
  ⟨Off.PWR_PIN_MAX, .one, [⟨0, 16, .RCL, 0x0, 0, 0xFFFF⟩]⟩,
  ⟨Off.PWR_CAP, .one, [⟨0, 12, .RW, 0x960, 800, 0x960⟩]⟩,
  ⟨Off.PWR_RAMP, .one, [⟨0, 10, .RW, 0x190, 1, 0x384⟩, ⟨10, 8, .RW, 0x14, 1, 0xFF⟩, ⟨18, 4, .RW, 0x0, 0, 0x8⟩, ⟨24, 8, .RW, 0x0, 0, 0xFF⟩]⟩,
  ⟨Off.PWR_RAMP_STAT, .one, [⟨0, 16, .ROH, 0x0, 0, 0xFFFF⟩, ⟨31, 1, .ROH, 0x0, 0, 0x1⟩]⟩,
  ⟨Off.PWR_THERM, .one, [⟨0, 8, .RW, 0x5F, 0, 0xFF⟩, ⟨8, 8, .RW, 0x66, 0, 0xFF⟩, ⟨16, 8, .RW, 0x64, 0, 0xFF⟩, ⟨24, 8, .RO, 0x6E, 0, 0xFF⟩]⟩,
  ⟨Off.PWR_DRAM_THERM, .one, [⟨0, 8, .RW, 0x5A, 0, 0xFF⟩, ⟨8, 8, .RO, 0x69, 0, 0xFF⟩]⟩,
  ⟨Off.PWR_TEMP_SEL, .one, [⟨0, 7, .RW, 0x0, 0, 0x63⟩]⟩,
  ⟨Off.PWR_TEMP, .one, [⟨0, 16, .ROH, 0x0, 0, 0xFFFF⟩, ⟨31, 1, .ROH, 0x0, 0, 0x1⟩]⟩,
  ⟨Off.PWR_TJ_MAX, .one, [⟨0, 16, .ROH, 0x0, 0, 0xFFFF⟩, ⟨16, 7, .ROH, 0x0, 0, 0x7F⟩]⟩]

/-- The block-specific registers of a PWR page. -/
def rowsPWR : List RegRow := rowsPWR0

/-- Registers of a CLK page, part 0. -/
def rowsCLK0 : List RegRow := [
  ⟨Off.CLK_CTRL, .one, [⟨0, 1, .RW, 0x0, 0, 0x1⟩, ⟨1, 1, .ROH, 0x0, 0, 0x1⟩]⟩,
  ⟨Off.CLK_STEP, .one, [⟨0, 2, .RW, 0x0, 0, 0x2⟩, ⟨4, 2, .ROH, 0x0, 0, 0x3⟩, ⟨8, 2, .ROH, 0x0, 0, 0x3⟩, ⟨12, 2, .ROH, 0x0, 0, 0x3⟩]⟩,
  ⟨Off.CLK_STEP_N, .one, [⟨0, 32, .ROH, 0x0, 0, 0xFFFFFFFF⟩]⟩,
  ⟨Off.CLK_LOCK, .one, [⟨0, 18, .ROH, 0x0, 0, 0x3FFFF⟩]⟩,
  ⟨Off.CLK_FREQ_SEL, .one, [⟨0, 5, .RW, 0x1, 1, 0x12⟩]⟩,
  ⟨Off.CLK_FREQ, .one, [⟨0, 32, .ROH, 0x0, 0, 0xFFFFFFFF⟩]⟩]

/-- The block-specific registers of a CLK page. -/
def rowsCLK : List RegRow := rowsCLK0

/-- The common header of every page (R457). -/
def rowsBLK : List RegRow := [
  ⟨Off.BLK_IDENT, .one, [⟨0, 8, .RO, 0x1, 0, 0xFF⟩, ⟨8, 4, .RO, 0x0, 0, 0xF⟩, ⟨12, 4, .RO, 0x0, 0, 0xF⟩, ⟨16, 8, .RO, 0x0, 0, 0xFF⟩, ⟨24, 8, .RO, 0x0, 0, 0xFF⟩]⟩,
  ⟨Off.BLK_CAPS, .one, [⟨0, 16, .RO, 0x0, 0, 0xFFFF⟩, ⟨16, 8, .RO, 0x0, 0, 0xFF⟩]⟩,
  ⟨Off.BLK_CTRL, .one, [⟨0, 1, .RO, 0x1, 0, 0x1⟩, ⟨1, 1, .RW, 0x0, 0, 0x1⟩, ⟨2, 1, .W1S, 0x0, 0, 0x1⟩, ⟨3, 1, .W1S, 0x0, 0, 0x1⟩]⟩,
  ⟨Off.BLK_STATE, .one, [⟨0, 2, .ROH, 0x1, 0, 0x3⟩, ⟨4, 1, .ROH, 0x0, 0, 0x1⟩, ⟨5, 1, .ROH, 0x0, 0, 0x1⟩]⟩,
  ⟨Off.BLK_EVENT, .one, [⟨0, 16, .W1C, 0x0, 0, 0xFFFF⟩]⟩,
  ⟨Off.BLK_EVENT_EN, .one, [⟨0, 16, .RW, 0xFFFF, 0, 0xFFFF⟩]⟩,
  ⟨Off.BLK_EVENT_FORCE, .one, [⟨0, 16, .W1S, 0x0, 0, 0xFFFF⟩]⟩,
  ⟨Off.BLK_FAULT_MAP, .one, [⟨0, 32, .LRW, 0x0, 0, 0xFFFFFFFF⟩]⟩,
  ⟨Off.BLK_FIRST_ERR0, .one, [⟨0, 4, .ROH, 0x0, 0, 0xF⟩, ⟨4, 2, .ROH, 0x0, 0, 0x3⟩, ⟨6, 1, .ROH, 0x0, 0, 0x1⟩, ⟨7, 1, .ROH, 0x0, 0, 0x1⟩, ⟨8, 4, .ROH, 0x0, 0, 0xF⟩, ⟨12, 16, .ROH, 0x0, 0, 0xFFFF⟩, ⟨31, 1, .W1C, 0x0, 0, 0x1⟩]⟩,
  ⟨Off.BLK_FIRST_ERR1, .one, [⟨0, 32, .ROH, 0x0, 0, 0xFFFFFFFF⟩]⟩,
  ⟨Off.BLK_FIRST_ERR2, .one, [⟨0, 20, .ROH, 0x0, 0, 0xFFFFF⟩, ⟨20, 4, .ROH, 0x0, 0, 0xF⟩]⟩,
  ⟨Off.BLK_FIRST_ERR3, .one, [⟨0, 32, .ROH, 0x0, 0, 0xFFFFFFFF⟩]⟩,
  ⟨Off.BLK_FIRST_ERR4, .one, [⟨0, 32, .ROH, 0x0, 0, 0xFFFFFFFF⟩]⟩,
  ⟨Off.BLK_FIRST_ERR5, .one, [⟨0, 32, .ROH, 0x0, 0, 0xFFFFFFFF⟩]⟩,
  ⟨Off.BLK_FIRST_ERR6, .one, [⟨0, 32, .ROH, 0x0, 0, 0xFFFFFFFF⟩]⟩,
  ⟨Off.BLK_FIRST_ERR7, .one, [⟨0, 16, .ROH, 0x0, 0, 0xFFFF⟩, ⟨16, 10, .ROH, 0x0, 0, 0x3FF⟩, ⟨31, 1, .ROH, 0x0, 0, 0x1⟩]⟩,
  ⟨Off.BLK_ERR_CE, .one, [⟨0, 32, .RCL, 0x0, 0, 0xFFFFFFFF⟩]⟩,
  ⟨Off.BLK_ERR_UE, .one, [⟨0, 32, .RCL, 0x0, 0, 0xFFFFFFFF⟩]⟩,
  ⟨Off.BLK_ARB_CFG, .one, [⟨0, 32, .RW, 0x11111111, 0, 0xFFFFFFFF⟩]⟩,
  ⟨Off.BLK_ARB_STAT, .one, [⟨0, 3, .ROH, 0x0, 0, 0x7⟩, ⟨16, 16, .RCL, 0x0, 0, 0xFFFF⟩]⟩,
  ⟨Off.BLK_PERF_SEL0, .one, [⟨0, 16, .RW, 0x0, 0, 0xFFFF⟩]⟩,
  ⟨Off.BLK_PERF_SEL1, .one, [⟨0, 16, .RW, 0x0, 0, 0xFFFF⟩]⟩,
  ⟨Off.BLK_PERF_SEL2, .one, [⟨0, 16, .RW, 0x0, 0, 0xFFFF⟩]⟩,
  ⟨Off.BLK_PERF_SEL3, .one, [⟨0, 16, .RW, 0x0, 0, 0xFFFF⟩]⟩,
  ⟨Off.BLK_PERF_CNT, .one, [⟨0, 32, .ROH, 0x0, 0, 0xFFFFFFFF⟩]⟩,
  ⟨Off.BLK_PERF_CNT_HI, .one, [⟨0, 32, .ROH, 0x0, 0, 0xFFFFFFFF⟩]⟩,
  ⟨0x68, .one, [⟨0, 32, .ROH, 0x0, 0, 0xFFFFFFFF⟩]⟩,
  ⟨0x6C, .one, [⟨0, 32, .ROH, 0x0, 0, 0xFFFFFFFF⟩]⟩,
  ⟨0x70, .one, [⟨0, 32, .ROH, 0x0, 0, 0xFFFFFFFF⟩]⟩,
  ⟨0x74, .one, [⟨0, 32, .ROH, 0x0, 0, 0xFFFFFFFF⟩]⟩,
  ⟨0x78, .one, [⟨0, 32, .ROH, 0x0, 0, 0xFFFFFFFF⟩]⟩,
  ⟨0x7C, .one, [⟨0, 32, .ROH, 0x0, 0, 0xFFFFFFFF⟩]⟩]

/-- The registers of a page of prefix `p`, common header included. -/
def rowsOf : Pfx → List RegRow
  | .FAB => rowsFAB
  | .CPB => rowsCPB
  | .MEM => rowsMEM
  | .RDX => rowsRDX
  | .SWC => rowsSWC
  | .RST => rowsRST
  | .CMT => rowsCMT
  | .RGC => rowsRGC
  | .HST => rowsHST
  | .ORB => rowsORB
  | .MGT => rowsMGT
  | .SEC => rowsSEC
  | .FLT => rowsFLT
  | .PWR => rowsPWR
  | .CLK => rowsCLK

/-- The row of offset `off` in a page of prefix `p`, if the offset is mapped (R455). -/
def regRow (p : Pfx) (off : Nat) : Option RegRow :=
  if off < 0x80 then rowsBLK.find? (fun r => r.off == off) else (rowsOf p).find? (fun r => r.off == off)

/-- The reset value of a register by its fields. -/
def RegRow.reset (r : RegRow) : Word :=
  word (r.fields.foldl (fun a f => a + f.rst * 2 ^ f.lo) 0)

end Sys2Proof.Machine
end

