-- ==== Sys2Proof/Machine/State.lean ====
section
/-!
DEFINITION. The state of the LH8120 as plain data.

Two stores hold everything that the register tables of the spec give: `State.regs` is the
register file, keyed by address and selector, and `State.tables` holds the words of the job,
group, member, plan, slice and window tables (spec/17_register_summary.md R455 to R463).
Both are sparse: an unlisted register or table word holds its reset value. The other fields
hold the state that the rules give the module and that no plain register holds; a register
that only shows such state is a view of it (Machine/Registers.lean).
-/

namespace Sys2Proof.Machine

/-! ### Time and orbit (spec/09_orbit_and_gates.md) -/

/-- The states of the orbit block (R251). -/
inductive OrbState where
  | unlocked
  | locking
  | locked
  | held
  | lost
  | master
  deriving DecidableEq, Repr

/-- What the orbit block keeps of one mark source (R246, R250, R261). -/
structure SrcState where
  lastEvent : Nat := 0
  lost : Bool := false
  stratum : Nat := 15
  master : Option Word := none
  turn : Word := 0
  interval : Word := 0
  deriving DecidableEq, Repr

/-- The probes of a port that sends BEACON ordered sets (R248): next number, the one under way and when it
left, and the last 16 round trips less their turnarounds. -/
structure ProbeState where
  next : BitVec 16 := 0
  sent : Option (BitVec 16 × Nat) := none
  lastSent : Nat := 0
  due : Bool := false
  samples : List Int := []
  deriving DecidableEq, Repr

/-- The orbit interpolator and master (R251 to R261). `m`, `f`, `tint`, `inc` and `last` are those of R252;
`markAt` is the passage of mark `m` in 1/256 ns of local time; `held` is the index of a hold. -/
structure Orb where
  st : OrbState := .unlocked
  m : BitVec 16 := 0
  f : Nat := 0
  tint : Nat := 0
  inc : Nat := 0
  last : Nat := 0
  markAt : Int := 0
  prevWasMark : Bool := false
  run : Nat := 0
  indexKnown : Bool := false
  measured : Bool := false
  everMeasured : Bool := false
  held : BitVec 16 := 0
  masterStopped : Bool := false
  lastHoldSent : Nat := 0
  src : Fin 4 := 0
  hasSrc : Bool := false
  srcs : Tbl SrcState := []
  probes : Tbl ProbeState := []
  masterSeen : Option Word := none
  slewing : Bool := false
  turn : Word := 0
  lastPattern : Option (BitVec 16) := none
  pinHeld : Bool := false
  perihelia : Nat := 0
  beaconDue : Bool := false
  strobeDue : List Angle := []
  cmapDue : List Nat := []
  exportDue : List Nat := []
  calLeadDue : List (Nat × Angle) := []
  calOpenDue : List (Nat × Angle) := []
  calBad : List Nat := []
  calErr : Tbl Nat := []
  marks : Nat := 0
  deriving DecidableEq, Repr

/-- The wall clock (R279): ns since the PTP epoch, servo state, network in use, and the times t1 to t3 of the exchange
whose DELAY_RESP is awaited. -/
structure Wall where
  ns : Nat := 0
  state : Fin 3 := 0
  net : Fin 2 := 0
  sync : Option (Nat × Int × Int) := none
  deriving DecidableEq, Repr

/-- One gate entry of an active list (R262). -/
structure GateEntry where
  off : Word
  openMask : Byte
  min : Word
  max : Word
  deriving DecidableEq, Repr

/-- The active gate list of a port and its scheduled swap (R262 to R264); `staged` holds the offsets that
firmware moves at the next period start (R265); `passFrom` is the angle that an entry passed after and that the gate
has not taken yet; `err` is the error of the list's words, and a `bad` list acts as all-open (R280). -/
structure GatePort where
  base : Nat := 0
  periodLog : Nat := 32
  phase : Angle := 0
  entries : List GateEntry := []
  bank : Bool := false
  pendingAt : Option Angle := none
  swapDue : Bool := false
  staged : List (Nat × Word) := []
  passFrom : Option Angle := none
  err : Nat := 0
  bad : Bool := false
  reject : Nat := 0
  openMask : Byte := 0xFF
  deriving DecidableEq, Repr

/-- A calibration window of one target (R268 to R271): `leads` are the entries whose lead has passed and where their
windows start, `nextAck` a CAL_ACK for the window after the open one, `announced` that CAL_ENTER has left without
CAL_EXIT, `cut` that the orbit's stop has been counted. -/
structure CalWin where
  entry : Nat := 0
  leads : List (Nat × Angle) := []
  isOpen : Bool := false
  endAngle : Angle := 0
  endDue : Bool := false
  ack : Bool := false
  nextAck : Bool := false
  announced : Bool := false
  cut : Bool := false
  step : Option (CalStep × Nat) := none
  requests : List CalStep := []
  exitPending : Bool := false
  endedAt : Option Nat := none
  deriving DecidableEq, Repr

/-- A policer (R276): what the last refill put in force, and the two buckets in bits. -/
structure Policer where
  on : Bool := false
  yDrop : Bool := false
  rDrop : Bool := true
  tc : Nat := 0
  tp : Nat := 0
  deriving DecidableEq, Repr

/-- A shaper (R277): whether the last refill put it in force, and its bucket in bits. -/
structure Shaper where
  on : Bool := false
  level : Int := 0
  deriving DecidableEq, Repr

/-! ### Frames, switch and pools (spec/08_switch_core.md) -/

/-- An LFP header (spec/04_collectives.md R95). -/
structure LfpHeader where
  version : Nat
  type : Nat
  tc : Nat
  flags : Nat
  job : Nat
  group : Nat
  member : Nat
  format : Nat
  cls : Nat
  step : Nat
  chunk : Nat
  attempt : Nat
  elemOffset : Nat
  count : Nat
  deriving DecidableEq, Repr

/-- A frame held in the packet buffer: bytes from the destination MAC without FCS, its class, the
region, first unit, cells and P0 requester of its cells (none for TC1, which lies in the TC1 buffer
of its arrival port, R226), the arrival port and VC, how many copies have still to leave, the job
it was built for, and the word-code symbols in error of its worst word. -/
structure Buf where
  bytes : List Byte
  tc : Nat
  region : Nat
  ptr : Nat := 0
  cells : Nat := 0
  req : Option Nat := none
  arr : Option (Nat × Nat) := none
  refs : Nat := 1
  job : Option Nat := none
  err : Nat := 0
  claim : Nat := 0
  deriving DecidableEq, Repr

/-- One egress descriptor: the stored frame, the per-target endpoint identifier (R236), the
identifier that was looked up for it, its length with FCS, its cells, whether it is one of several
copies (R235), whether a running table swap waits for it (R238), whether it has failed the test of
R266 before, and whether its addresses stand already as they leave (R444). -/
structure Desc where
  buf : Nat
  dest : Option Nat := none
  key : Option Nat := none
  len : Nat := 0
  cells : Nat := 0
  multi : Bool := false
  affected : Bool := false
  guardCounted : Bool := false
  raw : Bool := false
  deriving DecidableEq, Repr

/-- A target of a frame that a module unit builds (R235). -/
inductive Target where
  | local (port : Nat) (dest : Nat)
  | remote (dest : Nat)
  deriving DecidableEq, Repr

/-- A frame that a module unit waits to build (R230, R235): region and job slot it is charged to,
header, payload and targets; `held` is a claim of cells already made for it (R228). `comet` marks a
COMET_R, replicated from its slot. -/
structure Build where
  region : Nat
  slot : Option Nat
  hdr : LfpHeader
  payload : List Byte
  targets : List Target
  held : Option (Nat × Nat) := none
  comet : Bool := false
  deriving DecidableEq, Repr

/-- A frame that a table swap holds at its ingress (R238): arrival port, VC, and its buffer. -/
structure HeldFrame where
  port : Nat
  vc : Nat
  buf : Nat
  deriving DecidableEq, Repr

/-- A running table swap (R238, R239): the drain limit and the travel in marks since the hold. -/
structure Swap where
  chit : Word
  classes : Nat
  limit : Nat
  startMark : Nat
  held : List HeldFrame := []
  heldCount : Nat := 0
  deriving DecidableEq, Repr

/-- A flowlet entry (R218). -/
structure Flowlet where
  port : Nat := 0
  used : Nat := 0
  valid : Bool := false
  deriving DecidableEq, Repr

/-- Units of a pool held by a requester: pool 0 to 5 of a region, first unit, number, requester
(R229, R234). -/
structure Alloc where
  pool : Nat
  region : Nat
  base : Nat
  n : Nat
  req : Nat
  deriving DecidableEq, Repr

/-- A unit taken out of use by the pointer check (R234). -/
structure Quarantined where
  pool : Nat
  region : Nat
  unit : Nat
  deriving DecidableEq, Repr

/-! ### Links (spec/10_links.md) -/

/-- The bring-up states of a fabric port (R287). -/
inductive PortState where
  | disabled
  | cap
  | step1
  | step2
  | step3
  | align
  | up
  | failed
  deriving DecidableEq, Repr

/-- A flow-control stop received for a class and VC: until when (R225). -/
structure StopRx where
  tc : Nat
  vc : Nat
  until_ : Nat
  deriving DecidableEq, Repr

/-- A flow-control stop sent for a class and VC: when it was last sent, and whether the lead of
a calibration window sent it (R225, R226, R272). -/
structure StopTx where
  tc : Nat
  vc : Nat
  at_ : Nat
  cal : Bool := false
  deriving DecidableEq, Repr

/-- What a peer's DISCOVER told about a port (R444, R445). -/
structure Disc where
  position : Nat
  positioned : Bool
  port : Nat
  mode : Nat
  id : Word
  mac : Nat
  deriving DecidableEq, Repr

/-- One fabric port (R287 to R299, R225, R236, R445); `rxErr` is the error of the words in its ingress buffer (R304), and
`cwAcc` how much of the codeword under way has arrived, in half bits (R300). -/
structure FabPort where
  st : PortState := .disabled
  attempts : Nat := 0
  failStep : Nat := 0
  cause : Nat := 0
  entered : Nat := 0
  retryAt : Option Nat := none
  rxReady : Nat := 0
  txReady : Nat := 0
  gotWord : Bool := false
  modeBad : Bool := false
  peerSleep : Bool := false
  retrain : Option Word := none
  txQuiet : Bool := false
  rxQuiet : Bool := false
  txHoldUntil : Nat := 0
  stopsRx : List StopRx := []
  stopsTx : List StopTx := []
  ctlOwed : List (Nat × Nat) := []
  egress : Tbl (List Desc) := []
  sending : Option (Desc × Nat) := none
  served : Tbl Nat := []
  lastVc : Tbl Nat := []
  idleSince : Nat := 0
  heldByPeer : Bool := false
  ackOwed : Bool := false
  tc1Used : Tbl Nat := []
  lh : Bool := false
  disc : Option Disc := none
  discSent : Word := 0
  lastDisc : Option Nat := none
  discNow : Bool := false
  rxErr : Nat := 0
  cwAcc : Nat := 0
  deriving DecidableEq, Repr

/-- One fabric lane (R288, R289, R291, R293, R295): its figure of merit, since when without a break it has held the
threshold of its state, and how far requests have moved its transmitter taps. -/
structure Lane where
  fom : Byte := 0
  lowCal : Nat := 0
  lowDegrade : Nat := 0
  everReady : Bool := false
  wordBad : Bool := false
  failed : Bool := false
  goodSince : Option Nat := none
  tapM2 : Int := 0
  tapM1 : Int := 0
  tapP1 : Int := 0
  deriving DecidableEq, Repr

/-- One host port (R286, R303, R443); `rxErr` is the error of the words in its ingress buffer (R304). -/
structure HostPortSt where
  state : Fin 4 := 0
  pausedUntil : Option Nat := none
  downAt : Option Nat := none
  announced : Nat := 0
  lastAnnounce : Nat := 0
  rxErr : Nat := 0
  deriving DecidableEq, Repr

/-! ### Reduction (spec/03_exact_reduction.md) -/

/-- An accumulator entry (R52); `err` counts the word-code symbols in error of its worse word. -/
structure Entry where
  acc : BitVec 192 := 0
  residue : BitVec 8 := 0
  count : BitVec 13 := 0
  posInf : Bool := false
  negInf : Bool := false
  nan : Bool := false
  belowFloor : Bool := false
  intMode : Bool := false
  overflow : Bool := false
  isPartial : Bool := false
  residueErr : Bool := false
  jobSlot : BitVec 10 := 0
  chunkSeq : BitVec 16 := 0
  err : Nat := 0
  deriving DecidableEq, Repr

/-- An addend as a lane receives it: a binary32 or INT32 code, or a Class T partial element. -/
inductive AddendCode where
  | f32 (x : Word)
  | i32 (x : Word)
  | exact (w : BitVec 192)
  deriving DecidableEq, Repr

/-- An addend queued at a reduction cell (R51, R53, R74). -/
structure Addend where
  slot : Nat
  step : Word
  attempt : Byte
  chunk : Nat
  tagSlot : BitVec 10
  tagSeq : BitVec 16
  elem : Nat
  code : AddendCode
  deriving DecidableEq, Repr

/-- Where a chunk record stands (R70, R75, R76). -/
inductive ChunkPhase where
  | active
  | discarding
  | waitingGrant
  | waitingFeed
  | finished
  deriving DecidableEq, Repr

/-- A chunk record (R70). `outBytes` holds the finished elements of a chunk that waits for its unit buffer
(R130), `enc` the encoded elements of a leaf's chunk that waits for its parent's GRANT, each with its
below-floor flag (R101), `ptr0` the claim of a relay chunk in P0 (R102), `owed` the members whose GRANT a calibration
window withholds (R272). -/
structure Chunk where
  slot : Nat
  region : Nat
  step : Word
  attempt : Byte
  index : Nat
  cell : Nat
  len : Nat
  c : Nat
  s : Nat
  arrived : List Nat := []
  bfHeader : Bool := false
  entries : Tbl Entry := []
  proto : Entry := {}
  ptr0 : Option Nat := none
  ptr1 : Option Nat := none
  ptr4 : Option Nat := none
  released : Bool := false
  owed : List Nat := []
  phase : ChunkPhase := .active
  outBytes : List Byte := []
  enc : List (Nat × Bool) := []
  deriving DecidableEq, Repr

/-- The conditions of the open instance in one home region, before they are recorded (R62). -/
structure CondAcc where
  nanOut : Bool := false
  infOut : Bool := false
  invalid : Bool := false
  overflow : Bool := false
  belowFloor : Bool := false
  fault : Bool := false
  nanLow : Option Nat := none
  ovfLow : Option Nat := none
  bfLow : Option Nat := none
  faultLow : Option Nat := none
  deriving DecidableEq, Repr

/-! ### Jobs (spec/04_collectives.md) -/

/-- Job states (R86). -/
inductive JobState where
  | empty
  | defined
  | armed
  | running
  | draining
  | retired
  deriving DecidableEq, Repr

/-- A member entry (R85). -/
structure Member where
  dest : Nat
  port : Nat
  isLocal : Bool
  module : Bool
  valid : Bool
  deriving DecidableEq, Repr

/-- A group as the job binds it (R84, R85). -/
structure Group where
  index : Nat
  base : Nat
  size : Nat
  valid : Bool
  floor : Int
  intMode : Bool
  result64 : Bool
  classP : Bool
  fanin : Nat
  owner : Nat
  members : List Member
  deriving DecidableEq, Repr

/-- A conversion descriptor (spec/02_number_formats.md R46). -/
structure Descriptor where
  fmt : Nat
  rnd : Nat
  clipEn : Bool
  scale : Word
  bias : Word
  clip : Word
  tensor : Word
  deriving DecidableEq, Repr

/-- A row of the reduction plan (R87). -/
structure PlanRow where
  first : Nat
  count : Nat
  role : Nat
  s : Nat
  dest : Nat
  rgroup : Nat
  upDest : Nat
  upGroup : Nat
  upMember : Nat
  upS : Nat
  deriving DecidableEq, Repr

/-- A reduction plan (R87). -/
structure Plan where
  cgroup : Nat
  nrows : Nat
  readyWait : Bool
  dlLead : Word
  rows : List PlanRow
  deriving DecidableEq, Repr

/-- A slice table entry (spec/05_parameter_service.md R125). -/
structure SliceCfg where
  index : Nat
  first : Nat
  valid : Bool
  nchunk : Nat
  unit : Nat
  region : Nat
  cpb : Nat
  feedq : Nat
  distq : Nat
  desc : Nat
  planes : Nat
  feedOrder : Bool
  freezeEn : Bool
  sbuf : Nat
  owner : Nat
  dgroup : Nat
  win : Nat
  off : Nat
  deriving DecidableEq, Repr

/-- A window table entry (spec/11_memory.md R316). -/
structure Window where
  index : Nat
  lo : Nat
  valid : Bool
  size : Nat
  scopeRegion : Bool
  region : Nat
  progLd : Bool
  progSt : Bool
  epRead : Bool
  epWrite : Bool
  hostRead : Bool
  hostWrite : Bool
  owner : Nat
  deriving DecidableEq, Repr

/-- The bound configuration of a job as it stood at arming (R20); `quotas` holds `min` and `max` of its slot in
pool `p` of region `r` at `4 p + r` (R92). -/
structure JobCfg where
  id : Nat
  homeMask : Nat
  len : Nat
  nchunks : Nat
  seed : DWord
  dlPhase : Angle
  periodLog : Nat
  dlMin : Nat
  attLimit : Nat
  isoSteps : Nat
  cmtBase : Nat
  cmtCount : Nat
  cmtRegion : Nat
  cmtTmo : Nat
  paceRate : Nat
  paceBurst : Nat
  paceBacklog : Nat
  progMask : Nat
  waitTmo : Nat
  descs : List Descriptor
  plan : Plan
  groups : List Group
  slices : List SliceCfg
  windows : List (Nat × Window)
  digest : Digest
  quotas : Tbl (Nat × Nat) := []
  deriving DecidableEq, Repr

/-- Whether a step instance is open on the module (R89). -/
inductive InstPhase where
  | none
  | opened
  | sealed
  | abandoned
  deriving DecidableEq, Repr

/-- The step instance of a job on this module (R104 to R108). `skip` counts the passages of the
deadline angle that lie before the deadline (R105). -/
structure Instance where
  step : Word := 0
  attempt : Byte := 0
  phase : InstPhase := .none
  deadline : Angle := 0
  skip : Nat := 0
  due : Bool := false
  ready : List Nat := []
  grants : List Nat := []
  readySent : Bool := false
  nInvalid : Nat := 0
  nOverflow : Nat := 0
  deriving DecidableEq, Repr

/-- A job slot (R90 to R93). `lateOf` names the last instance whose deadline has passed (R23). -/
structure Job where
  st : JobState := .empty
  cfg : Option JobCfg := none
  armChit : Option Word := none
  retireChit : Option Word := none
  startAngle : Angle := 0
  firstStep : Word := 0
  startDue : Bool := false
  inst : Instance := {}
  openPending : Option (Word × Byte × Angle) := none
  failure : Option Nat := none
  failWord : Word := 0
  aborting : Bool := false
  lagRun : Nat := 0
  lagLast : Option Nat := none
  lateOf : Option (Word × Byte) := none
  deriving DecidableEq, Repr

/-- What one contributor has sent in the open instance (R111): segments, ingress angle of the last, and the travel
of the orbit up to it. -/
structure Lag where
  n : Nat := 0
  angle : Angle := 0
  at_ : Nat := 0
  deriving DecidableEq, Repr

/-- A Comet slot (R113 to R115); `err` counts word-code symbols in error. -/
structure CometSlot where
  isOpen : Bool := false
  group : Nat := 0
  count : Nat := 0
  round : Word := 0
  members : List Nat := []
  entries : List Entry := []
  marks : Nat := 0
  err : Nat := 0
  deriving DecidableEq, Repr

/-! ### Parameter service (spec/05_parameter_service.md) -/

/-- The distribution port of a slice (R140). -/
structure Dist where
  gen : Word
  step : Word
  attempt : Byte
  sent : Nat := 0
  deriving DecidableEq, Repr

/-- How an instance whose OPEN record waits stands. -/
inductive OpenStatus where
  | running
  | sealed
  | abandoned
  deriving DecidableEq, Repr

/-- What the feed and the commit gate keep of one slice (R130 to R136): the instances whose OPEN
waits; the instance whose OPEN is pushed and whose last record is not, whether its seal is
reported; the last record that is due (true for COMMITTED); the chunks delivered and the units
complete, pushed, popped and freed; the unit whose buffer the next pop frees; the commit request
and the store transfers issued before it. -/
structure Feed where
  pendingOpen : List (Word × Byte × OpenStatus) := []
  opened : Option (Word × Byte) := none
  sealed : Bool := false
  last : Option Bool := none
  delivered : List Nat := []
  completed : List Nat := []
  pushed : List Nat := []
  popped : List Nat := []
  freed : List Nat := []
  toFree : Option Nat := none
  request : Bool := false
  requestWaits : List Nat := []
  ended : List (Word × Byte) := []
  dists : List Dist := []
  deriving DecidableEq, Repr

/-- A running memory checkpoint (R142 to R145). `images` holds slice, generation, attempt and area of the
images that are committed; `imageOff` the offset of the next image from the manifest. -/
structure Ckpt where
  chit : Word
  slot : Nat
  first : Nat
  count : Nat
  step : Word
  win : Nat
  off : Nat
  done : Nat := 0
  images : List (Nat × Nat × Nat × Bool) := []
  records : List (List Byte) := []
  imageOff : Nat := 0
  deriving DecidableEq, Repr

/-- A WIN_READ being served, or a WIN_WRITE whose acknowledgement waits (R147 to R149): where its replies go,
and the sender's endpoint, group and member. -/
structure WinReq where
  slot : Nat
  isWrite : Bool
  window : Nat
  tag : Word
  offset : Nat
  len : Nat
  pos : Nat := 0
  targets : List Target
  group : Nat
  member : Nat
  sender : Option (Target × Nat × Nat) := none
  deriving DecidableEq, Repr

/-! ### Compute blocks (spec/06_engine_isa.md, spec/07_program_loader.md) -/

/-- An operand queue: entries, read cursor in the head entry, open tail (R156, R157), and the symbols in error of
the words that the next reader of it takes: 1 the word code corrects, more it does not (R14, R185). -/
structure Queue where
  entries : List (List Byte) := []
  cursor : Nat := 0
  tail : List Byte := []
  err : Nat := 0
  deriving DecidableEq, Repr

/-- The transfer an address generator's engine runs (R161, R163). -/
structure Transfer where
  isLoad : Bool
  queue : Nat
  left : Nat
  stream : Nat
  pc : Nat
  id : Nat := 0
  partialEntry : List Byte := []
  deriving DecidableEq, Repr

/-- An address generator (R160). -/
structure Ag where
  space : Nat := 0x10
  base : Nat := 0
  glog : Nat := 6
  counts : List Nat := [1, 1, 1, 1]
  strides : List Int := [0, 0, 0, 0]
  idx : List Nat := [0, 0, 0, 0]
  cur : Option Transfer := none
  deriving DecidableEq, Repr

/-- A long instruction handed to the vector unit or to a matrix cell: its word, the stream and
instruction index it came from, its number in the order of issue, the scalar operands and the `ftz` bit
latched at issue, and the K-group steps still to run. -/
structure UnitOp where
  word : DWord
  stream : Nat
  pc : Nat
  id : Nat := 0
  s1 : DWord := 0
  s2 : DWord := 0
  ftz : Bool := false
  left : Nat := 0
  deriving DecidableEq, Repr

/-- A tile accumulator (R178, R180, R182): mode, ACC40 or integer elements, sticky flags, steps
since ZACC or ACCLD, and the cell's buffer of instructions for it. -/
structure Acc where
  intMode : Bool := false
  vals : Tbl (BitVec 40) := []
  inv : Bool := false
  ovf : Bool := false
  ksteps : Nat := 0
  buffer : List UnitOp := []
  deriving DecidableEq, Repr

/-- An active hardware loop (R168). -/
structure LoopFrame where
  start : Nat
  last : Nat
  count : Nat
  iter : Nat
  deriving DecidableEq, Repr

/-- Stream states (R186). -/
inductive StreamState where
  | idle
  | running
  | waiting
  | halted
  | faulted
  deriving DecidableEq, Repr

/-- An instruction stream (R154, R186, R204): `vec` is the operation that the vector unit holds for it,
`sets` the flags of its SETs with the transfers that each still waits for (R169). -/
structure Stream where
  st : StreamState := .idle
  pc : Nat := 0
  loops : List LoopFrame := []
  ftz : Bool := false
  cond : BitVec 4 := 0
  cause : Nat := 0
  waitMarks : Nat := 0
  vec : List UnitOp := []
  sets : List (Nat × List Nat) := []
  issuedMark : Nat := 0
  deriving DecidableEq, Repr

/-- The declared extent of an address generator (R189, R190). -/
structure Extent where
  ag : Nat
  lo : Nat
  hi : Nat
  space : Nat
  ld : Bool
  st : Bool
  deriving DecidableEq, Repr

/-- The placement of one stream of a set: what R189 declares, and where its code lies. -/
structure Placed where
  stream : Nat
  entry : Nat
  base : Nat
  len : Nat
  qProd : Nat
  qCons : Nat
  ags : Nat
  sregs : Nat
  accs : Nat
  localBase : Nat
  localSize : Nat
  extents : List Extent
  deriving DecidableEq, Repr

/-- The first exception of a set (R184). -/
structure ExcCap where
  code : Nat
  stream : Nat
  pc : Nat
  addr : Nat := 0
  space : Nat := 0
  deriving DecidableEq, Repr

/-- The first invalid K-group step of a set (R182). -/
structure InvCap where
  cell : Nat
  acc : Nat
  row : Nat
  col : Nat
  stream : Nat
  kstep : Nat
  pc : Nat
  deriving DecidableEq, Repr

/-- A placed program set (R187, R198, R206). -/
structure ProgSet where
  slot : Nat
  jobId : Nat
  chit : Word
  hash : Digest
  qFeed : Nat
  qDist : Nat
  flags : Nat
  streams : List Placed
  exc : Option ExcCap := none
  inv : Option InvCap := none
  cond : BitVec 6 := 0
  stopped : Bool := false
  started : Bool := false
  deriving DecidableEq, Repr

/-- A load waiting for Gliel (R197, R198). -/
structure Load where
  chit : Word
  slot : Nat
  cpb : Nat
  space : Nat
  off : Nat
  len : Nat
  deriving DecidableEq, Repr

/-- A compute block (R151). `storeErr` and `memErr` hold the symbols in error of a word of the instruction store and
of a 16-byte word of local memory (R14, R185); `cellLast` and `vecLast` the accumulator of each cell and the stream that
was served last (R155). -/
structure CpbSt where
  store : Tbl DWord := []
  storeErr : Tbl Nat := []
  memErr : Tbl Nat := []
  cellLast : Tbl Nat := []
  vecLast : Nat := 3
  streams : Tbl Stream := []
  queues : Tbl Queue := []
  ags : Tbl Ag := []
  sregs : Tbl DWord := []
  flags : DWord := 0
  accs : Tbl Acc := []
  mem : Memory := []
  sets : List ProgSet := []
  issued : Nat := 0
  deriving DecidableEq, Repr

/-! ### Memory channels (spec/11_memory.md) -/

/-- A write queued at a channel cell (R313, R315, R324): channel-local address of a burst, the words of it that are
written, each with its 16 bytes, and when it was queued. -/
structure ChReq where
  addr : Nat
  words : List (Nat × List Byte)
  at_ : Nat := 0
  job : Option Nat := none
  deriving DecidableEq, Repr

/-- Channel states (R334). -/
inductive ChState where
  | training
  | ready
  | retraining
  | failed
  deriving DecidableEq, Repr

/-- A memory channel (R324 to R330). `ceRaised` says that the pass has raised `ce_threshold`, `scrubStart` when the
pass began. -/
structure Chan where
  st : ChState := .training
  queue : List ChReq := []
  drift : Int := 0
  afterDq : Bool := false
  cePass : Nat := 0
  ceRaised : Bool := false
  corrPrev : List Nat := []
  corrNow : List Nat := []
  scrubPos : Nat := 0
  scrubStart : Nat := 0
  tmult : Byte := 0
  lastRefresh : Nat := 0
  lastOsc : Nat := 0
  deriving DecidableEq, Repr

/-- An entry of a failing-word log (R330). -/
structure FwlEntry where
  addr : Nat
  ch : Nat
  ue : Bool
  deriving DecidableEq, Repr

/-! ### Sessions, chits, events (spec/12_control_plane.md, spec/13_security.md) -/

/-- Session slot states (R373). -/
inductive SessState where
  | free
  | handshake
  | opened
  deriving DecidableEq, Repr

/-- A message that the module sends to a host (R336 to R339, R380): kind, session slot, epoch, sequence number, `ref`, host
port and address, source UDP port, body and tag. -/
structure RalowOut where
  kind : Nat
  slot : Nat
  epoch : BitVec 24
  seq : Word
  ref : Word
  dest : Option (HostPort × Nat)
  body : List Byte
  sport : Nat := 0
  tag : List Byte := []
  deriving DecidableEq, Repr

/-- A session slot (R340 to R345, R349, R373, R380, R381). While a handshake runs, `hello` holds the payloads of
HOST_HELLO and DEV_HELLO, `keyIn` the shared secret, `hsFrom` where the HOST_HELLO came from. `closing` marks a
session that has set its own `close` bit and closes once the batch is answered; `evtWait` holds the event records that it
has not been sent (R364). -/
structure Session where
  st : SessState := .free
  role : Fin 5 := 0
  epoch : BitVec 24 := 0
  rxMax : Word := 0
  seen : List Word := []
  txSeq : Word := 0
  kept : List (Word × RalowOut) := []
  retA : Option (HostPort × Nat) := none
  retB : Option (HostPort × Nat) := none
  lastNet : Fin 2 := 0
  lastMsg : Nat := 0
  hs : Word := 0
  hsAt : Nat := 0
  hsFrom : Option (HostPort × Nat) := none
  hello : List Byte := []
  keyIn : Digest := 0
  keyOut : Digest := 0
  evtEn : Bool := false
  evtMask : BitVec 4 := 0xF
  telPerf : Bool := false
  telCmap : Bool := false
  telMirror : Bool := false
  cmds : BitVec 12 := 0
  evtWait : List (Word × List Byte) := []
  evtLost : Nat := 0
  mirrorLost : Nat := 0
  tseq : Tbl Nat := []
  latch : Tbl Word := []
  rptOff : Nat := 0
  rpt : List Byte := []
  logSel : Word := 0
  logOff : Nat := 0
  closing : Bool := false
  deriving DecidableEq, Repr

/-- A delivery of a completion record that still awaits its ACK, with its further unit where it has one (R359, R360). -/
structure Delivery where
  rseq : Byte
  bytes : List Byte
  unit : Option Nat
  region : Nat := 0
  lastSent : Nat
  resends : Nat := 0
  deriving DecidableEq, Repr

/-- An open chit and its home unit (R356 to R360); `lost` counts the records before the latest that were not delivered,
`delivered` says that the latest was sent. -/
structure ChitRec where
  chit : Word
  region : Nat
  unit : Nat
  sess : Nat
  epoch : BitVec 24
  net : Fin 2
  mirror : Bool
  next : Byte := 0
  latest : Option (List Byte) := none
  lost : Nat := 0
  delivered : Bool := false
  final : Bool := false
  finalAt : Nat := 0
  acked : Bool := false
  deliveries : List Delivery := []
  deriving DecidableEq, Repr

/-- A firmware bank: its image and the 64 bytes of its commit record, none where the record is blank (R376, R377). -/
structure Bank where
  image : List Byte := []
  record : List Byte := []
  deriving DecidableEq, Repr

/-- A record of an anti-rollback counter: value, write sequence, and whether its tag verifies (R379). -/
structure CtrRec where
  value : Nat := 0
  seq : Nat := 0
  ok : Bool := true
  deriving DecidableEq, Repr

/-- An anti-rollback counter as its pair of records (R379). -/
structure Counter where
  a : CtrRec := {}
  b : CtrRec := {}
  deriving DecidableEq, Repr

/-- The flash and the state of the security block (R374 to R387). -/
structure Sec where
  bank0 : Bank := {}
  bank1 : Bank := {}
  active : Fin 2 := 0
  pufOk : Bool := false
  anchors : Tbl (Option Digest) := []
  anchorPair : Counter := {}
  fwPair : Counter := {}
  netRecord : Option (List Word × Byte) := none
  netOk : Bool := true
  stage : Memory := []
  consentM : Option Nat := none
  consentO : Option Nat := none
  maintOpen : Bool := false
  maintSeen : Bool := false
  maintAt : Nat := 0
  log : List (List Byte) := []
  digest : Digest := 0
  deriving DecidableEq, Repr

/-! ### Faults, power, modes (spec/14_faults.md to spec/16_bringup_and_modes.md) -/

/-- The fault classes (R390). -/
inductive FaultClass where
  | corrected
  | contained
  | regionFatal
  | chipFatal
  deriving DecidableEq, Repr

/-- A fault log record in flash (R406). -/
structure LogRec where
  seq : Nat
  bytes : List Byte
  valid : Bool := true
  deriving DecidableEq, Repr

/-- A fault log record waiting to be written (R408), with what R406 records of its cause: local
time in ns, PTP time, angle, turn, `FLT_STATE`, the originating block's capture, the other
captures, and the detail bytes. -/
structure LogReq where
  kind : Nat
  region : Nat
  forced : Bool
  at_ : Nat
  time : Nat
  angle : Angle
  turn : Word
  fltState : Word
  capture : List Byte := []
  others : List Byte := []
  detail : List Byte := []
  deriving DecidableEq, Repr

/-- The chip fault aggregator (R400 to R410). -/
structure Flt where
  chipFatal : Bool := false
  fenced : List Nat := []
  faultn : Bool := false
  pulseEnd : Option Nat := none
  testPulse : Bool := false
  releasePending : Bool := false
  powerFail : Bool := false
  log : List LogRec := []
  queue : List LogReq := []
  writing : Option LogReq := none
  nextSeq : Nat := 0
  boots : Nat := 0
  torn : Bool := false
  containedLogged : Nat := 0
  lostSince : Nat := 0
  deriving DecidableEq, Repr

/-- The power and clock blocks and the input pins (R418 to R440). `rails` says that the main stages run,
`railBad` that a rail is out of regulation, `shed` that the domains of R409 are stopped, `hot` that a trip
reading persists, `cause` what last moved the step level. In reset `refInUse` holds the source wanted. -/
structure Pwr where
  vin : BitVec 16 := 0
  aux : Bool := false
  pwrEn : Bool := false
  rails : Bool := false
  railBad : Bool := false
  pgood : Bool := false
  inReset : Bool := true
  powerFailed : Bool := false
  shed : Bool := false
  hot : Bool := false
  tripped : Bool := false
  thermAlert : Bool := false
  temps : Tbl Int := []
  tempValid : List Nat := []
  estimate : Nat := 0
  ceiling : Nat := 0
  limited : Bool := false
  lastStage : Nat := 0
  stageDue : Bool := false
  tlevel : Nat := 0
  plevel : Nat := 0
  level : Nat := 0
  cause : Nat := 0
  lastFall : Option Nat := none
  coolSince : Option Nat := none
  overMs : Nat := 0
  underSince : Option Nat := none
  locked : BitVec 18 := 0
  refInUse : Bool := false
  deriving DecidableEq, Repr

/-- Start-up, mode and shutdown (R441 to R453): firmware becomes active at the first mark after `autoArmed`;
`lastMove` holds the mark count at which each policy field last moved. -/
structure Boot where
  fwRun : Bool := false
  netCfg : Bool := false
  autoArmed : Bool := false
  autoDue : Bool := false
  autoActive : Bool := false
  lastMove : Tbl (Option Nat) := []
  shutRefused : Bool := false
  shutState : Fin 3 := 0
  deriving DecidableEq, Repr

/-- A reaction of a fault class that has been raised and not yet taken (R391 to R402). -/
inductive Reaction where
  | failJob (slot : Nat) (code : Nat)
  | abandon (slot : Nat) (code : Nat)
  | fence (region : Nat) (page : Nat) (event : Nat) (forced : Bool)
  | chipFatal (page : Nat) (event : Nat) (forced : Bool)
  deriving DecidableEq, Repr

/-- What leaves the module, in the order in which it leaves: a Ralow message, a fabric frame, a
BEACON ordered set (kind, index, stratum, delay), pulses on ORBIT_OUT, a flow-control frame
(its bytes without the FCS), the 56-bit status word of a lane, QUIET, a frame of a host port, an announcement with the IPv6
addresses that it advertises and the IPv4 address that it asks for (R443); and the result entry of a register access (R347). -/
inductive Emission where
  | ralow (m : RalowOut)
  | frame (port : Nat) (dest : Option Nat) (bytes : List Byte)
  | orderedSet (port : Nat) (kind : Nat) (index : BitVec 16) (stratum : Nat) (delay : Nat)
  | orbitOut (pulses : Nat)
  | flowControl (port : Nat) (bytes : List Byte)
  | statusWord (lane : Nat) (word : Nat)
  | quiet (port : Nat)
  | idleBlocks (port : Nat)
  | hostReply (port : HostPort) (bytes : HostFrame)
  | announce (port : HostPort) (v6 : List (BitVec 128)) (v4 : Option Word)
  | entry (sess : Nat) (status : Nat) (value : Word)
  | delayReq (port : HostPort) (v6 : Bool)
  deriving DecidableEq, Repr

/-- The host port that sends it. -/
def Emission.hostPort : Emission → Option HostPort
  | .ralow m => m.dest.map (·.1)
  | .hostReply p _ | .announce p _ _ | .delayReq p _ => some p
  | _ => none

/-- The reduction blocks, the reduction stores and their chunk records. -/
structure Red where
  chunks : List Chunk := []
  cellQ : Tbl (List Addend) := []
  nextChunk : Tbl Nat := []
  rr : Tbl Nat := []
  pace : Tbl Nat := []
  cond : Tbl CondAcc := []
  lag : Tbl Lag := []
  lagArrived : Tbl Nat := []
  lagLast : Tbl Nat := []
  lagNamed : Tbl Nat := []
  deriving DecidableEq, Repr

/-- The switch: stored frames, frames waiting to be built, active tables, swap, flowlets. -/
structure Switch where
  bufs : Tbl (Option Buf) := []
  nextBuf : Nat := 0
  builds : List Build := []
  active : Tbl Word := []
  actBank : Bool := false
  actMode : Nat := 0
  actShift : Nat := 10
  swap : Option Swap := none
  flowlets : Tbl Flowlet := []
  rotate : Tbl Nat := []
  allocs : List Alloc := []
  quar : List Quarantined := []
  mirror : Tbl Nat := []
  mirHeld : Tbl Nat := []
  tblErr : Tbl Nat := []
  cmap : Tbl Nat := []
  refillAt : Nat := 0
  deriving DecidableEq, Repr

/-- Why the machine stops with a fault. None of the commands of the table stops so: the spec
gives the block no address whose access stops it (a refused access has a status). -/
inductive Fault where
  /-- Kept for an access that names no memory of the module. Safe: nothing raises it. -/
  | noSuchMemory
  deriving DecidableEq, Repr

/-- Why a command has no meaning. -/
inductive Refusal where
  /-- A row that has no meaning yet. Safe: the model stops where the hardware goes on. -/
  | notModelled (mnemonic : String)
  /-- The operands break `Instr.wf`: they name nothing that can arrive. Raised by the meanings
  whose operands `Instr.wf` restricts. Safe. -/
  | illFormed
  deriving DecidableEq, Repr

/-- The state of the module. -/
structure State where
  now : Nat := 0
  free : Nat := 0
  regs : Tbl Word := []
  tables : Tbl Word := []
  orb : Orb := {}
  wall : Wall := {}
  gates : Tbl GatePort := []
  cal : Tbl CalWin := []
  policers : Tbl Policer := []
  shapers : Tbl Shaper := []
  sw : Switch := {}
  ports : Tbl FabPort := []
  lanes : Tbl Lane := []
  hostPorts : Tbl HostPortSt := []
  red : Red := {}
  jobs : Tbl Job := []
  comet : Tbl CometSlot := []
  feeds : Tbl Feed := []
  ckpts : List Ckpt := []
  winq : Tbl (List WinReq) := []
  loads : List Load := []
  cpbs : Tbl CpbSt := []
  mem : Memory := []
  memErr : Tbl Nat := []
  ecc : Tbl Nat := []
  chans : Tbl Chan := []
  fwl : Tbl (List FwlEntry) := []
  sessions : Tbl Session := []
  chits : List ChitRec := []
  ring : List (List Byte) := []
  sec : Sec := {}
  flt : Flt := {}
  pwr : Pwr := {}
  boot : Boot := {}
  todo : List Reaction := []
  out : List Emission := []
  held : List Emission := []
  pending : List Instr := []
  deriving DecidableEq, Repr

/-- The state right after reset: every register, table word and structure at its reset value,
nothing listed in any store, nothing waiting. -/
def State.reset : State := {}

end Sys2Proof.Machine
end

