-- ==== Sys2Proof/Machine/Ops.lean ====
section
/-!
DEFINITION. The named operations that every command is built from: parts of the state by
their numbers, the register file and its counters, the orbit angle, free values, and the
raising of a block event with its capture, record and reaction (spec/14_faults.md).
-/

namespace Sys2Proof.Machine

/-! ### Parts of the state by number -/

/-- Fabric port `p`. -/
def State.port (s : State) (p : Nat) : FabPort := s.ports.look {} p

/-- Fabric port `p` changed by `f`. -/
def State.modPort (s : State) (p : Nat) (f : FabPort → FabPort) : State :=
  { s with ports := s.ports.upd {} p f }

/-- Fabric lane `l`. -/
def State.lane (s : State) (l : Nat) : Lane := s.lanes.look {} l

/-- Fabric lane `l` changed by `f`. -/
def State.modLane (s : State) (l : Nat) (f : Lane → Lane) : State :=
  { s with lanes := s.lanes.upd {} l f }

/-- Host port `p`. -/
def State.hostPort (s : State) (p : Nat) : HostPortSt := s.hostPorts.look {} p

/-- Host port `p` changed by `f`. -/
def State.modHost (s : State) (p : Nat) (f : HostPortSt → HostPortSt) : State :=
  { s with hostPorts := s.hostPorts.upd {} p f }

/-- Job slot `j`. -/
def State.job (s : State) (j : Nat) : Job := s.jobs.look {} j

/-- Job slot `j` changed by `f`. -/
def State.modJob (s : State) (j : Nat) (f : Job → Job) : State :=
  { s with jobs := s.jobs.upd {} j f }

/-- The step instance of job slot `j` changed by `f`. -/
def State.modInst (s : State) (j : Nat) (f : Instance → Instance) : State :=
  s.modJob j fun x => { x with inst := f x.inst }

/-- Feed state of slice `i`. -/
def State.feed (s : State) (i : Nat) : Feed := s.feeds.look {} i

/-- Feed state of slice `i` changed by `f`. -/
def State.modFeed (s : State) (i : Nat) (f : Feed → Feed) : State :=
  { s with feeds := s.feeds.upd {} i f }

/-- Compute block `b`. -/
def State.cpb (s : State) (b : Nat) : CpbSt := s.cpbs.look {} b

/-- Compute block `b` changed by `f`. -/
def State.modCpb (s : State) (b : Nat) (f : CpbSt → CpbSt) : State :=
  { s with cpbs := s.cpbs.upd {} b f }

/-- Memory channel `c`. -/
def State.chan (s : State) (c : Nat) : Chan := s.chans.look {} c

/-- Memory channel `c` changed by `f`. -/
def State.modChan (s : State) (c : Nat) (f : Chan → Chan) : State :=
  { s with chans := s.chans.upd {} c f }

/-- Session slot `i`. -/
def State.sess (s : State) (i : Nat) : Session := s.sessions.look {} i

/-- Session slot `i` changed by `f`. -/
def State.modSess (s : State) (i : Nat) (f : Session → Session) : State :=
  { s with sessions := s.sessions.upd {} i f }

/-- Gate state of fabric port `p`. -/
def State.gate (s : State) (p : Nat) : GatePort := s.gates.look {} p

/-- Gate state of fabric port `p` changed by `f`. -/
def State.modGate (s : State) (p : Nat) (f : GatePort → GatePort) : State :=
  { s with gates := s.gates.upd {} p f }

/-- The key of a calibration target: ports from 0, channels from 512. -/
def CalTarget.key : CalTarget → Nat
  | .port p => p
  | .channel c => 512 + c

/-- Calibration window of the target with key `t`. -/
def State.calWin (s : State) (t : Nat) : CalWin := s.cal.look {} t

/-- The lead of a window has passed, and the window has not opened (R269). -/
def CalWin.lead (w : CalWin) : Bool := !w.leads.isEmpty

/-- Calibration window of the target with key `t` changed by `f`. -/
def State.modCal (s : State) (t : Nat) (f : CalWin → CalWin) : State :=
  { s with cal := s.cal.upd {} t f }

/-- Comet slot `i` of region `r`. -/
def State.cometSlot (s : State) (r i : Nat) : CometSlot := s.comet.look {} (r * 1024 + i)

/-- Comet slot `i` of region `r` changed by `f`. -/
def State.modComet (s : State) (r i : Nat) (f : CometSlot → CometSlot) : State :=
  { s with comet := s.comet.upd {} (r * 1024 + i) f }

/-- Mark source `i`. -/
def Orb.srcState (o : Orb) (i : Nat) : SrcState := o.srcs.look {} i

/-- Mark source `i` changed by `f`. -/
def State.modSrc (s : State) (i : Nat) (f : SrcState → SrcState) : State :=
  { s with orb := { s.orb with srcs := s.orb.srcs.upd {} i f } }

/-- A received PAUSE holds the transmitter of host port `p`, or what it kept back goes first (R286). -/
def State.hostPaused (s : State) (p : HostPort) : Bool :=
  (match (s.hostPort p).pausedUntil with | some t => decide (s.now < t) | none => false) ||
  s.held.any fun x => x.hostPort == some p

/-- The emission waits for a paused host port. -/
def State.txPaused (s : State) (e : Emission) : Bool := match e.hostPort with | none => false | some p => s.hostPaused p

/-- Something leaves the module, or waits for a paused host port. -/
def State.emit (s : State) (e : Emission) : State :=
  { s with
    out := if s.txPaused e then s.out else s.out ++ [e]
    held := if s.txPaused e then s.held ++ [e] else s.held }

/-- A reaction waits for the end of the command. -/
def State.react (s : State) (r : Reaction) : State := { s with todo := s.todo ++ [r] }

/-- A value the spec leaves open, fresh at each use (notes/assumptions/8.md). -/
def State.fresh (s : State) : Nat × State := (Config.freeNat s.free, { s with free := s.free + 1 })

/-! ### Time and angle -/

/-- The chip runs: not in reset, and no power failure has stopped it (R409, R424). -/
def State.awake (s : State) : Bool := !s.pwr.inReset && !s.pwr.powerFailed

/-- The orbit angle (R251, R252): 0 before lock, frozen while held or lost. -/
def State.angle (s : State) : Angle :=
  match s.orb.st with
  | .unlocked | .locking => 0
  | _ => BitVec.ofNat 32 (s.orb.m.toNat * 65536 + s.orb.f / 65536)

/-- PTP time in ns since the PTP epoch (R279). -/
def State.time (s : State) : Nat := s.wall.ns

/-! ### Pages of the register space (R456) -/

/-- Page of port block `b`. -/
def pgFab (b : Nat) : Nat := b / 16 * 256 + b % 16

/-- Page of compute block `n`. -/
def pgCpb (n : Nat) : Nat := n / 8 * 256 + 0x10 + n % 8

/-- Page of memory block `m`. -/
def pgMem (m : Nat) : Nat := m / 8 * 256 + 0x18 + m % 8

/-- Page of reduction block `i`. -/
def pgRdx (i : Nat) : Nat := i / 4 * 256 + 0x20 + i % 4

/-- Page of the switch block of region `r`. -/
def pgSwc (r : Nat) : Nat := r * 256 + 0x24

/-- Page of the reduction store of region `r`. -/
def pgRst (r : Nat) : Nat := r * 256 + 0x25

/-- Page of the Comet block of region `r`. -/
def pgCmt (r : Nat) : Nat := r * 256 + 0x26

/-- Page of the region control block of region `r`. -/
def pgRgc (r : Nat) : Nat := r * 256 + 0x27

abbrev pgHst : Nat := 0xC00
abbrev pgOrb : Nat := 0xC01
abbrev pgMgt : Nat := 0xC02
abbrev pgSec : Nat := 0xC03
abbrev pgFlt : Nat := 0xC04
abbrev pgPwr : Nat := 0xC05
abbrev pgClk : Nat := 0xC06

/-- Prefix and instance of a page, if the page is mapped (R455, R456). -/
def pfxOf (pg : Nat) : Option (Pfx × Nat) :=
  let r := pg / 256
  let n := pg % 256
  if r < 4 then
    if n < 0x10 then some (.FAB, 16 * r + n)
    else if n < 0x18 then some (.CPB, 8 * r + (n - 0x10))
    else if n < 0x20 then some (.MEM, 8 * r + (n - 0x18))
    else if n < 0x24 then some (.RDX, 4 * r + (n - 0x20))
    else if n = 0x24 then some (.SWC, r)
    else if n = 0x25 then some (.RST, r)
    else if n = 0x26 then some (.CMT, r)
    else if n = 0x27 then some (.RGC, r)
    else none
  else if r = 12 then
    match n with
    | 0 => some (.HST, 0) | 1 => some (.ORB, 0) | 2 => some (.MGT, 0) | 3 => some (.SEC, 0)
    | 4 => some (.FLT, 0) | 5 => some (.PWR, 0) | 6 => some (.CLK, 0) | _ => none
  else none

/-- Type code of a block (R456). -/
def Pfx.type : Pfx → Nat
  | .FAB => 1 | .CPB => 6 | .MEM => 7 | .RDX => 3 | .SWC => 2 | .RST => 4 | .CMT => 5 | .RGC => 8
  | .HST => 0x10 | .ORB => 0x11 | .MGT => 0x12 | .SEC => 0x13 | .FLT => 0x14 | .PWR => 0x15
  | .CLK => 0x16

/-- Units of a block that a capture can name (R467). -/
def Pfx.units : Pfx → Nat
  | .FAB => 8 | .HST => 8 | .RDX => 4 | .CPB => 4 | .MEM => 4 | .MGT => 16 | _ => 0

/-- Default classes of a block's events, event 0 first: 0 corrected, 1 contained, 2 region-fatal,
3 chip-fatal (R80, R185, R242, R280, R304, R333, R370, R388, R411, R438). -/
def Pfx.events : Pfx → List Nat
  | .FAB => [0, 0, 0, 0, 0, 0, 0]
  | .CPB => [1, 1, 1, 0]
  | .MEM => [0, 0, 1, 0, 0, 2]
  | .RDX => [1, 1, 1, 1, 1]
  | .SWC => [0, 0, 0, 1, 0, 0, 1, 2]
  | .RST => [0, 0, 1]
  | .CMT => [0, 1, 1]
  | .RGC => [2, 1, 2, 0]
  | .HST => [0, 0, 0]
  | .ORB => [0, 0, 0, 0, 0, 0, 0, 0, 0, 1]
  | .MGT => [0, 0, 0, 0, 0, 3]
  | .SEC => [3, 0, 3, 0, 0, 0, 3]
  | .FLT => [0, 0, 3, 0, 0]
  | .PWR => [0, 3, 3, 0, 3, 0, 0]
  | .CLK => [0, 3, 3, 0]

/-- A list of 2-bit codes packed from bit 0 up. -/
def pack2 (l : List Nat) : Nat := l.foldr (fun c a => a * 4 + c) 0

/-- Units of the six pools of a region, and the reset values of WARN, PRESS and STOP (R229). -/
def poolSize : Nat → Nat
  | 0 => 196608 | 1 => 1048576 | 2 => 1024 | 3 => 4096 | 4 => 65536 | 5 => 2048 | _ => 0

/-- Reset value of `SWC_POOL_WARN` (R229). -/
def poolWarn : Nat → Nat
  | 0 => 147456 | 1 => 786432 | 2 => 768 | 3 => 3072 | 4 => 49152 | 5 => 1536 | _ => 0

/-- Reset value of `SWC_POOL_PRESS` (R229). -/
def poolPress : Nat → Nat
  | 0 => 172032 | 1 => 917504 | 2 => 896 | 3 => 3584 | 4 => 57344 | 5 => 1792 | _ => 0

/-- Reset value of `SWC_POOL_STOP` (R229). -/
def poolStop : Nat → Nat
  | 0 => 190464 | 1 => 1015808 | 2 => 992 | 3 => 3968 | 4 => 63488 | 5 => 1984 | _ => 0

/-- Traffic class of an ingress requester of P0 (R230). -/
def reqClass (req : Nat) : Nat := req % 16 / 2

/-- Reset value of `SWC_REQ_MIN` (R243). -/
def reqMinReset (pool req : Nat) : Nat :=
  if pool = 0 ∧ req < 2048 then
    match reqClass req with
    | 0 | 7 => 0x08
    | 1 => 0
    | _ => 0x28
  else if pool = 3 ∧ req < 16 then 0x40
  else 0

/-- Reset value of `SWC_REQ_MAX` and of `SWC_REQ_CUR` (R243). -/
def reqMaxReset (pool req : Nat) : Nat :=
  if pool = 0 ∧ req < 2048 then (if reqClass req = 1 then 0 else 0x4000)
  else if pool = 3 ∧ req < 16 then 0x400
  else 0

/-- Reset value of register `off` of page `pg`, instance `sel` (R457, R463, R229, R390). -/
def resetWord (pg off sel : Nat) : Word :=
  match pfxOf pg with
  | none => 0
  | some (p, i) =>
    if off = Off.BLK_IDENT then
      word (1 + Config.stepping (pg / 256) % 16 * 2 ^ 8 + pg / 256 * 2 ^ 12 + i * 2 ^ 16 + p.type * 2 ^ 24)
    else if off = Off.BLK_CAPS then word (2 ^ p.events.length - 1 + p.units * 2 ^ 16)
    else if off = Off.BLK_FAULT_MAP then word (pack2 p.events)
    else if p = .SWC ∧ off = Off.SWC_POOL_SIZE then word (poolSize sel)
    else if p = .SWC ∧ off = Off.SWC_POOL_WARN then word (poolWarn sel)
    else if p = .SWC ∧ off = Off.SWC_POOL_PRESS then word (poolPress sel)
    else if p = .SWC ∧ off = Off.SWC_POOL_STOP then word (poolStop sel)
    else if p = .SWC ∧ off = Off.SWC_REQ_MIN then word (reqMinReset (sel / 4096) (sel % 4096))
    else if p = .SWC ∧ (off = Off.SWC_REQ_MAX ∨ off = Off.SWC_REQ_CUR) then
      word (reqMaxReset (sel / 4096) (sel % 4096))
    else match regRow p off with
      | some r => r.reset
      | none => 0

/-! ### The register file -/

/-- The key of register `off` of page `pg`, instance `sel`. -/
def rkey (pg off sel : Nat) : Nat := sel * 2 ^ 26 + pg * 2 ^ 14 + off

/-- The word that the register file holds for register `off` of page `pg`, instance `sel`. -/
def State.reg (s : State) (pg off : Nat) (sel : Nat := 0) : Word :=
  s.regs.look (resetWord pg off sel) (rkey pg off sel)

/-- The register file with that word set. -/
def State.setReg (s : State) (pg off : Nat) (v : Word) (sel : Nat := 0) : State :=
  { s with regs := s.regs.put (resetWord pg off sel) (rkey pg off sel) v }

/-- Field [lo + w - 1 : lo] of a register. -/
def State.rfld (s : State) (pg off lo w : Nat) (sel : Nat := 0) : Nat := fld (s.reg pg off sel) lo w

/-- Bit `i` of a register. -/
def State.rbit (s : State) (pg off i : Nat) (sel : Nat := 0) : Bool := bit (s.reg pg off sel) i

/-- A register with field [lo + w - 1 : lo] set. -/
def State.setRfld (s : State) (pg off lo w v : Nat) (sel : Nat := 0) : State :=
  s.setReg pg off (setFld (s.reg pg off sel) lo w v) sel

/-- The performance counters of a page whose selector holds `code` go up by `n` (R460). -/
def State.perfCount (s : State) (pg code n : Nat) : State :=
  (List.range 4).foldl (fun s i =>
    if s.rfld pg (Off.BLK_PERF_SEL0 + 4 * i) 0 16 = code then
      let lo := Off.BLK_PERF_CNT + 8 * i
      let v := (s.reg pg lo).toNat + (s.reg pg (lo + 4)).toNat * 2 ^ 32 + n
      (s.setReg pg lo (word v)).setReg pg (lo + 4) (word (v / 2 ^ 32))
    else s) s

/-- The registers of a fenced region stay as the fence left them (R401). -/
def State.frozen (s : State) (pg : Nat) : Bool := decide (pg / 256 < 4) && s.flt.fenced.contains (pg / 256)

/-- A counter register goes up by `n`, wrapping at 2^32 (R460, and the chapters' registers). -/
def State.bump (s : State) (pg off : Nat) (sel : Nat := 0) (n : Nat := 1) : State :=
  if s.frozen pg then s
  else (s.setReg pg off (s.reg pg off sel + word n) sel).perfCount pg (0x100 + (off - 0x100) / 4) n

/-- A field of a counter register goes up by 1, saturating. -/
def State.bumpSat (s : State) (pg off lo w : Nat) (sel : Nat := 0) : State :=
  if s.frozen pg then s
  else s.setRfld pg off lo w (min (s.rfld pg off lo w sel + 1) (2 ^ w - 1)) sel

/-- A word is corrected in block `pg` (R14, R398). -/
def State.countCe (s : State) (pg : Nat) : State :=
  (s.bumpSat pg Off.BLK_ERR_CE 0 32).perfCount pg 4 1

/-- The syndrome word of an uncorrectable word outside memory (R311, R395): no symbol is corrected, and the syndrome itself
is free. -/
def State.ueSyndrome (s : State) (pg place : Nat) : Word :=
  word (Config.syndrome pg place s.now % 2 ^ 16 + 0x3F * 2 ^ 16 + 2 * 2 ^ 26)

/-- A word is found uncorrectable in block `pg` (R398). -/
def State.countUe (s : State) (pg : Nat) : State :=
  (s.bumpSat pg Off.BLK_ERR_UE 0 32).perfCount pg 5 1

/-! ### The tables behind windows (R462) -/

/-- The tables that the RGC windows reach. -/
inductive TKind where
  | job | group | member | plan | slice | window
  deriving DecidableEq, Repr

/-- Number of a table, for its keys. -/
def TKind.code : TKind → Nat
  | .job => 0 | .group => 1 | .member => 2 | .plan => 3 | .slice => 4 | .window => 5

/-- Reset value of word `w` of an entry of a table (R46, R84, R86, R87, R125, R201). -/
def tableReset : TKind → Nat → Word
  | .job, w =>
    if w ≥ 32 then
      match (w - 32) % 8 with
      | 0 => if w < 48 then 0 else 0x40
      | 1 => 0x3F800000
      | 3 => 0x7F800000
      | _ => 0
    else match w with
      | 3 => 0x7F
      | 4 => 1
      | 8 => 0x20
      | 9 => 0x10000000
      | 11 => 0x0800
      | 13 => 0x10
      | 16 => 0x22000
      | _ => 0
  | .group, 1 => 0xC1CE
  | .plan, w => if w < 8 then 0 else match (w - 8) % 8 with | 2 => 4 | 6 => 1 | _ => 0
  | .slice, 2 => 0x4000
  | _, _ => 0

/-- The key of word `w` of entry `i` of a table. -/
def tkey (k : TKind) (i w : Nat) : Nat := k.code * 2 ^ 32 + i * 256 + w

/-- Word `w` of entry `i` of a table. -/
def State.tbl (s : State) (k : TKind) (i w : Nat) : Word :=
  s.tables.look (tableReset k w) (tkey k i w)

/-- The tables with word `w` of entry `i` set. -/
def State.setTbl (s : State) (k : TKind) (i w : Nat) (v : Word) : State :=
  { s with tables := s.tables.put (tableReset k w) (tkey k i w) v }

/-! ### Regions and fences -/

/-- Region `r` is fenced (R16). -/
def State.isFenced (s : State) (r : Nat) : Bool := s.flt.fenced.contains r

/-- The lowest unfenced region, which takes region 0's part (R83, R401). -/
def State.lowRegion (s : State) : Option Nat := leastBelow 4 fun r => !s.isFenced r

/-- The region of a fabric port. -/
def portRegion (p : Nat) : Nat := p / 128

/-! ### Messages to hosts -/

/-- The return address of a session on a network (R341). -/
def Session.ret (x : Session) (net : Nat) : Option (HostPort × Nat) := if net = 0 then x.retA else x.retB

/-- The 16 bytes of a message's header (R337): big-endian, `response` in a REPLY. -/
def RalowOut.header (m : RalowOut) : List Byte :=
  [BitVec.ofNat 8 (0x10 + m.kind), if m.kind = 5 then 1 else 0] ++ beBytes 2 m.body.length ++ [BitVec.ofNat 8 m.slot] ++
    beBytes 3 m.epoch.toNat ++ beBytes 4 m.seq.toNat ++ beBytes 4 m.ref.toNat

/-- The payload of a message's datagram (R336). -/
def RalowOut.datagram (m : RalowOut) : List Byte := m.header ++ m.body ++ m.tag

/-- "RALOW-TAG" (R380). -/
def ralowTagName : List Byte := [0x52, 0x41, 0x4C, 0x4F, 0x57, 0x2D, 0x54, 0x41, 0x47]

/-- The UDP port of Ralow messages (R336). -/
def State.ralowPort (s : State) : Nat := s.rfld pgHst Off.HST_RALOW_PORT 0 16

/-- A message with its tag: KMAC256 of header and body under the device's key (R336, R380). -/
def RalowOut.tagged (m : RalowOut) (key : Digest) : RalowOut :=
  { m with tag := digestBytes (Config.kmac key ralowTagName (m.header ++ m.body)) }

/-- A message of session slot `i` with the next sequence number of the device (R337, R342), and the
state after it has left. -/
def State.sendMsg (s : State) (i kind : Nat) (ref : Word) (dest : Option (HostPort × Nat))
    (body : List Byte) : RalowOut × State :=
  let x := s.sess i
  let m : RalowOut := { kind := kind, slot := i, epoch := x.epoch, seq := x.txSeq + 1, ref := ref, dest := dest, body := body,
                        sport := s.ralowPort }
  let m := m.tagged x.keyOut
  (m, (s.modSess i fun y => { y with txSeq := y.txSeq + 1 }).emit (.ralow m))

/-- A message of session slot `i` leaves. -/
def State.send (s : State) (i kind : Nat) (ref : Word) (dest : Option (HostPort × Nat))
    (body : List Byte) : State := (s.sendMsg i kind ref dest body).2

/-- The open session slots. -/
def State.openSessions (s : State) : List Nat := (List.range 16).filter fun i => (s.sess i).st == .opened

/-- CLOSE goes to the return addresses of a session (R344). -/
def State.sendClose (s : State) (i reason : Nat) : State :=
  ((s.sess i).retA.toList ++ (s.sess i).retB.toList).foldl (fun s a => s.send i 0xA 0 (some a) (leBytes 2 reason)) s

/-- The event records that wait for a session leave, at most 256 in a message, where it has a return address on its latest
network and no PAUSE holds the port (R286, R364). -/
def State.sendEvents (s : State) (i : Nat) : State :=
  let x := s.sess i
  match x.ret x.lastNet with
  | none => s
  | some a =>
    if x.evtWait.isEmpty ∨ s.hostPaused a.1 then s
    else
      (chunksOf 256 x.evtWait.length x.evtWait).foldl (fun s l => s.send i 0x8 0 (some a) (l.map (·.2)).flatten)
        (s.modSess i fun y => { y with evtWait := [] })

/-- A session after event record `r` of class `cls` has taken number `n`: it waits for the record where it receives the
class, and loses what lies more than 4,096 records behind the ring (R364). -/
def Session.await (x : Session) (cls : Nat) (n : Word) (r : List Byte) : Session :=
  let l := if x.evtEn ∧ x.evtMask.toNat.testBit cls then x.evtWait ++ [(n, r)] else x.evtWait
  let keep := l.filter fun k => decide ((n + 1 - k.1).toNat ≤ 4096)
  { x with evtWait := keep, evtLost := x.evtLost + (l.length - keep.length) }

/-! ### Events (R362 to R365, R390 to R398) -/

/-- One occurrence of an event: its block's page, its bit, the fields of the capture (R395), the job
it belongs to (R392), and the action that its defining table gives it (R391). -/
structure Occ where
  pg : Nat
  ev : Nat
  unit : Nat := 0
  access : Nat := 0
  akind : Nat := 0
  addr : Nat := 0
  syn : Word := 0
  job : Option Nat := none
  forced : Bool := false
  act : List Reaction := []
  deriving DecidableEq, Repr

/-- Default class of event `ev` of page `pg`. -/
def defaultClass (pg ev : Nat) : Nat :=
  match pfxOf pg with
  | some (p, _) => p.events.getD ev 0
  | none => 0

/-- The block of page `pg` takes no new work (R458). -/
def State.quiesced (s : State) (pg : Nat) : Bool := decide (pg / 256 < 4) && s.rbit pg Off.BLK_CTRL 1

/-- The class in force of event `ev` of page `pg` (R66, R390, R391): never below the default, and
`region-fatal` on a chip block takes effect as `chip-fatal`. -/
def State.classOf (s : State) (pg ev : Nat) : Nat :=
  let c := max (defaultClass pg ev) (s.rfld pg Off.BLK_FAULT_MAP (2 * ev) 2)
  if c = 2 ∧ pg / 256 = 12 then 3 else c

/-- Events of a block that arise in one cycle, in the order in which they can take the capture: highest class first, and
among those the lowest bit (R396). -/
def State.oneCycle (s : State) (pg : Nat) (evs : List Nat) : List Nat :=
  [3, 2, 1, 0].flatMap fun c => evs.filter fun e => s.classOf pg e == c

/-- The job identifier of slot `j`: as armed, else as the table holds it. -/
def State.jobId (s : State) (j : Nat) : Nat :=
  match (s.job j).cfg with
  | some c => c.id
  | none => fld (s.tbl .job j 0) 0 16

/-- The eight words of a capture of `e` with class `cls` (R395). -/
def State.captureWords (s : State) (e : Occ) (cls : Nat) : List Word :=
  [word (e.ev + cls * 2 ^ 4 + e.forced.toNat * 2 ^ 6 + e.access * 2 ^ 8 +
      (e.pg * 16 + e.unit % 16) % 2 ^ 16 * 2 ^ 12 + 2 ^ 31),
    word e.addr, word (e.addr / 2 ^ 32 % 2 ^ 20 + e.akind * 2 ^ 20), e.syn, s.angle,
    word s.now, word (s.now / 2 ^ 32),
    match e.job with
    | none => 0
    | some j => word (s.jobId j + j * 2 ^ 16 + 2 ^ 31)]

/-- The capture words of page `pg`. -/
def State.capture (s : State) (pg : Nat) : List Word :=
  (List.range 8).map fun i => s.reg pg (Off.BLK_FIRST_ERR0 + 4 * i)

/-- The capture of page `pg` set to eight words. -/
def State.setCapture (s : State) (pg : Nat) (ws : List Word) : State :=
  (List.range 8).foldl (fun s i => s.setReg pg (Off.BLK_FIRST_ERR0 + 4 * i) (ws.getD i 0)) s

/-- The first-error capture after one more occurrence (R396). -/
def State.takeCapture (s : State) (e : Occ) (cls : Nat) : State :=
  let w := s.reg e.pg Off.BLK_FIRST_ERR0
  if !bit w 31 then s.setCapture e.pg (s.captureWords e cls)
  else if fld w 4 2 = 0 then (if cls > 0 then s.setCapture e.pg (s.captureWords e cls) else s)
  else if cls > 0 then s.setReg e.pg Off.BLK_FIRST_ERR0 (setBit w 7 true)
  else s

/-- Appends a record to the event ring of 4,096 and sends it to each session that receives its
class (R362, R364). The record is given without its sequence number. -/
def State.eventRecord (s : State) (cls : Nat) (tail : List Byte) : State :=
  let n := s.reg pgMgt Off.MGT_EVT_HEAD
  let r := leBytes 4 n.toNat ++ tail
  let s := { s with ring := (s.ring ++ [r]).drop (s.ring.length + 1 - 4096) }
  let s := s.setReg pgMgt Off.MGT_EVT_HEAD (n + 1)
  s.openSessions.foldl (fun s i => (s.modSess i fun x => x.await cls n r).sendEvents i) s

/-- Bytes 4 to 31 of an event record (R363). -/
def State.recordTail (s : State) (pg ev cls : Nat) (forced auto : Bool) (info : List Word) : List Byte :=
  leBytes 2 (pg * 16) ++ [BitVec.ofNat 8 ev,
    BitVec.ofNat 8 (cls + forced.toNat * 64 + auto.toNat * 128)] ++
  leBytes 4 s.angle.toNat ++ leBytes 8 s.time ++ wordBytes (info.take 3)

/-- `FLT_STATE` (R412). -/
def State.fltState (s : State) : Word :=
  word (s.flt.chipFatal.toNat + (s.flt.fenced.foldl (fun a r => a + 2 ^ r) 0) * 16 +
    s.flt.faultn.toNat * 256 + (s.flt.pulseEnd.isSome).toNat * 512 + s.flt.powerFail.toNat * 1024)

/-- A fault log record waits to be written (R408). -/
def State.logFault (s : State) (kind region : Nat) (forced : Bool) (capture others detail : List Byte) : State :=
  let r : LogReq :=
    { kind := kind, region := region, forced := forced, at_ := s.now, time := s.time, angle := s.angle, turn := s.orb.turn,
      fltState := s.fltState, capture := capture, others := others, detail := detail }
  { s with flt := { s.flt with queue := s.flt.queue ++ [r] } }

/-- What the class in force does with the occurrence (R391, R405). -/
def Occ.reactions (e : Occ) (dflt cls : Nat) : List Reaction :=
  match cls with
  | 0 => []
  | 1 =>
    if dflt = 1 then e.act
    else match e.job with
      | some j => [.failJob j 0x030A]
      | none => []
  | 2 => [.fence (e.pg / 256) e.pg e.ev e.forced]
  | _ => [.chipFatal e.pg e.ev e.forced]

/-- An event is raised: its bit, the capture, the record, and the reaction of its class. The bits and the
capture of a fenced region stay as they are (R401). -/
def State.raise (s : State) (e : Occ) : State :=
  let cls := s.classOf e.pg e.ev
  let rose := !s.rbit e.pg Off.BLK_EVENT e.ev
  let en := s.rbit e.pg Off.BLK_EVENT_EN e.ev
  let s := if s.frozen e.pg then s else (s.setRfld e.pg Off.BLK_EVENT e.ev 1 1).takeCapture e cls
  let s :=
    if rose ∧ (en ∨ cls ≥ 2) then
      s.eventRecord cls (s.recordTail e.pg e.ev cls e.forced false
        [s.reg e.pg Off.BLK_FIRST_ERR0, s.reg e.pg Off.BLK_FIRST_ERR1, s.reg e.pg Off.BLK_FIRST_ERR3])
    else s
  let s :=
    if cls = 1 ∧ s.rbit pgFlt Off.FLT_LOG_CTRL 0 ∧ s.flt.containedLogged < 64 ∧
        (e.job.isSome ∨ (defaultClass e.pg e.ev = 1 ∧ !e.forced)) then
      { s.logFault 5 (e.pg / 256) e.forced (wordBytes (s.capture e.pg)) [] [] with
        flt := { (s.logFault 5 (e.pg / 256) e.forced (wordBytes (s.capture e.pg)) [] []).flt with
          containedLogged := s.flt.containedLogged + 1 } }
    else s
  { s with todo := s.todo ++ e.reactions (defaultClass e.pg e.ev) cls }

/-- A decision of Autonomous mode is logged as an event of the management block: register address, old and new
value (R12, R363, R370). -/
def State.logDecision (s : State) (addr old new : Word) : State :=
  let e : Occ := { pg := pgMgt, ev := 4, access := 11, akind := 1, addr := addr.toNat }
  let cls := s.classOf pgMgt 4
  let s := (s.setRfld pgMgt Off.BLK_EVENT 4 1 1).takeCapture e cls
  let s := s.eventRecord 0 (s.recordTail pgMgt 4 0 false true [addr, old, new])
  { s with todo := s.todo ++ e.reactions 0 cls }

/-! ### Word-code errors of small stores (R14, R370, R388, R411) -/

/-- A store or link whose words may hold an error: the region link from one region to another, a region's copy of the
tables of R83, the management and the key memory of a session slot, the log memory of the security block. -/
inductive Store where
  | link (a b : Nat)
  | table (r : Nat)
  | session (i : Nat)
  | keys (i : Nat)
  | log
  deriving DecidableEq, Repr

/-- Key of a store in `State.ecc`. -/
def Store.key : Store → Nat
  | .link a b => 4 * a + b
  | .table r => 2 ^ 16 + r
  | .session i => 2 * 2 ^ 16 + i
  | .keys i => 3 * 2 ^ 16 + i
  | .log => 4 * 2 ^ 16

/-- What an uncorrectable word of a store raises, for a job slot where its work met it. -/
def Store.occ (x : Store) (job : Option Nat) : Occ :=
  match x with
  | .link a b => { pg := pgRgc b, ev := 1, unit := a, access := 0xA, job := job, act := (job.map fun j => Reaction.failJob j 0x0308).toList }
  | .table r => { pg := pgRgc r, ev := 2, access := 1, akind := 6, job := job }
  | .session i => { pg := pgMgt, ev := 5, unit := i, access := 1, job := job }
  | .keys i => { pg := pgSec, ev := 6, unit := i, access := 1, job := job }
  | .log => { pg := pgSec, ev := 6, access := 1, job := job }

/-- What the next word read of a store is: 0 good, 1 corrected, 2 uncorrectable. -/
def State.eccOf (s : State) (x : Store) : Nat := s.ecc.look 0 x.key

/-- The next word of a store is good: a corrected one has been stored again, and a link holds none. -/
def State.eccClear (s : State) (x : Store) : State := { s with ecc := s.ecc.put 0 x.key 0 }

/-- A store is a region link. -/
def Store.isLink : Store → Bool
  | .link .. => true
  | _ => false

/-- A word of a store is uncorrectable, in the work of job slot `job`: what a link carries is dropped. -/
def State.eccLost (s : State) (x : Store) (job : Option Nat) : State :=
  let o := x.occ job
  ((if x.isLink then s.eccClear x else s).countUe o.pg).raise { o with syn := s.ueSyndrome o.pg x.key }

/-- A word of a store is read, in the work of job slot `job`: whether it is good, and the state after. -/
def State.eccRead (s : State) (x : Store) (job : Option Nat := none) : Bool × State :=
  if s.eccOf x = 0 then (true, s)
  else if s.eccOf x = 1 then (true, (s.eccClear x).countCe (x.occ job).pg)
  else (false, s.eccLost x job)

/-- A transfer from region `a` reaches region `b`, by the link between two regions (R411). -/
def State.cross (s : State) (a b : Nat) (job : Option Nat) : Bool × State :=
  if a = b then (true, s) else s.eccRead (.link a b) job

/-- A drop counter of a switch block goes up, which raises its `drop` event for the job of the frame (R242, R392). A frame
in transit, and one dropped before its LFP header is checked, names no job (DEDUCED, notes/assumptions/128.md). -/
def State.dropSwc (s : State) (r off : Nat) (job : Option Nat := none) : State :=
  (s.bump (pgSwc r) off).raise { pg := pgSwc r, ev := 5, access := 7, job := job }

/-- A drop counter of a job slot in a reduction store goes up, which raises `drop` (R80). -/
def State.dropRst (s : State) (r off slot : Nat) : State :=
  (s.bump (pgRst r) off slot).raise { pg := pgRst r, ev := 1, access := 7, job := some slot }

end Sys2Proof.Machine
end

