-- ==== Sys2Proof/Machine/Pools.lean ====
section
/-!
DEFINITION. The buffer pools P0 to P5 (spec/08_switch_core.md R229 to R234,
spec/03_exact_reduction.md R71, R72): quotas, levels, claims, returns with the pointer check.

A claim of `n` units is one entry of `Switch.allocs`, named by its first unit. A claim of P1 is the lowest
run of `n` consecutive entries that are free; in the other pools the first unit is the lowest that names no
claim and is not quarantined (notes/assumptions/12.md).
-/

namespace Sys2Proof.Machine

/-- Lanes of each port of a block in configuration `mode` (R284). -/
def modeLanes (mode : Nat) : Nat := 2 ^ (mode % 4)

/-- Lanes of the ports of the block of port `p`. -/
def State.portLanes (s : State) (p : Nat) : Nat := modeLanes (s.rfld (pgFab (p / 8)) Off.FAB_BLK_MODE 0 2)

/-- Number `p` starts a port of its block's configuration (R284). -/
def State.portStarts (s : State) (p : Nat) : Bool := p % 8 % s.portLanes p == 0

/-- Port `p` is a port of its block's configuration and is enabled (R284). -/
def State.portEnabled (s : State) (p : Nat) : Bool :=
  s.portStarts p && s.rbit (pgFab (p / 8)) Off.FAB_BLK_MODE (8 + p % 8)

/-- Rate of port `p` in Gb/s. -/
def State.portRate (s : State) (p : Nat) : Nat := 200 * s.portLanes p

/-- P0 headroom of port `p` in cells. -/
def State.headroom (s : State) (p : Nat) : Nat :=
  s.rfld (pgSwc (portRegion p)) Off.SWC_PORT_HDRM 0 16 p

/-- The requester number that stands for the headroom cells of the region's port `q`. -/
def hdrmReq (q : Nat) : Nat := 4096 + q

/-- The requester of a job slot's frames in P0 (R230). -/
def jobReq (slot : Nat) : Nat := 2048 + slot

/-- The ingress requester of a port, class and VC in P0 (R230). -/
def ingressReq (p tc vc : Nat) : Nat := 16 * (p % 128) + 2 * tc + vc

/-- A job state in which the job holds what it has bound (R20, R92). -/
def JobState.holds : JobState → Bool
  | .armed | .running | .draining => true
  | _ => false

/-- The slots of the jobs that hold what they have bound. -/
def State.heldSlots (s : State) : List Nat :=
  (s.jobs.filter fun kv => kv.2.st.holds).map (·.1)

/-- `min` and `max` of a job slot in a pool of a region as the registers hold them (R71, R230). -/
def State.quotaRegs (s : State) (pool r slot : Nat) : Nat × Nat :=
  if pool = 1 then
    (s.rfld (pgRst r) Off.RST_QUOTA_MIN 0 21 slot, s.rfld (pgRst r) Off.RST_QUOTA_MAX 0 21 slot)
  else
    let q := pool * 4096 + (if pool = 0 then jobReq slot else slot)
    (s.rfld (pgSwc r) Off.SWC_REQ_MIN 0 21 q, s.rfld (pgSwc r) Off.SWC_REQ_MAX 0 21 q)

/-- `min` and `max` of a job slot in a pool of a region: bound at arming while a configuration is bound, else as
the registers hold them (R20, R71, R92). -/
def State.jobQuota (s : State) (pool r slot : Nat) : Nat × Nat :=
  match (s.job slot).cfg with
  | some c => c.quotas.look (0, 0) (pool * 4 + r)
  | none => s.quotaRegs pool r slot

/-- The quotas of a slot in every pool and region, as arming binds them. -/
def State.quotasOf (s : State) (slot : Nat) : Tbl (Nat × Nat) :=
  [0, 1, 4, 5].flatMap fun pool => (List.range 4).map fun r => (pool * 4 + r, s.quotaRegs pool r slot)

/-- The instances at which register `off` of page `pg` holds another word than at reset. -/
def State.writtenSels (s : State) (pg off : Nat) : List Nat :=
  s.regs.filterMap fun kv => if kv.1 % 2 ^ 26 = pg * 2 ^ 14 + off then some (kv.1 / 2 ^ 26) else none

/-- The job slots that can have a `min` in a pool of a region: those with a register written, which is 0 at
reset, and those that hold what they have bound. -/
def State.jobMins (s : State) (pool r : Nat) : List Nat :=
  let written :=
    if pool = 1 then s.writtenSels (pgRst r) Off.RST_QUOTA_MIN
    else
      let base := pool * 4096 + (if pool = 0 then 2048 else 0)
      ((s.writtenSels (pgSwc r) Off.SWC_REQ_MIN).filter fun q => decide (base ≤ q ∧ q < base + 1024)).map (· - base)
  s.heldSlots ++ written.filter fun j => !s.heldSlots.contains j

/-- `min`, `max` and `cur` of a requester of a pool of region `r` (R230). -/
def State.quota (s : State) (pool r req : Nat) : Nat × Nat × Nat :=
  let cur := s.rfld (pgSwc r) Off.SWC_REQ_CUR 0 21 (pool * 4096 + req)
  match pool with
  | 0 =>
    if req < 2048 then
      if reqClass req = 1 then (0, 0, 0)
      else
        let min := s.rfld (pgSwc r) Off.SWC_REQ_MIN 0 21 req
        (if s.portEnabled (128 * r + req / 16) then min else 0,
          s.rfld (pgSwc r) Off.SWC_REQ_MAX 0 21 req, cur)
    else
      let q := s.jobQuota 0 r (req - 2048)
      (q.1, q.2, cur)
  | 1 =>
    let q := s.jobQuota 1 r req
    (q.1, q.2, s.rfld (pgRst r) Off.RST_QUOTA_CUR 0 21 req)
  | 3 =>
    (s.rfld (pgSwc r) Off.SWC_REQ_MIN 0 21 (3 * 4096 + req),
      s.rfld (pgSwc r) Off.SWC_REQ_MAX 0 21 (3 * 4096 + req), cur)
  | 4 | 5 =>
    let q := s.jobQuota pool r req
    (q.1, q.2, cur)
  | _ => (0, 0, 0)

/-- Units that a requester holds. -/
def State.inUse (s : State) (pool r req : Nat) : Nat :=
  (s.sw.allocs.filter fun a => a.pool == pool && a.region == r && a.req == req).foldl (fun n a => n + a.n) 0

/-- The requesters of a pool of region `r` that can hold a guarantee. -/
def State.requesters (s : State) (pool r : Nat) : List Nat :=
  match pool with
  | 0 =>
    ((List.range 128).filter fun q => s.portEnabled (128 * r + q)).flatMap (fun q =>
      (List.range 16).map fun k => 16 * q + k) ++ (s.jobMins 0 r).map jobReq
  | 3 => List.range 16
  | 1 | 4 | 5 => s.jobMins pool r
  | _ => []

/-- The headroom cells of the enabled ports of region `r`. -/
def State.headroomTotal (s : State) (r : Nat) : Nat :=
  ((List.range 128).filter fun q => s.portEnabled (128 * r + q)).foldl
    (fun n q => n + s.headroom (128 * r + q)) 0

/-- Units quarantined in a pool of region `r` (R234). -/
def State.quarUnits (s : State) (pool r : Nat) : List Nat :=
  (s.sw.quar.filter fun q => q.pool == pool && q.region == r).map (·.unit)

/-- A unit is the first of a claim. -/
def State.isHead (s : State) (pool r u : Nat) : Bool :=
  s.sw.allocs.any fun a => a.pool == pool && a.region == r && a.base == u

/-- A unit lies in a claim: in the run of a P1 claim, else it is the first of one. -/
def State.isHeld (s : State) (pool r u : Nat) : Bool :=
  if pool = 1 then s.sw.allocs.any fun a => a.pool == 1 && a.region == r && decide (a.base ≤ u ∧ u < a.base + a.n)
  else s.isHead pool r u

/-- Free units of a pool of region `r`: not claimed, not quarantined, and in P0 not headroom. -/
def State.poolFree (s : State) (pool r : Nat) : Int :=
  let used := (s.sw.allocs.filter fun a =>
    a.pool == pool && a.region == r && !(pool == 0 && a.req ≥ 4096)).foldl (fun n a => n + a.n) 0
  let quar := ((s.quarUnits pool r).filter fun u => !s.isHeld pool r u).length
  (poolSize pool : Int) - (used : Nat) - (quar : Nat) - ((if pool = 0 then s.headroomTotal r else 0 : Nat) : Int)

/-- Free units of a pool beyond every unused guarantee (R231). -/
def State.sharedFree (s : State) (pool r : Nat) : Int :=
  s.poolFree pool r -
    (s.requesters pool r).foldl (fun (n : Nat) q => n + ((s.quota pool r q).1 - s.inUse pool r q)) 0

/-- The level of a pool: its size minus `shared_free` (R231). -/
def State.poolLevel (s : State) (pool r : Nat) : Nat :=
  clampInt 0 (poolSize pool) ((poolSize pool : Int) - s.sharedFree pool r) |>.toNat

/-- A threshold register of a pool. -/
def State.poolThr (s : State) (off pool r : Nat) : Nat := s.rfld (pgSwc r) off 0 21 pool

/-- The class may be dropped for lack of buffer (R223). -/
def lossy (tc : Nat) : Bool := tc == 0 || tc == 7

/-- The test of R231 and R232: requester `req` may take `n` units of a pool of region `r`. -/
def State.mayTake (s : State) (pool r req n : Nat) : Bool :=
  let (mn, mx, cur) := s.quota pool r req
  let use := s.inUse pool r req
  let own := mn - use
  let level := s.poolLevel pool r
  if pool = 0 ∧ req < 2048 ∧ lossy (reqClass req) ∧ level ≥ s.poolThr Off.SWC_POOL_STOP 0 r then false
  else if n ≤ own then true
  else if level ≥ s.poolThr Off.SWC_POOL_PRESS pool r then false
  else decide (use + n ≤ clampNat mn mx cur ∧ ((n - own : Nat) : Int) ≤ s.sharedFree pool r)

/-- The job slot of a requester, where it is a job (R230). -/
def reqJob (pool req : Nat) : Option Nat :=
  match pool with
  | 0 => if 2048 ≤ req ∧ req < 4096 then some (req - 2048) else none
  | 3 => none
  | _ => some req

/-- The events of a level that rose from `before`, in the work of job slot `job` (R232, R392). -/
def State.watchLevel (s : State) (pool r before : Nat) (job : Option Nat := none) : State :=
  let now := s.poolLevel pool r
  let off (e : Nat) : Nat := match e with | 0 => Off.SWC_POOL_WARN | 1 => Off.SWC_POOL_PRESS | _ => Off.SWC_POOL_STOP
  let crossed (e : Nat) : Bool := decide (before < s.poolThr (off e) pool r ∧ s.poolThr (off e) pool r ≤ now)
  (s.oneCycle (pgSwc r) ((List.range 3).filter crossed)).foldl (fun s e =>
    s.raise { pg := pgSwc r, ev := e, akind := 5, addr := pool, job := job }) s

/-- Units at whose multiples a claim begins: 512 bytes for a P1 run (R234). -/
def poolStep (pool : Nat) : Nat := if pool = 1 then 16 else 1

/-- `n` consecutive entries of P1 from `u` up are in the pool, in no claim and not quarantined. -/
def State.runFree (s : State) (r u n : Nat) : Bool :=
  decide (u + n ≤ poolSize 1) &&
  !(s.sw.allocs.any fun a => a.pool == 1 && a.region == r && decide (u < a.base + a.n ∧ a.base < u + n)) &&
  !((s.quarUnits 1 r).any fun q => decide (u ≤ q ∧ q < u + n))

/-- The lowest free run of `n` entries of P1: it begins at 0, behind a claim or behind a quarantined entry. -/
def State.freeRun (s : State) (r n : Nat) : Option Nat :=
  let ends := (s.sw.allocs.filter fun a => a.pool == 1 && a.region == r).map fun a => (a.base + a.n + 15) / 16 * 16
  let quar := (s.quarUnits 1 r).map fun q => (q + 16) / 16 * 16
  ((0 :: ends ++ quar).filter fun u => s.runFree r u n).min?

/-- The first unit of the next claim of `n` units; none where P1 has no free run of that length. -/
def State.nextUnit (s : State) (pool r n : Nat) : Option Nat :=
  if pool = 1 then s.freeRun r n
  else
    let bound := s.sw.allocs.length + s.sw.quar.length + 1
    some ((leastBelow bound fun k => !s.isHead pool r k && !(s.quarUnits pool r).contains k).getD bound)

/-- Claims `n` units from `u` up. -/
def State.claimAt (s : State) (pool r req n u : Nat) : State :=
  let a : Alloc := { pool := pool, region := r, base := u, n := n, req := req }
  ({ s with sw := { s.sw with allocs := s.sw.allocs ++ [a] } }).watchLevel pool r (s.poolLevel pool r) (reqJob pool req)

/-- Claims `n` cells of P0 without a test: the first unit and the state with them claimed. -/
def State.poolGrab (s : State) (r req n : Nat) : Nat × State :=
  let u := (s.nextUnit 0 r n).getD 0
  (u, s.claimAt 0 r req n u)

/-- Claims `n` units if R231 allows it: the first unit and the state with them claimed. -/
def State.poolTake (s : State) (pool r req n : Nat) : Option (Nat × State) :=
  if s.mayTake pool r req n then (s.nextUnit pool r n).map fun u => (u, s.claimAt pool r req n u) else none

/-- The test of R234 that a returned pointer fails: 1 outside the pool, 2 not at a unit boundary, 3 not
allocated to the requester. -/
def failedTest (pool ptr : Nat) : Nat :=
  if poolSize pool ≤ ptr then 1 else if ptr % poolStep pool ≠ 0 then 2 else 3

/-- The failed pointer check of R234: the unit is quarantined where it names one, and the returning block raises
`pointer_check`. The syndrome holds the requester and, from bit 16, the failed test. The blocks that return units
of P2, P3 and P5 have no such event; there only the job fails (DESIGN CHOICE, notes/assumptions/103.md). -/
def State.badPointer (s : State) (pool r req ptr : Nat) : State :=
  let named := failedTest pool ptr = 3
  let s :=
    if named ∧ !(s.quarUnits pool r).contains ptr then
      let before := s.poolLevel pool r
      let q : Quarantined := { pool := pool, region := r, unit := ptr }
      let s := { s with sw := { s.sw with quar := s.sw.quar ++ [q] } }
      (s.bumpSat (pgSwc r) Off.SWC_POOL_QUAR 0 21 pool).watchLevel pool r before (reqJob pool req)
    else s
  let act := match reqJob pool req with
    | some j => [Reaction.failJob j 0x0301]
    | none => []
  let occ (pg ev : Nat) : Occ :=
    { pg := pg, ev := ev, access := 6, akind := 5, addr := ptr, syn := word (failedTest pool ptr * 2 ^ 16 + req),
      job := reqJob pool req, act := act }
  match pool with
  | 0 => s.raise (occ (pgSwc r) 3)
  | 1 | 4 => s.raise (occ (pgRst r) 2)
  | _ => { s with todo := s.todo ++ act }

/-- The return of the claim that starts at unit `ptr` by requester `req` (R234). -/
def State.poolGive (s : State) (pool r req ptr : Nat) : State :=
  let mine (a : Alloc) : Bool := a.pool == pool && a.region == r && a.base == ptr && a.req == req
  if s.sw.allocs.any mine then
    { s with sw := { s.sw with allocs := s.sw.allocs.filter fun a => !mine a } }
  else s.badPointer pool r req ptr

/-- A claim gives back all of its units but `n`; at 0 it goes. -/
def State.poolShrink (s : State) (pool r req ptr n : Nat) : State :=
  let mine (a : Alloc) : Bool := a.pool == pool && a.region == r && a.base == ptr && a.req == req
  if n = 0 then s.poolGive pool r req ptr
  else { s with sw := { s.sw with allocs := s.sw.allocs.map fun a => if mine a then { a with n := min a.n n } else a } }

/-- Every unit that a requester holds in a pool of region `r` returns. -/
def State.poolGiveAll (s : State) (pool r req : Nat) : State :=
  { s with sw := { s.sw with allocs := s.sw.allocs.filter fun a =>
    !(a.pool == pool && a.region == r && a.req == req) } }

/-- The guarantees of a pool of region `r` and, in P0, the headroom of its enabled ports (R233). -/
def State.guarantees (s : State) (pool r : Nat) : Nat :=
  (s.requesters pool r).foldl (fun n q => n + (s.quota pool r q).1)
    (if pool = 0 then s.headroomTotal r else 0)

end Sys2Proof.Machine
end

