-- ==== Sys2Proof/Machine/Chits.lean ====
section
/-!
DEFINITION. Chits and completion records (spec/12_control_plane.md R356 to R361).
-/

namespace Sys2Proof.Machine

/-- The open chit with this number. -/
def State.chit (s : State) (c : Word) : Option ChitRec := s.chits.find? fun x => x.chit == c

/-- The open chit with this number changed by `f`. -/
def State.modChit (s : State) (c : Word) (f : ChitRec → ChitRec) : State :=
  { s with chits := s.chits.map fun x => if x.chit = c then f x else x }

/-- Claims a home unit and a chit for a command of session slot `i` that arrived on network `net`
(R355, R356, R360): the chit and the state that holds it. -/
def State.claimChit (s : State) (i net : Nat) (mirror : Bool) : Option (Word × State) :=
  match s.lowRegion with
  | none => none
  | some r =>
    match s.poolTake 3 r i 1 with
    | none => none
    | some (u, s) =>
      let seq := (s.sess i).cmds
      let c := word (i * 2 ^ 28 + seq.toNat * 2 ^ 16 + 4096 * r + u)
      let rec_ : ChitRec := { chit := c, region := r, unit := u, sess := i, epoch := (s.sess i).epoch,
                              net := if net = 0 then 0 else 1, mirror := mirror }
      some (c, { s.modSess i (fun x => { x with cmds := x.cmds + 1 }) with chits := s.chits ++ [rec_] })

/-- The home unit of a chit returns to P3 and its number names no chit any more. -/
def State.freeChit (s : State) (c : Word) : State :=
  match s.chit c with
  | none => s
  | some x =>
    let s := x.deliveries.foldl (fun s d =>
      match d.unit with
      | some u => s.poolGive 3 d.region x.sess u
      | none => s) s
    let s := s.poolGive 3 x.region x.sess x.unit
    { s with chits := s.chits.filter fun y => y.chit ≠ c }

/-- The session that issued a chit is still open. -/
def State.chitSession (s : State) (x : ChitRec) : Bool :=
  (s.sess x.sess).st == .opened && (s.sess x.sess).epoch == x.epoch

/-- A record leaves in a COMPLETION message (R358). -/
def State.sendRecord (s : State) (x : ChitRec) (bytes : List Byte) : State :=
  let y := s.sess x.sess
  let s := s.send x.sess 0x6 0 (y.ret x.net.toNat) bytes
  if x.mirror then
    match y.ret (1 - x.net.toNat) with
    | some a => s.send x.sess 0x6 0 (some a) bytes
    | none => s.modSess x.sess fun z => { z with mirrorLost := min (z.mirrorLost + 1) 0xFFFF }
  else s

/-- The record before the one now made, if it still awaits its ACK in the home unit, claims a further unit of the lowest
unfenced region, or is not delivered; the records not delivered since the last one that was count (R357, R360). -/
def State.keepDelivery (s : State) (c : Word) : State :=
  match s.chit c with
  | none => s
  | some x =>
    if x.deliveries.any fun d => d.unit.isNone then
      match s.lowRegion.bind fun r => (s.poolTake 3 r x.sess 1).map fun t => (r, t) with
      | some (r, u, s) =>
        s.modChit c fun y => { y with lost := 0, deliveries := y.deliveries.map fun d =>
          if d.unit.isNone then { d with unit := some u, region := r } else d }
      | none =>
        let s := s.modChit c fun y =>
          { y with lost := y.lost + 1, deliveries := y.deliveries.filter fun d => d.unit.isSome }
        (s.bump pgMgt Off.MGT_CPL_LOST).raise { pg := pgMgt, ev := 3, unit := x.sess }
    else s.modChit c fun y => { y with lost := if y.latest.isSome && !y.delivered then y.lost + 1 else 0 }

/-- Makes a record of a chit (R357), keeps it in the home unit and sends it to the chit's session. -/
def State.record (s : State) (c : Word) (status : Nat) (final : Bool) (result : List Word) : State :=
  let s := s.keepDelivery c
  match s.chit c with
  | none => s
  | some x =>
    let bytes := leBytes 4 c.toNat ++ leBytes 2 status ++ [x.next] ++
      [BitVec.ofNat 8 (min x.lost 127 + final.toNat * 128)] ++ leBytes 4 s.angle.toNat ++
      leBytes 8 s.time ++ wordBytes ((result ++ [0, 0, 0]).take 3)
    let sent := s.chitSession x
    let d : Delivery := { rseq := x.next, bytes := bytes, unit := none, lastSent := s.now }
    let s := s.modChit c fun y =>
      { y with next := y.next + 1, latest := some bytes, delivered := sent, final := final,
               finalAt := if final then s.now else y.finalAt, acked := false,
               deliveries := if sent then y.deliveries ++ [d] else y.deliveries }
    if sent then s.sendRecord x bytes else s

/-- A command completes with its only record. -/
def State.complete (s : State) (c : Word) (status : Nat) (result : List Word := []) : State :=
  s.record c status true result

/-- An ACK entry acknowledges the records 0 to 127 behind `rseq` (R359, R360). -/
def State.ackChit (s : State) (c : Word) (rseq : Byte) : State :=
  match s.chit c with
  | none => s
  | some x =>
    let hit (q : Byte) : Bool := (rseq - q).toNat ≤ 127
    let gone := x.deliveries.filter fun d => hit d.rseq
    let s := gone.foldl (fun s d =>
      match d.unit with
      | some u => s.poolGive 3 d.region x.sess u
      | none => s) s
    let now := x.latest.isSome && hit (x.next - 1)
    let s := s.modChit c fun y =>
      { y with deliveries := y.deliveries.filter (fun d => !hit d.rseq), acked := y.acked || now }
    if now ∧ x.final then s.freeChit c else s

end Sys2Proof.Machine
end

