-- ==== Sys2Proof/Machine/Flags.lean ====
section
/-!
DEFINITION. The element formats, exact values, the rounding modes, the fused conversion and
its two conditions, `invalid` and `overflow` (spec/02_number_formats.md).
-/

namespace Sys2Proof.Machine

/-- An exact or special value: NaN, an infinity, or (−1)^neg * mag * 2^exp. -/
inductive Num where
  | nan
  | inf (neg : Bool)
  | fin (neg : Bool) (mag : Nat) (exp : Int)
  deriving DecidableEq, Repr

/-- The conditions that a conversion reports (R43). -/
structure Cond where
  invalid : Bool := false
  overflow : Bool := false
  deriving DecidableEq, Repr

/-- Either of two reports. -/
def Cond.or (a b : Cond) : Cond := { invalid := a.invalid || b.invalid, overflow := a.overflow || b.overflow }

/-- The special codes of a floating-point format (R31): infinities and NaN at the all-ones exponent,
or one NaN fraction at the top exponent (E4M3), or NaN in place of negative zero (E2M1). -/
inductive Special where
  | ieee
  | topNan
  | negZeroNan
  deriving DecidableEq, Repr

/-- A floating-point format: exponent bits, fraction bits, bias, special codes (R30). -/
structure FpFmt where
  e : Nat
  m : Nat
  bias : Nat
  special : Special
  deriving DecidableEq, Repr

abbrev fp32 : FpFmt := ⟨8, 23, 127, .ieee⟩
abbrev bf16 : FpFmt := ⟨8, 7, 127, .ieee⟩
abbrev fp16 : FpFmt := ⟨5, 10, 15, .ieee⟩
abbrev e5m2 : FpFmt := ⟨5, 2, 15, .ieee⟩
abbrev e4m3 : FpFmt := ⟨4, 3, 7, .topNan⟩
abbrev e2m1 : FpFmt := ⟨2, 1, 1, .negZeroNan⟩
abbrev acc40 : FpFmt := ⟨8, 31, 127, .ieee⟩

/-- The value of a code of a floating-point format (R30, R31). -/
def FpFmt.decode (f : FpFmt) (c : Nat) : Num :=
  let s := bits c (f.e + f.m) 1 == 1
  let e := bits c f.m f.e
  let m := bits c 0 f.m
  let top := 2 ^ f.e - 1
  if f.special = .ieee ∧ e = top then (if m = 0 then .inf s else .nan)
  else if f.special = .topNan ∧ e = top ∧ m = 2 ^ f.m - 1 then .nan
  else if f.special = .negZeroNan ∧ s ∧ e = 0 ∧ m = 0 then .nan
  else if e = 0 then .fin s m (1 - (f.bias : Int) - f.m)
  else .fin s (2 ^ f.m + m) ((e : Int) - f.bias - f.m)

/-- The canonical NaN of a floating-point format (R31). -/
def FpFmt.nan (f : FpFmt) : Nat :=
  match f.special with
  | .ieee => (2 ^ f.e - 1) * 2 ^ f.m + 2 ^ (f.m - 1)
  | .topNan => 2 ^ (f.e + f.m) - 1
  | .negZeroNan => 2 ^ (f.e + f.m)

/-- A sign bit in its place. -/
def FpFmt.sign (f : FpFmt) (neg : Bool) : Nat := neg.toNat * 2 ^ (f.e + f.m)

/-- The largest finite magnitude of a format, as a code. -/
def FpFmt.maxCode (f : FpFmt) : Nat :=
  match f.special with
  | .ieee => (2 ^ f.e - 1) * 2 ^ f.m - 1
  | .topNan => 2 ^ (f.e + f.m) - 2
  | .negZeroNan => 2 ^ (f.e + f.m) - 1

/-- The rounding modes of R40; `rds w` holds the random word. -/
inductive Rnd where
  | rne
  | rtz
  | rds (w : Word)
  deriving DecidableEq, Repr

/-- Rounds mag * 2^exp down to a multiple of 2^u and decides by the mode whether one unit is added:
the magnitude in units of 2^u (R40, R45). -/
def roundUnits (r : Rnd) (mag : Nat) (exp u : Int) : Nat :=
  if exp ≥ u then mag * 2 ^ (exp - u).toNat
  else
    let sh := (u - exp).toNat
    let q := mag / 2 ^ sh
    let rem := mag % 2 ^ sh
    match r with
    | .rtz => q
    | .rne => if 2 * rem > 2 ^ sh ∨ (2 * rem = 2 ^ sh ∧ q % 2 = 1) then q + 1 else q
    | .rds w => if rem * 2 ^ 24 / 2 ^ sh + w.toNat / 256 ≥ 2 ^ 24 then q + 1 else q

/-- Rounds a finite value to a floating-point format: the code with the sign of the value, or none
where the rounded magnitude exceeds the largest finite one (R40, R41). -/
def FpFmt.round (f : FpFmt) (r : Rnd) (neg : Bool) (mag : Nat) (exp : Int) : Option Nat :=
  let emin : Int := 1 - f.bias
  let ev : Int := exp + mag.log2
  let u : Int := max ev emin - f.m
  let q := roundUnits r mag exp u
  let (q, u) := if q = 2 ^ (f.m + 1) then (2 ^ f.m, u + 1) else (q, u)
  if mag = 0 ∨ q = 0 then some (if f.special = .negZeroNan then 0 else f.sign neg)
  else
    let code : Int := if q < 2 ^ f.m then q else (u + f.m + f.bias) * 2 ^ f.m + (q - 2 ^ f.m : Nat)
    if code > f.maxCode then none else some (f.sign neg + code.toNat)

/-- Rounds a finite value to an integer of `w` bits: the integer, and whether it left the range and
was saturated (R40, R41). -/
def roundInt (w : Nat) (r : Rnd) (neg : Bool) (mag : Nat) (exp : Int) : Int × Bool :=
  let q : Int := roundUnits r mag exp 0
  let v := if neg then -q else q
  let lo : Int := -(2 ^ (w - 1) : Nat)
  let hi : Int := (2 ^ (w - 1) : Nat) - 1
  if v < lo then (lo, true) else if v > hi then (hi, true) else (v, false)

/-! ### Exact arithmetic -/

/-- An integer as an exact value. -/
def Num.ofInt (x : Int) : Num := .fin (decide (x < 0)) x.natAbs 0

/-- An exact finite value as a signed multiple of 2^e, for `e` at most its exponent. -/
def alignTo (e : Int) (neg : Bool) (mag : Nat) (exp : Int) : Int :=
  let v : Int := mag * 2 ^ (exp - e).toNat
  if neg then -v else v

/-- The exact sum; a sum of two opposite infinities is NaN. A zero sum is −0 only where both are −0. -/
def Num.add : Num → Num → Num
  | .nan, _ | _, .nan => .nan
  | .inf a, .inf b => if a = b then .inf a else .nan
  | .inf a, _ | _, .inf a => .inf a
  | .fin n1 m1 e1, .fin n2 m2 e2 =>
    let e := min e1 e2
    let v := alignTo e n1 m1 e1 + alignTo e n2 m2 e2
    if v = 0 then .fin (n1 && n2 && m1 == 0 && m2 == 0) 0 0 else .fin (decide (v < 0)) v.natAbs e

/-- The exact product; zero times an infinity is NaN. -/
def Num.mul : Num → Num → Num
  | .nan, _ | _, .nan => .nan
  | .inf a, .inf b => .inf (a != b)
  | .inf a, .fin b m _ | .fin b m _, .inf a => if m = 0 then .nan else .inf (a != b)
  | .fin n1 m1 e1, .fin n2 m2 e2 => .fin (n1 != n2) (m1 * m2) (e1 + e2)

/-- The value with its sign changed. -/
def Num.neg : Num → Num
  | .nan => .nan
  | .inf a => .inf (!a)
  | .fin n m e => .fin (!n) m e

/-- The value is NaN. -/
def Num.isNan : Num → Bool
  | .nan => true
  | _ => false

/-- The value is zero. -/
def Num.isZero : Num → Bool
  | .fin _ 0 _ => true
  | _ => false

/-- The sign of a value, false for NaN. -/
def Num.sign : Num → Bool
  | .nan => false
  | .inf a => a
  | .fin n _ _ => n

/-- `x < y` for values that are not NaN; the two zeros are equal. -/
def Num.lt : Num → Num → Bool
  | .nan, _ | _, .nan => false
  | .inf a, .inf b => a && !b
  | .inf a, .fin .. => a
  | .fin .., .inf b => !b
  | .fin n1 m1 e1, .fin n2 m2 e2 =>
    let e := min e1 e2
    decide (alignTo e n1 m1 e1 < alignTo e n2 m2 e2)

/-- `|x| < |y|` for values that are not NaN. -/
def Num.absLt (x y : Num) : Bool :=
  let abs : Num → Num
    | .nan => .nan
    | .inf _ => .inf false
    | .fin _ m e => .fin false m e
  Num.lt (abs x) (abs y)

/-- Rounds a value to a floating-point format with an infinity on overflow: the form of arithmetic
results (R31, R41). -/
def FpFmt.roundNum (f : FpFmt) (r : Rnd) : Num → Nat × Cond
  | .nan => (f.nan, {})
  | .inf a => (f.sign a + (2 ^ f.e - 1) * 2 ^ f.m, {})
  | .fin n m e =>
    match f.round r n m e with
    | some c => (c, {})
    | none =>
      (match r with
        | .rtz => f.sign n + f.maxCode
        | _ => f.sign n + (2 ^ f.e - 1) * 2 ^ f.m, { overflow := true })

/-! ### Tensor formats (R28, R29, R35) -/

/-- The floating-point element format of a format code, where it has one. -/
def fmtFloat : Nat → Option FpFmt
  | 0x0 => some fp32 | 0x1 => some bf16 | 0x2 => some fp16 | 0x3 => some e5m2 | 0x4 => some e4m3
  | 0x5 => some e2m1 | 0x9 => some e4m3 | 0xA => some e2m1 | _ => none

/-- Bits of one element of a format code. -/
def fmtBits : Nat → Nat
  | 0x0 | 0x8 => 32
  | 0x1 | 0x2 => 16
  | 0x3 | 0x4 | 0x6 | 0x9 | 0xB => 8
  | 0x5 | 0x7 | 0xA | 0xC => 4
  | 0xD => 192
  | 0xE => 64
  | _ => 0

/-- A format code is block-scaled. -/
def blockScaled (fmt : Nat) : Bool := 9 ≤ fmt && fmt ≤ 12

/-- Stored size in bytes of `n` elements of a format (R29, R35). -/
def storedSize (fmt n : Nat) : Nat :=
  if blockScaled fmt then (n + 127) / 128 * (4 + 128 * fmtBits fmt / 8)
  else (n * fmtBits fmt + 7) / 8

/-- The value of an element code of a format without a block scale (R30, R36). -/
def elemNum (fmt c : Nat) : Num :=
  match fmtFloat fmt with
  | some f => f.decode c
  | none =>
    let v := sext (fmtBits fmt) c
    let e : Int := if fmt = 0xB then -6 else if fmt = 0xC then -2 else 0
    .fin (decide (v < 0)) v.natAbs e

/-- Element code `i` of a run of packed elements of `w` bits (R29). -/
def elemCode (w : Nat) (bs : List Byte) (i : Nat) : Nat :=
  if w = 4 then bits ((bs.getD (i / 2) 0).toNat) (4 * (i % 2)) 4 else leAt bs (i * (w / 8)) (w / 8)

/-- The value of an element under an E8M0 scale (R34, R36). -/
def scaled (scale : Byte) (x : Num) : Num :=
  if scale = 0xFF then .nan
  else match x with
    | .fin n m e => .fin n m (e + (scale.toNat : Int) - 127)
    | y => y

/-- Element `i` of a stored tensor (R28, R35, R36). -/
def tensorNum (fmt : Nat) (bs : List Byte) (i : Nat) : Num :=
  if blockScaled fmt then
    let w := fmtBits fmt
    let q := 4 + 16 * w
    let quad := slice bs (i / 128 * q) q
    scaled (quad.getD (i % 128 / 32) 0) (elemNum fmt (elemCode w (quad.drop 4) (i % 128)))
  else elemNum fmt (elemCode (fmtBits fmt) bs i)

/-- Codes of `w` bits packed into bytes (R29). -/
def packCodes (w : Nat) : List Nat → List Byte
  | [] => []
  | a :: t =>
    if w = 4 then
      match t with
      | [] => [BitVec.ofNat 8 (a % 16)]
      | b :: t' => BitVec.ofNat 8 (a % 16 + b % 16 * 16) :: packCodes w t'
    else leBytes (w / 8) a ++ packCodes w t

/-! ### Deterministic stochastic rounding (R45) -/

/-- The 64-bit mixer of R45. -/
def mix64 (z : DWord) : DWord :=
  let z := (z ^^^ (z >>> 30)) * 0xBF58476D1CE4E5B9#64
  let z := (z ^^^ (z >>> 27)) * 0x94D049BB133111EB#64
  z ^^^ (z >>> 31)

/-- The random word of an element (R45). -/
def rdsWord (seed : DWord) (tensor : Word) (index : Nat) (step : Word) : Word :=
  let h := mix64 (seed ^^^ 0x9E3779B97F4A7C15#64)
  let h := mix64 (h ^^^ ((tensor.zeroExtend 64 <<< 32) ||| step.zeroExtend 64))
  let h := mix64 (h ^^^ BitVec.ofNat 64 (index % 2 ^ 48))
  (h >>> 32).truncate 32

/-- The rounding of element `index` under a descriptor's mode. -/
def rndOf (mode : Nat) (seed : DWord) (tensor : Word) (index : Nat) (step : Word) : Rnd :=
  match mode with
  | 1 => .rtz
  | 2 => .rds (rdsWord seed tensor index step)
  | _ => .rne

/-! ### Fused conversion (R37 to R44) -/

/-- Step 1 of R37: y = x * scale + bias exactly, and whether a NaN was made (R38). A zero product with
a zero bias keeps the sign of the product (notes/assumptions/21.md). -/
def scaleBias (x scale bias : Num) : Num × Bool :=
  match x with
  | .nan => (.nan, false)
  | .inf a => if scale.isZero then (.nan, true) else (.inf (a != scale.sign), false)
  | x =>
    if scale.isZero then (bias, false)
    else
      let p := x.mul scale
      if p.isZero ∧ bias.isZero then (p, false) else (p.add bias, false)

/-- The largest finite magnitude of a target format (R39): for an integer target its upper limit. -/
def fmtMax (fmt : Nat) : Num :=
  match fmt with
  | 0x6 => .fin false 127 0
  | 0x7 => .fin false 7 0
  | 0x8 => .fin false (2 ^ 31 - 1) 0
  | 0xB => .fin false 127 121
  | 0xC => .fin false 7 125
  | _ =>
    match fmtFloat fmt with
    | some f =>
      match f.decode f.maxCode with
      | .fin _ m e => .fin false m (if blockScaled fmt then e + 127 else e)
      | y => y
    | none => .inf false

/-- Step 2 of R37 (R39). -/
def clipTo (fmt : Nat) (bound y : Num) : Num :=
  let m := if bound.absLt (fmtMax fmt) then bound else fmtMax fmt
  match y, m with
  | .nan, _ => .nan
  | y, .fin _ mm me => if m.absLt y then .fin y.sign mm me else y
  | y, _ => y

/-- Step 3 of R37 for a target without block scales (R40 to R43). With `plusZero` a zero result is +0
(R40). -/
def roundTo (fmt : Nat) (r : Rnd) (plusZero : Bool) (y : Num) : Nat × Cond :=
  match fmtFloat fmt with
  | some f =>
    match y with
    | .nan => (f.nan, {})
    | .inf a =>
      if f.special = .ieee then (f.sign a + (2 ^ f.e - 1) * 2 ^ f.m, {}) else (f.nan, { overflow := true })
    | .fin n m e =>
      match f.round r n m e with
      | some c => (if plusZero ∧ c = f.sign n then 0 else c, {})
      | none =>
        (if f.special = .ieee then
          (match r with
            | .rtz => f.sign n + f.maxCode
            | _ => f.sign n + (2 ^ f.e - 1) * 2 ^ f.m)
        else f.nan, { overflow := true })
  | none =>
    let w := fmtBits fmt
    match y with
    | .nan => (0, { invalid := true })
    | .inf a => (if a then 2 ^ (w - 1) else 2 ^ (w - 1) - 1, { overflow := true })
    | .fin n m e =>
      let (v, o) := roundInt w r n m e
      (twos w v, { overflow := o })

/-- A conversion to a target without block scales through a descriptor (R37). -/
def convert (d : Descriptor) (r : Rnd) (plusZero : Bool) (x : Num) : Nat × Cond :=
  let (y, made) := scaleBias x (fp32.decode d.scale.toNat) (fp32.decode d.bias.toNat)
  let y := if d.clipEn then clipTo d.fmt (fp32.decode d.clip.toNat) y else y
  let (c, k) := roundTo d.fmt r plusZero y
  (c, { k with invalid := k.invalid || made })

/-- The binary exponent floor(log2 |y|) of a finite nonzero value. -/
def Num.exponent : Num → Option Int
  | .fin _ m e => if m = 0 then none else some (e + m.log2)
  | _ => none

/-- The greatest binary exponent among finite nonzero values. -/
def maxExponent (ys : List Num) : Option Int :=
  ys.foldl (fun a y => match a, y.exponent with
    | none, b => b
    | some a, some b => some (max a b)
    | some a, none => some a) none

/-- Encodes one block of 32 clipped values for a block-scaled target (R44): scale, element codes,
conditions. `made` tells for each value whether its NaN was made here. -/
def encodeBlock (fmt : Nat) (ys : List (Num × Bool)) (rs : List Rnd) : Byte × List Nat × Cond :=
  let isInt := fmt == 0xB || fmt == 0xC
  if isInt ∧ ys.any (fun y => y.1.isNan) then
    (0xFF, ys.map fun _ => 0, { invalid := ys.any fun y => y.1.isNan && y.2 })
  else
    let emax : Int := if fmt = 0x9 then 8 else if fmt = 0xA then 2 else 0
    let x : Int := match maxExponent (ys.map (·.1)) with
      | none => -127
      | some e => clampInt (-127) 127 (e - emax)
    let w := fmtBits fmt
    let one (p : (Num × Bool) × Rnd) : Nat × Cond :=
      match p.1.1 with
      | .nan => ((fmtFloat fmt).elim 0 FpFmt.nan, { invalid := p.1.2 })
      | .inf a =>
        match fmtFloat fmt with
        | some f => (f.nan, { overflow := true })
        | none => (if a then 2 ^ (w - 1) else 2 ^ (w - 1) - 1, { overflow := true })
      | .fin n m e =>
        match fmtFloat fmt with
        | some f => ((f.round p.2 n m (e - x)).getD (f.sign n + f.maxCode), {})
        | none =>
          let shift : Int := if fmt = 0xB then 6 else 2
          (twos w (roundInt w p.2 n m (e - x + shift)).1, {})
    let out := (ys.zip rs).map one
    (BitVec.ofNat 8 (x + 127).toNat, out.map (·.1), out.foldl (fun k o => k.or o.2) {})

/-- A conversion of a run of values through a descriptor into stored bytes, element `i` rounded by
`rnd i`; a block-scaled target takes its values in quads of 128, padded with zeros (R35, R44). -/
def convertRun (d : Descriptor) (rnd : Nat → Rnd) (plusZero : Bool) (xs : List Num) : List Byte × List Cond :=
  if blockScaled d.fmt then
    let prep (x : Num) : Num × Bool :=
      let (y, made) := scaleBias x (fp32.decode d.scale.toNat) (fp32.decode d.bias.toNat)
      (if d.clipEn then clipTo d.fmt (fp32.decode d.clip.toNat) y else y, made)
    let quads := (xs.length + 127) / 128
    let ys := xs.map prep
    let blk (b : Nat) : Byte × List Nat × Cond :=
      let own := (ys.drop (32 * b)).take 32
      if own = [] then (0, List.replicate 32 0, {})
      else
        let full := own ++ List.replicate (32 - own.length) (Num.fin false 0 0, false)
        encodeBlock d.fmt full ((List.range 32).map fun i => rnd (32 * b + i))
    let quad (q : Nat) : List Byte × List Cond :=
      let bl := (List.range 4).map fun j => blk (4 * q + j)
      (bl.map (·.1) ++ packCodes (fmtBits d.fmt) (bl.flatMap fun b => b.2.1), bl.map fun b => b.2.2)
    let out := (List.range quads).map quad
    (out.flatMap (·.1), out.flatMap (·.2))
  else
    let out := xs.mapIdx fun i x => convert d (rnd i) plusZero x
    (packCodes (fmtBits d.fmt) (out.map (·.1)), out.map (·.2))

end Sys2Proof.Machine
end

