-- ==== Sys2Proof/Machine/Exact.lean ====
section
/-!
DEFINITION. Exact reduction: addends, accumulator entries, residues, finishing and partials
(spec/03_exact_reduction.md R52 to R69, R464).
-/

namespace Sys2Proof.Machine

/-- A converted addend (R56): a special value, or an exact integer in units of 2^F. -/
inductive Addend2 where
  | nan
  | inf (neg : Bool)
  | finite (a : BitVec 192) (belowFloor : Bool)
  | specials (pos neg nan : Bool)
  deriving DecidableEq, Repr

/-- The residue of a 192-bit two's complement value modulo 255 (R63): the sum of its bytes, less 1
for a negative value. -/
def residueOf (v : BitVec 192) : BitVec 8 :=
  BitVec.ofNat 8 ((v.toNat + if v.msb then 254 else 0) % 255)

/-- The sum of two residues modulo 255. -/
def residueAdd (a b : BitVec 8) : BitVec 8 := BitVec.ofNat 8 ((a.toNat + b.toNat) % 255)

/-- A binary32 addend of a floating-point group with span floor `floor` and fan-in log `g` (R56). -/
def addendF32 (floor : Int) (g : Nat) (x : Word) : Addend2 :=
  let s := bit x 31
  let e := fld x 23 8
  let m := fld x 0 23
  if e = 255 ∧ m ≠ 0 then .nan
  else if e = 255 then .inf s
  else
    let sig := if e = 0 then m else m + 0x800000
    let p : Int := if e = 0 then -149 else (e : Int) - 150
    if sig ≠ 0 ∧ p + sig.log2 ≥ floor + 190 - g then .inf s
    else
      let sh := (floor - p).toNat
      let mag : Nat := if p ≥ floor then sig * 2 ^ (p - floor).toNat else sig / 2 ^ sh
      let bf := decide (p < floor) && sig % 2 ^ sh != 0
      .finite (BitVec.ofInt 192 (if s then -(mag : Int) else mag)) bf

/-- An INT32 addend (R57). -/
def addendI32 (x : Word) : Addend2 := .finite (x.signExtend 192) false

/-- A Class T partial element as an addend (R67, R68). -/
def addendExact (w : BitVec 192) : Addend2 :=
  if bits w.toNat 190 2 = 1 then .specials (w.getLsbD 0) (w.getLsbD 1) (w.getLsbD 2)
  else .finite w false

/-- A Class T partial element that R68 drops. -/
def malformedPartial (w : BitVec 192) : Bool :=
  let t := bits w.toNat 190 2
  t == 2 || (t == 1 && (bits w.toNat 3 187 != 0 || bits w.toNat 0 3 == 0))

/-- The addend that a queued code stands for, in a group's arithmetic. -/
def addendOf (g : Group) : AddendCode → Addend2
  | .f32 x => addendF32 g.floor g.fanin x
  | .i32 x => addendI32 x
  | .exact w => addendExact w

/-- Adds a converted addend into an entry (R58, R68). -/
def accumulate (e : Entry) : Addend2 → Entry
  | .nan => { e with nan := true, count := e.count + 1 }
  | .inf false => { e with posInf := true, count := e.count + 1 }
  | .inf true => { e with negInf := true, count := e.count + 1 }
  | .finite a bf =>
    { e with acc := e.acc + a, residue := residueAdd e.residue (residueOf a),
             belowFloor := e.belowFloor || bf, count := e.count + 1 }
  | .specials p n q =>
    { e with posInf := e.posInf || p, negInf := e.negInf || n, nan := e.nan || q, count := e.count + 1 }

/-- The residue test of R64. -/
def Entry.residueOk (e : Entry) : Bool := residueOf e.acc == e.residue

/-- An entry with no special flag whose sum has left the range (R464). -/
def Entry.wrapped (e : Entry) : Bool :=
  !(e.posInf || e.negInf || e.nan) && (e.acc.getLsbD 191 != e.acc.getLsbD 190)

/-- The value of an entry, and whether a NaN was made (R59). -/
def Entry.value (e : Entry) (floor : Int) : Num × Bool :=
  if e.nan then (.nan, false)
  else if e.posInf ∧ e.negInf then (.nan, true)
  else if e.posInf then (.inf false, false)
  else if e.negInf then (.inf true, false)
  else
    let v := e.acc.toInt
    (.fin (decide (v < 0)) v.natAbs (if e.intMode then 0 else floor), false)

/-- An entry finished through a descriptor (R59): the code and the conditions. -/
def Entry.finish (e : Entry) (floor : Int) (d : Descriptor) : Nat × Cond :=
  let (x, made) := e.value floor
  let (c, k) := convert d .rne true x
  (c, { k with invalid := k.invalid || made })

/-- The INT64 result form of an integer-mode entry (R60). -/
def Entry.finish64 (e : Entry) : Nat := e.acc.toNat % 2 ^ 64

/-- The six words of a Class T partial (R67), as one 192-bit value. -/
def Entry.partialT (e : Entry) : BitVec 192 :=
  if e.posInf || e.negInf || e.nan then
    BitVec.ofNat 192 (2 ^ 190 + e.posInf.toNat + 2 * e.negInf.toNat + 4 * e.nan.toNat)
  else e.acc

/-- A Class P partial element (R69): binary32, or INT32 for an integer-mode group. -/
def Entry.partialP (e : Entry) (floor : Int) : Nat × Cond :=
  let (x, made) := e.value floor
  let (c, k) := roundTo (if e.intMode then 0x8 else 0x0) .rne true x
  (c, { k with invalid := k.invalid || made })

/-- The entry of a chunk right after admission (R52). -/
def freshEntry (intMode isPartial : Bool) (slot : Nat) (chunk : Nat) : Entry :=
  { intMode := intMode, isPartial := isPartial, jobSlot := BitVec.ofNat 10 slot, chunkSeq := BitVec.ofNat 16 chunk }

end Sys2Proof.Machine
end

