-- ==== Sys2Proof/Machine/Operands.lean ====
section
/-!
DEFINITION. The operand forms: frames and their IP and UDP headers (spec/08_switch_core.md
R209 to R212), LFP messages (spec/04_collectives.md R94 to R97), flow-control frames (R225) and
the operand words of long commands (spec/12_control_plane.md R353).
-/

namespace Sys2Proof.Machine

/-! ### LFP headers -/

/-- The header of a message as 32 bytes (R95). -/
def LfpHeader.bytes (h : LfpHeader) : List Byte :=
  [BitVec.ofNat 8 (h.version % 16 * 16 + h.type % 16), BitVec.ofNat 8 (h.tc % 8 * 32 + h.flags % 32)] ++
  beBytes 2 h.job ++ beBytes 3 (h.group % 4096 * 4096 + h.member % 4096) ++
  [BitVec.ofNat 8 (h.format % 16 * 16 + h.cls % 4 * 4)] ++ beBytes 4 h.step ++ beBytes 3 h.chunk ++
  beBytes 1 h.attempt ++ beBytes 4 h.elemOffset ++ beBytes 2 h.count ++ List.replicate 10 0

/-- The header that 32 bytes spell; reserved bits are ignored (R95). -/
def LfpHeader.parse (b : List Byte) : LfpHeader :=
  let b0 := beAt b 0 1
  let b1 := beAt b 1 1
  let gm := beAt b 4 3
  let b7 := beAt b 7 1
  { version := bits b0 4 4, type := bits b0 0 4, tc := bits b1 5 3, flags := bits b1 0 4,
    job := beAt b 2 2, group := bits gm 12 12, member := bits gm 0 12, format := bits b7 4 4,
    cls := bits b7 2 2, step := beAt b 8 4, chunk := beAt b 12 3, attempt := beAt b 15 1,
    elemOffset := beAt b 16 4, count := beAt b 20 2 }

/-- Every field of a header fits its bits (R95). -/
def LfpHeader.fits (h : LfpHeader) : Bool :=
  h.version < 16 && h.type < 16 && h.tc < 8 && h.flags < 16 && h.job < 2 ^ 16 && h.group < 4096 &&
  h.member < 4096 && h.format < 16 && h.cls < 4 && h.step < 2 ^ 32 && h.chunk < 2 ^ 24 &&
  h.attempt < 256 && h.elemOffset < 2 ^ 32 && h.count < 2 ^ 16

/-- Header flags of R95. -/
def LfpHeader.belowFloor (h : LfpHeader) : Bool := h.flags.testBit 0
/-- Header flag `seal` (R95). -/
def LfpHeader.seal (h : LfpHeader) : Bool := h.flags.testBit 1
/-- Header flag `open` (R95). -/
def LfpHeader.opens (h : LfpHeader) : Bool := h.flags.testBit 2
/-- Header flag `abandon` (R95). -/
def LfpHeader.abandon (h : LfpHeader) : Bool := h.flags.testBit 3

/-- Traffic class of a message type (R96); none for a reserved type. -/
def typeTc (type : Nat) : Option Nat := ([2, 2, 3, 3, 3, 1, 1, 4, 4, 5, 0, 0] : List Nat)[type]?

/-- The UDP payload of a message: header, payload, CRC-32C least significant byte first (R94). -/
def lfpBytes (h : LfpHeader) (payload : List Byte) : List Byte :=
  let m := h.bytes ++ payload
  m ++ leBytes 4 (crc32c m).toNat

/-- The checks of R97 in order: 0 for a pass, else the number of the first that fails. Bytes of the header that are
missing count as 0. -/
def lfpCheck (udpLen : Nat) (data : List Byte) : Nat :=
  let h := LfpHeader.parse (data ++ List.replicate (32 - data.length) 0)
  let size := storedSize h.format h.count
  if h.version ≠ 1 ∨ typeTc h.type ≠ some h.tc ∨ h.format = 0xF then 1
  else if udpLen ≠ 36 + size ∨ data.length ≠ udpLen ∨ size > 8192 then 2
  else if crc32c (data.take (udpLen - 4)) ≠ word (leAt data (udpLen - 4) 4) then 3
  else 0

/-- The payload of a message. -/
def lfpPayload (data : List Byte) : List Byte := (data.drop 32).take (data.length - 36)

/-! ### Frames -/

/-- A frame of the forms of R209, its VLAN tag removed: addresses, hop limit, DSCP and ECN bits,
protocol, UDP or TCP ports, length without the FCS by the IP header (R231), UDP length, checksum and data. -/
structure WireFrame where
  bytes : List Byte
  v6 : Bool
  dest : Nat
  src : Nat
  hop : Nat
  dscp : Nat
  proto : Nat
  sport : Nat
  dport : Nat
  ipLen : Nat
  udpLen : Nat
  udpSum : Nat
  data : List Byte
  deriving DecidableEq, Repr

/-- A frame without its IEEE 802.1Q tag (R209). -/
def untag (b : List Byte) : List Byte := if beAt b 12 2 = 0x8100 then b.take 12 ++ b.drop 16 else b

/-- Sum of the 16-bit big-endian words of bytes. -/
def sum16 : List Byte → Nat
  | a :: b :: t => a.toNat * 256 + b.toNat + sum16 t
  | [a] => a.toNat * 256
  | [] => 0

/-- A sum folded to 16 bits with end-around carry. -/
def fold16 (x : Nat) : Nat := if x = 0 then 0 else (x - 1) % 0xFFFF + 1

/-- The Internet checksum of bytes. -/
def inetSum (b : List Byte) : Nat := 0xFFFF - fold16 (sum16 b)

/-- The IPv6 or IPv4 pseudo-header sum of a UDP datagram. -/
def pseudoSum (v6 : Bool) (src dst : Nat) (len : Nat) : Nat :=
  let n := if v6 then 16 else 4
  sum16 (beBytes n src ++ beBytes n dst) + len + 17

/-- The frame in the forms of R209, or none where it has none of them. -/
def parseFrame (raw : List Byte) : Option WireFrame :=
  let b := untag raw
  let et := beAt b 12 2
  if raw.length + 4 > 9216 then none
  else if et = 0x86DD then
    let proto := beAt b 20 1
    let l4 := b.drop 54
    if b.length < 54 + 8 ∨ bits (beAt b 14 1) 4 4 ≠ 6 ∨ (proto ≠ 17 ∧ proto ≠ 6) then none
    else
      some { bytes := b, v6 := true, dest := beAt b 38 16, src := beAt b 22 16, hop := beAt b 21 1,
             dscp := bits (beAt b 14 2) 4 8, proto := proto, sport := beAt l4 0 2, dport := beAt l4 2 2, ipLen := 54 + beAt b 18 2,
             udpLen := beAt l4 4 2, udpSum := beAt l4 6 2, data := (l4.drop 8).take (beAt l4 4 2 - 8) }
  else if et = 0x0800 then
    let proto := beAt b 23 1
    let l4 := b.drop 34
    if b.length < 34 + 8 ∨ beAt b 14 1 ≠ 0x45 ∨ (proto ≠ 17 ∧ proto ≠ 6) ∨
        inetSum (slice b 14 20) ≠ 0 ∨ bits (beAt b 20 2) 13 1 ≠ 0 ∨ bits (beAt b 20 2) 0 13 ≠ 0 then none
    else
      some { bytes := b, v6 := false, dest := beAt b 30 4, src := beAt b 26 4, hop := beAt b 22 1,
             dscp := beAt b 15 1, proto := proto, sport := beAt l4 0 2, dport := beAt l4 2 2, ipLen := 14 + beAt b 16 2,
             udpLen := beAt l4 4 2, udpSum := beAt l4 6 2, data := (l4.drop 8).take (beAt l4 4 2 - 8) }
  else none

/-- The endpoint identifier of a frame (R210). -/
def WireFrame.id (f : WireFrame) : Nat := f.dest % 2 ^ 24

/-- The VC that a frame carries: bit 1 of its DSCP (R211). `dscp` holds the whole byte, ECN included. -/
def WireFrame.vcBit (f : WireFrame) : Nat := bits f.dscp 3 1

/-- A nonzero UDP checksum verifies (R94). -/
def WireFrame.sumOk (f : WireFrame) : Bool :=
  f.udpSum == 0 ||
  fold16 (pseudoSum f.v6 f.src f.dest f.udpLen +
    sum16 (beBytes 2 f.sport ++ beBytes 2 f.dport ++ beBytes 2 f.udpLen ++ beBytes 2 f.udpSum ++ f.data)) == 0xFFFF

/-- The IPv4 header checksum of a frame written anew. -/
def fixSum4 (b : List Byte) : List Byte :=
  let b := patch b 24 [0, 0]
  patch b 24 (beBytes 2 (inetSum (slice b 14 20)))

/-- A frame with its hop limit or TTL one lower (R212). -/
def decHop (f : WireFrame) : List Byte :=
  if f.v6 then patch f.bytes 21 (beBytes 1 (f.hop - 1))
  else fixSum4 (patch f.bytes 22 (beBytes 1 (f.hop - 1)))

/-- A frame with DSCP = 0x20 + 4 * tc + 2 * vc, its ECN bits unchanged (R211). -/
def setDscp (b : List Byte) (tc vc : Nat) : List Byte :=
  let d := 0x20 + 4 * tc + 2 * vc
  if beAt b 12 2 = 0x86DD then
    let w := beAt b 14 2
    patch b 14 (beBytes 2 (bits w 12 4 * 2 ^ 12 + d * 2 ^ 6 + bits w 4 2 * 2 ^ 4 + bits w 0 4))
  else fixSum4 (patch b 15 (beBytes 1 (d * 4 + bits (beAt b 15 1) 0 2)))

/-- A frame with the MAC addresses of an egress port (R212). -/
def setMacs (b : List Byte) (dst src : Nat) : List Byte := patch b 0 (beBytes 6 dst ++ beBytes 6 src)

/-- A frame with another endpoint identifier in its destination address, and over IPv6 the UDP checksum
computed anew (R236). -/
def setDest (b : List Byte) (id : Nat) : List Byte :=
  if beAt b 12 2 = 0x86DD then
    let b := patch (patch b 51 (beBytes 3 id)) 60 [0, 0]
    let udp := b.drop 54
    let x := fold16 (pseudoSum true (beAt b 22 16) (beAt b 38 16) (beAt b 58 2) + sum16 udp)
    patch b 60 (beBytes 2 (if x = 0xFFFF then 0xFFFF else 0xFFFF - x))
  else fixSum4 (patch b 31 (beBytes 3 id))

/-- A frame around a UDP payload from the module: MAC addresses and destination identifier are written
at egress (R94, R210, R236). -/
def ipFrame (v6 : Bool) (prefix6 prefix4 own tc vc sport dport : Nat) (data : List Byte) : List Byte :=
  let udp := beBytes 2 sport ++ beBytes 2 dport ++ beBytes 2 (8 + data.length) ++ [0, 0] ++ data
  let d := 0x20 + 4 * tc + 2 * vc
  if v6 then
    List.replicate 12 0 ++ beBytes 2 0x86DD ++ beBytes 4 (6 * 2 ^ 28 + d * 2 ^ 22) ++
      beBytes 2 udp.length ++ [17, Config.hopLimit] ++
      beBytes 16 (prefix6 * 2 ^ 24 + own) ++ beBytes 16 (prefix6 * 2 ^ 24) ++ udp
  else
    fixSum4 (List.replicate 12 0 ++ beBytes 2 0x0800 ++ [0x45] ++ beBytes 1 (d * 4) ++
      beBytes 2 (20 + udp.length) ++ beBytes 2 0 ++ beBytes 2 0 ++ [Config.hopLimit, 17] ++ [0, 0] ++
      beBytes 4 (prefix4 * 2 ^ 24 + own) ++ beBytes 4 (prefix4 * 2 ^ 24) ++ udp)

/-- Cells of a frame whose bytes are counted without the FCS (R231). -/
def cellsOf (n : Nat) : Nat := (n + 4 + 255) / 256

/-! ### Flow-control frames (R225) -/

/-- A received flow-control frame: class and VC pairs with the timer that each carries. -/
def parseCvfc (b : List Byte) : List (Nat × Nat × Nat) :=
  let en := beAt b 16 2
  (List.range 16).filterMap fun i =>
    if en.testBit i then some (i / 2, i % 2, beAt b (18 + 2 * i) 2) else none

/-- A received PFC frame (IEEE 802.1Qbb): classes with the timer that each carries. -/
def parsePfc (b : List Byte) : List (Nat × Nat) :=
  let en := beAt b 16 2
  (List.range 8).filterMap fun i => if en.testBit i then some (i, beAt b (18 + 2 * i) 2) else none

/-- The per-class-and-VC flow-control frame that sets one timer (R225), without the FCS. -/
def cvfcFrame (dst src tc vc time : Nat) : List Byte :=
  beBytes 6 dst ++ beBytes 6 src ++ beBytes 2 0x88B6 ++ beBytes 2 1 ++ beBytes 2 (2 ^ (2 * tc + vc)) ++
    (List.range 16).flatMap (fun i => beBytes 2 (if i = 2 * tc + vc then time else 0)) ++ List.replicate 10 0

/-- The PFC frame that sets one timer (IEEE 802.1Qbb), without the FCS. -/
def pfcFrame (src tc time : Nat) : List Byte :=
  beBytes 6 0x0180C2000001 ++ beBytes 6 src ++ beBytes 2 0x8808 ++ beBytes 2 0x0101 ++ beBytes 2 (2 ^ tc) ++
    (List.range 8).flatMap (fun i => beBytes 2 (if i = tc then time else 0)) ++ List.replicate 26 0

/-- The frame is a per-class-and-VC flow-control frame of R225. -/
def isCvfc (b : List Byte) : Bool := beAt b 12 2 == 0x88B6 && beAt b 14 2 == 1

/-- The frame is a PFC frame: MAC control with opcode 0x0101. -/
def isPfc (b : List Byte) : Bool := beAt b 12 2 == 0x8808 && beAt b 14 2 == 0x0101

/-- The EtherTypes that the MAC consumes (R209). -/
def isFlowControl (b : List Byte) : Bool := beAt b 12 2 == 0x8808 || beAt b 12 2 == 0x88B6

/-! ### Operands of long commands (R353) -/

/-- Operand word `i`. -/
def opw (ops : List Word) (i : Nat) : Nat := (ops.getD i 0).toNat

/-- The 64-bit operand in words `i` and `i + 1`, low word first. -/
def opd (ops : List Word) (i : Nat) : Nat := opw ops i + 2 ^ 32 * opw ops (i + 1)

end Sys2Proof.Machine
end

