-- ==== Sys2Proof/Machine/Telemetry.lean ====
section
/-!
DEFINITION. The telemetry streams (spec/12_control_plane.md R366, R367).
-/

namespace Sys2Proof.Machine

/-- A register that the block itself counts or times: a free value at each time, which a fence stops
(notes/assumptions/48.md). -/
def State.measured (s : State) (pg off sel : Nat) : Nat :=
  Config.measured (rkey pg off sel) (if s.frozen pg then 0 else s.now)

/-- Performance counter `k` of a page counts cycles (R460, codes 1 to 3). -/
def State.countsCycles (s : State) (pg k : Nat) : Bool :=
  let c := s.rfld pg (Off.BLK_PERF_SEL0 + 4 * k) 0 16
  decide (1 ≤ c ∧ c ≤ 3)

/-- Word `h` of performance counter `k` of a page, as it reads and as a strobe latches it (R275, R460). -/
def State.perfWord (s : State) (pg k h : Nat) : Word :=
  let off := Off.BLK_PERF_CNT + 8 * k + 4 * h
  if s.countsCycles pg k then word (s.measured pg off 0) else s.reg pg off

/-- The 24-byte header of a TELEMETRY body (R367). -/
def telHeader (stream region frag nfrag nrec tseq : Nat) (angle : Angle) (turn : Word) : List Byte :=
  leBytes 1 stream ++ leBytes 1 region ++ leBytes 2 frag ++ leBytes 2 nfrag ++ leBytes 2 nrec ++
  leBytes 4 tseq ++ leBytes 4 angle.toNat ++ leBytes 4 turn.toNat ++ leBytes 4 0

/-- A session receives a telemetry stream. -/
def Session.receives (x : Session) (stream : Nat) : Bool :=
  match stream with | 1 => x.telPerf | 2 => x.telCmap | _ => x.telMirror

/-- One TELEMETRY message of a stream to a session slot. -/
def State.telMessage (s : State) (i stream region frag nfrag : Nat) (angle : Angle) (turn : Word)
    (recs : List (List Byte)) : State :=
  let x := s.sess i
  let n := x.tseq.look 0 stream
  let s := s.modSess i fun y => { y with tseq := y.tseq.put 0 stream (n + 1) }
  s.send i 0x9 0 (x.ret x.lastNet.toNat) (telHeader stream region frag nfrag recs.length n angle turn ++ recs.flatten)

/-- A message of an earlier strobe or export of a stream waits still. -/
def staleTel (stream : Nat) (angle : Angle) (turn : Word) : Emission → Bool
  | .ralow m => m.kind == 9 && leAt m.body 0 1 == stream &&
      (leAt m.body 12 4 != angle.toNat || leAt m.body 16 4 != turn.toNat)
  | _ => false

/-- What could not be sent before the next strobe or export of its stream is discarded and counted (R367). -/
def State.dropStale (s : State) (stream : Nat) (angle : Angle) (turn : Word) : State :=
  let n := (s.held.filter (staleTel stream angle turn)).length
  if stream = 3 ∨ n = 0 then s
  else ({ s with held := s.held.filter fun e => !staleTel stream angle turn e }).bump pgMgt Off.MGT_TEL_LOST 0 n

/-- The records of one strobe, export or mirror copy go to every session that receives the stream:
whole records, at most 8,168 bytes in a message (R336, R367). -/
def State.telemetry (s : State) (stream region : Nat) (angle : Angle) (turn : Word)
    (recs : List (List Byte)) : State :=
  let per := max 1 (8168 / max 1 (recs.headD []).length)
  let msgs := chunksOf per recs.length recs
  let nfrag := if stream = 3 then 0 else msgs.length
  let s := s.dropStale stream angle turn
  s.openSessions.foldl (fun s i =>
    if (s.sess i).receives stream then
      (msgs.foldl (fun (p : Nat × State) m =>
        (p.1 + 1, p.2.telMessage i stream region p.1 nfrag angle turn m)) (0, s)).2
    else s) s

end Sys2Proof.Machine
end

