-- ==== Sys2Proof/Machine/Switch.lean ====
section
/-!
DEFINITION. The switch: forwarding tables and path choice (spec/08_switch_core.md R213 to
R222), the packet buffer and the egress queues (R230, R231, R235, R236), flow control
(R225, R226), mirroring (R237) and the ingress judgement of R466.

The shadow bank is the register file behind page `pgSwc 0`; the active bank is
`Switch.active`, keyed as the register file is. The live weights are `SWC_PS_WEIGHT` there.
-/

namespace Sys2Proof.Machine

/-! ### The two banks (R213 to R216) -/

/-- A bank, read by register offset and selector. -/
abbrev BankFn := Nat → Nat → Word

/-- The shadow bank. -/
def State.shadow (s : State) : BankFn := fun off sel => s.reg (pgSwc 0) off sel

/-- The active bank. -/
def State.activeBank (s : State) : BankFn := fun off sel =>
  s.sw.active.look (resetWord (pgSwc 0) off sel) (rkey (pgSwc 0) off sel)

/-- The exact-match set of an identifier (R214). -/
def emSet (dest : Nat) : Nat := (dest * 0x9E3779B1 % 2 ^ 32) >>> 19

/-- The entry that an identifier hits: its register and index, and the path set it names. -/
structure Hit where
  off : Nat
  index : Nat
  pset : Option Nat
  deriving DecidableEq, Repr

/-- The lookup of R214 and R215 in a bank; `pset` is none where the route entry is invalid. -/
def lookupIn (b : BankFn) (shift dest : Nat) : Hit :=
  let hit (e : Nat) : Bool := bit (b Off.SWC_EM_KEY e) 31 && fld (b Off.SWC_EM_KEY e) 0 24 == dest
  match leastBelow 4 fun w => hit (4 * emSet dest + w) with
  | some w =>
    let e := 4 * emSet dest + w
    { off := Off.SWC_EM_KEY, index := e, pset := some (fld (b Off.SWC_EM_PSET e) 0 12) }
  | none =>
    let e := (dest >>> shift) % 0x4000
    let d := b Off.SWC_RT_DATA e
    { off := Off.SWC_RT_DATA, index := e, pset := if bit d 31 then some (fld d 0 12) else none }

/-- A member of a path set: port, weight bounds, valid. -/
structure PsMember where
  port : Nat
  wmin : Nat
  wmax : Nat
  valid : Bool
  deriving DecidableEq, Repr

/-- The selector of member `m` of path set `ps`. -/
def psSel (ps m : Nat) : Nat := ps + m * 4096

/-- Member `m` of path set `ps` in a bank. -/
def memberIn (b : BankFn) (ps m : Nat) : PsMember :=
  let d := b Off.SWC_PS_DATA (psSel ps m)
  { port := fld d 0 9, wmin := fld d 9 4, wmax := fld d 13 4, valid := bit d 31 }

/-- The live weight of a member, clamped to its bounds (R216). -/
def State.weight (s : State) (ps m : Nat) (x : PsMember) : Nat :=
  clampNat x.wmin x.wmax (s.rfld (pgSwc 0) Off.SWC_PS_WEIGHT 0 4 (psSel ps m))

/-- Attributes of a port: role, dimension, dateline (R219). -/
structure PortAttr where
  role : Nat
  dim : Nat
  dateline : Bool
  deriving DecidableEq, Repr

/-- Attributes of a port in a bank. -/
def attrIn (b : BankFn) (p : Nat) : PortAttr :=
  let d := b Off.SWC_PORT_ATTR p
  { role := fld d 0 3, dim := fld d 3 2, dateline := bit d 5 }

/-- Active attributes of a port. -/
def State.attr (s : State) (p : Nat) : PortAttr := attrIn s.activeBank p

/-- The attributes of the arrival of a frame that the module originates (R219). -/
def edgeAttr : PortAttr := { role := 1, dim := 0, dateline := false }

/-- The role is that of a port with a dimension. -/
def PortAttr.isDim (a : PortAttr) : Bool := a.role == 4 || a.role == 5

/-- The VC on leaving by a port with attributes `o` of a frame that arrived on a port with attributes
`a` and on VC `vc`, or none where the routing mode does not permit the turn (R220, R221). -/
def turnVc (mode : Nat) (a : PortAttr) (vc : Nat) (o : PortAttr) : Option Nat :=
  if mode = 0 then
    match a.role with
    | 1 | 2 => if o.role = 1 ∨ o.role = 2 ∨ o.role = 3 then some 0 else none
    | 3 => if o.role = 1 ∨ o.role = 2 then some 0 else none
    | _ => none
  else if a.role = 1 then
    if o.role = 1 then some 0 else if o.isDim then some o.dateline.toNat else none
  else if a.isDim then
    if o.role = 1 then some 0
    else if !o.isDim then none
    else if o.dim > a.dim then some o.dateline.toNat
    else if o.dim = a.dim ∧ o.role ≠ a.role then some (if o.dateline then 1 else vc)
    else none
  else none

/-- The VC on which a frame arrived (R211). -/
def State.arrivalVc (s : State) (p : Nat) (f : WireFrame) : Nat :=
  match (s.attr p).role with
  | 2 | 3 | 4 | 5 => f.vcBit
  | _ => 0

/-- Port `p` is up and its region is not fenced. -/
def State.portUp (s : State) (p : Nat) : Bool := (s.port p).st == .up && !s.isFenced (portRegion p)

/-- Depth in cells of the egress queue of a class and VC. -/
def FabPort.depth (x : FabPort) (tc vc : Nat) : Nat :=
  (x.egress.look [] (tc * 2 + vc)).foldl (fun n d => n + d.cells) 0

/-! ### Path choice (R216 to R218) -/

/-- A candidate: member index, port, VC on leaving, cost. -/
structure Cand where
  m : Nat
  port : Nat
  vc : Nat
  cost : Nat
  deriving DecidableEq, Repr

/-- What a lookup and path choice answer. -/
inductive Path where
  | via (port : Nat) (vc : Nat)
  | noRoute
  | noPath
  | turn
  | fenced
  deriving DecidableEq, Repr

/-- The members of a path set that pass the tests of R216 other than the turn. -/
def State.liveMembers (s : State) (ps : Nat) : List (Nat × PsMember × Nat) :=
  (List.range 16).filterMap fun m =>
    let x := memberIn s.activeBank ps m
    let w := s.weight ps m x
    if x.valid ∧ w ≠ 0 ∧ s.portUp x.port then some (m, x, w) else none

/-- The candidates of R216 with their costs of R217. -/
def State.candidates (s : State) (ps tc : Nat) (a : PortAttr) (vc : Nat) : List Cand :=
  (s.liveMembers ps).filterMap fun (m, x, w) =>
    match turnVc s.sw.actMode a vc (s.attr x.port) with
    | some v => some { m := m, port := x.port, vc := v, cost := ((s.port x.port).depth tc v + 1) * (16 - w) }
    | none => none

/-- The choice of R217 among candidates: the least cost, and on a tie the first tied member at or after
the rotating pointer, which moves past it. -/
def pick (cs : List Cand) (rot : Nat) : Option (Cand × Nat) :=
  match cs with
  | [] => none
  | c :: t =>
    let low := t.foldl (fun n x => min n x.cost) c.cost
    let tied := cs.filter fun x => x.cost == low
    match tied with
    | [x] => some (x, rot)
    | _ =>
      match (tied.find? fun x => x.m ≥ rot).or tied.head? with
      | some x => some (x, (x.m + 1) % 16)
      | none => none

/-- The flowlet entry of a flow in a region (R218). -/
def flowKey (r tc : Nat) (f : List Byte) : Nat := r * 4096 + Config.flowHash (f ++ [BitVec.ofNat 8 tc]) % 4096

/-- What a lookup in the tables of region `r` comes to, where it comes to `x` without errors: a corrected word is
counted and stands corrected; an uncorrectable one raises `table_ue`, and the frame goes with the region (R14, R242,
notes/assumptions/117.md). -/
def State.lookingUp (s : State) (r : Nat) (x : Path × State) : Path × State :=
  match s.sw.tblErr.look 0 r with
  | 0 => x
  | 1 =>
    let t := x.2.countCe (pgSwc r)
    (x.1, { t with sw := { t.sw with tblErr := t.sw.tblErr.put 0 r 0 } })
  | _ => (.fenced, (s.countUe (pgSwc r)).raise { pg := pgSwc r, ev := 7, access := 1, akind := 6, syn := s.ueSyndrome (pgSwc r) 0 })

/-- The path of a frame in region `r` for identifier `dest`, class `tc`, arrival attributes and VC; `flow`
holds the bytes that name its flow (R215 to R218). -/
def State.choose (s : State) (r dest tc : Nat) (a : PortAttr) (vc : Nat) (flow : List Byte) : Path × State :=
  s.lookingUp r <| match (lookupIn s.activeBank s.sw.actShift dest).pset with
  | none => (.noRoute, s)
  | some ps =>
    let cs := s.candidates ps tc a vc
    let fk := flowKey r tc flow
    let fe := s.sw.flowlets.look {} fk
    let gap := s.rfld (pgSwc r) Off.SWC_FLOWLET 0 16
    let keep := if tc ≠ 2 ∧ fe.valid ∧ s.now - fe.used < gap then cs.find? fun c => c.port == fe.port else none
    let note (s : State) (p : Nat) : State :=
      if tc = 2 then s
      else { s with sw := { s.sw with flowlets := s.sw.flowlets.put {} fk { port := p, used := s.now, valid := true } } }
    match keep with
    | some c => (.via c.port c.vc, note s c.port)
    | none =>
      let rk := r * 4096 + ps
      match pick cs (s.sw.rotate.look 0 rk) with
      | some (c, rot) =>
        (.via c.port c.vc, note { s with sw := { s.sw with rotate := s.sw.rotate.put 0 rk rot } } c.port)
      | none => (if (s.liveMembers ps).isEmpty then .noPath else .turn, s)

/-! ### The packet buffer (R231, R226, R236) -/

/-- The stored frame with number `b`. -/
def State.buf (s : State) (b : Nat) : Option Buf := s.sw.bufs.look none b

/-- Stores a frame under a new number. -/
def State.addBuf (s : State) (x : Buf) : Nat × State :=
  let n := s.sw.nextBuf
  (n, { s with sw := { s.sw with bufs := s.sw.bufs.put none n (some x), nextBuf := n + 1 } })

/-- Bytes of each share of a block's TC1 buffer on port `p` (R226). -/
def State.tc1Share (s : State) (p : Nat) : Nat := 262144 / (8 / s.portLanes p) / 2

/-- Free bytes of the TC1 share of a port and VC. -/
def State.tc1Free (s : State) (p vc : Nat) : Nat := s.tc1Share p - (s.port p).tc1Used.look 0 vc

/-- Bytes of a frame with its FCS. -/
def Buf.len (x : Buf) : Nat := x.bytes.length + 4

/-- The storage of a frame returns (R234, R226). -/
def State.giveCells (s : State) (x : Buf) : State :=
  match x.req with
  | some q => s.poolGive 0 x.region q x.ptr
  | none =>
    match x.arr with
    | some (p, vc) => s.modPort p fun y => { y with tc1Used := y.tc1Used.upd 0 vc fun n => n - x.claim }
    | none => s

/-- One copy of stored frame `b` is done with; after the last the storage returns (R236). -/
def State.dropRef (s : State) (b : Nat) : State :=
  match s.buf b with
  | none => s
  | some x =>
    if x.refs ≤ 1 then
      { (s.giveCells x) with sw := { (s.giveCells x).sw with bufs := (s.giveCells x).sw.bufs.put none b none } }
    else { s with sw := { s.sw with bufs := s.sw.bufs.put none b (some { x with refs := x.refs - 1 }) } }

/-- The storage of an arriving frame on port `p`, whose IP header gives `len` bytes without the FCS (R231): an allowance,
headroom, or a TC1 share. -/
def State.claimArrival (s : State) (p tc vc : Nat) (bytes : List Byte) (len : Nat) : Option (Buf × State) :=
  let r := portRegion p
  let b : Buf := { bytes := bytes, tc := tc, region := r, arr := some (p, vc), claim := len + 4 }
  if tc = 1 then
    if b.claim ≤ s.tc1Free p vc then
      some (b, s.modPort p fun y => { y with tc1Used := y.tc1Used.upd 0 vc fun n => n + b.claim })
    else none
  else
    let n := cellsOf len
    match s.poolTake 0 r (ingressReq p tc vc) n with
    | some (u, t) => some ({ b with ptr := u, cells := n, req := some (ingressReq p tc vc) }, t)
    | none =>
      if lossy tc then none
      else if s.inUse 0 r (hdrmReq (p % 128)) + n ≤ s.headroom p then
        let (u, t) := s.poolGrab r (hdrmReq (p % 128)) n
        some ({ b with ptr := u, cells := n, req := some (hdrmReq (p % 128)) }, t)
      else none

/-! ### Egress queues (R236) -/

/-- The direction of port `p` wakes from quiet at the first idle block (R299). -/
def State.wakeTx (s : State) (p : Nat) : State :=
  let wake := s.rfld (pgFab (p / 8)) Off.FAB_PORT_SLEEP 16 16 (p % 8)
  if (s.port p).txQuiet then
    (s.modPort p fun x => { x with txQuiet := false, txHoldUntil := s.now + wake }).emit (.idleBlocks p)
  else s

/-- A descriptor whose stored frame lies in region `r`. -/
def State.storedIn (s : State) (r : Nat) (d : Desc) : Bool :=
  match s.buf d.buf with | some b => b.region == r | none => false

/-- The job that the module built stored frame `b` for, where it built it. -/
def State.bufJob (s : State) (b : Nat) : Option Nat := (s.buf b).bind (·.job)

/-- Puts a descriptor into the egress queue of port `p`; a frame for a port that is down or fenced is not
enqueued, and counts in `SWC_DROP_FENCE` of region `r` (R236). -/
def State.enqueue (s : State) (r p vc tc : Nat) (d : Desc) : State :=
  if s.portUp p then
    let from_ := match s.buf d.buf with | some b => b.region | none => portRegion p
    match s.cross from_ (portRegion p) (s.bufJob d.buf) with
    | (true, s) => s.modPort p fun x => { x with egress := x.egress.upd [] (tc * 2 + vc) fun q => q ++ [d] }
    | (false, t) => t.dropRef d.buf
  else (s.dropRef d.buf).dropSwc r Off.SWC_DROP_FENCE (s.bufJob d.buf)

/-- Descriptors queued at or leaving from a port. -/
def FabPort.descs (x : FabPort) : List Desc :=
  x.sending.toList.map (·.1) ++ x.egress.flatMap (fun (kv : Nat × List Desc) => kv.2)

/-- Egress descriptors in use for frames stored in region `r`, and of these the multicast ones (R235). -/
def State.descUsed (s : State) (r : Nat) (multi : Bool) : Nat :=
  s.ports.foldl (fun n kv => n + (kv.2.descs.filter fun d => (!multi || d.multi) && s.storedIn r d).length) 0

/-- Port `p` goes down into a state (R295): what is queued there is dropped, flow control and sleep end, and
so does its calibration window. -/
def State.portDown (s : State) (p : Nat) (st : PortState) : State :=
  let s := (s.port p).descs.foldl (fun s d => (s.dropRef d.buf).bump (pgFab (p / 8)) Off.FAB_DROP_DOWN (p % 8)) s
  let s := s.modPort p fun x =>
    { x with
      st := st
      entered := s.now
      egress := []
      sending := none
      stopsRx := []
      stopsTx := []
      ctlOwed := []
      txQuiet := false
      rxQuiet := false
      heldByPeer := false
      ackOwed := false
      rxReady := 0
      txReady := 0
      gotWord := false
      modeBad := false
      lh := false
      disc := none }
  let w := s.calWin p
  let refused := w.isOpen && w.requests.any fun k => (w.step.map (·.1)) != some k
  let s := if refused then s.bump pgOrb Off.ORB_CAL_SKIP else s
  s.modCal p fun w =>
    { w with
      leads := []
      isOpen := false
      endDue := false
      ack := false
      nextAck := false
      announced := false
      cut := false
      step := none
      exitPending := false }

/-! ### Flow control (R225, R226) -/

/-- Cells that an ingress requester may still take (R226, R231). -/
def State.allowance (s : State) (r req : Nat) : Nat :=
  let (mn, mx, cur) := s.quota 0 r req
  let use := s.inUse 0 r req
  let own := mn - use
  if s.poolLevel 0 r ≥ s.poolThr Off.SWC_POOL_PRESS 0 r then own
  else max own (min (clampNat mn mx cur - use) (own + (s.sharedFree 0 r).toNat))

/-- The requester of a port, class and VC holds headroom cells (R226). -/
def State.holdsHeadroom (s : State) (p tc vc : Nat) : Bool :=
  s.sw.bufs.any fun kv =>
    match kv.2 with
    | some x => x.req == some (hdrmReq (p % 128)) && x.tc == tc && x.arr == some (p, vc)
    | none => false

/-- Whether a stop is called for: some true below the lower threshold, some false above the upper, none
between them (R226). -/
def State.stopTest (s : State) (p tc vc : Nat) : Option Bool :=
  if tc = 1 then
    let low := 64 * s.rfld (pgSwc (portRegion p)) Off.SWC_PORT_HDRM 16 16 p
    let free := s.tc1Free p vc
    if free < low then some true else if free > 2 * low then some false else none
  else
    let a := s.allowance (portRegion p) (ingressReq p tc vc)
    if a < 36 then some true
    else if a ≥ 72 ∧ !s.holdsHeadroom p tc vc then some false else none

/-- A stop of a class and VC that this port has sent is in force. -/
def FabPort.stopped (x : FabPort) (tc vc : Nat) : Bool := x.stopsTx.any fun t => t.tc == tc && t.vc == vc

/-- The MAC address of a peer, and of a port itself (R212). -/
def State.peerMac (s : State) (p : Nat) : Nat :=
  (s.reg (pgSwc (portRegion p)) Off.SWC_PORT_PEER_LO p).toNat + s.rfld (pgSwc (portRegion p)) Off.SWC_PORT_PEER_HI 0 16 p * 2 ^ 32

/-- The MAC address of a fabric port (R212). -/
def State.portMac (s : State) (p : Nat) : Nat :=
  ((s.reg (pgSwc (portRegion p)) Off.SWC_MAC_BASE_LO).toNat + s.rfld (pgSwc (portRegion p)) Off.SWC_MAC_BASE_HI 0 16 * 2 ^ 32 + p) % 2 ^ 48

/-- The flow-control frame of a port for a class and VC: a timer of 0xFFFF while a stop is in force, else 0 (R225). -/
def State.controlFrame (s : State) (p tc vc : Nat) : List Byte :=
  let time := if (s.port p).stopped tc vc then 0xFFFF else 0
  if (s.attr p).role = 1 then pfcFrame (s.portMac p) tc time else cvfcFrame (s.peerMac p) (s.portMac p) tc vc time

/-- The flow-control frames that a port owes leave, where its direction is awake (R299). -/
def State.sendControl (s : State) (p : Nat) : State :=
  if (s.port p).ctlOwed.isEmpty ∨ !s.portUp p ∨ (s.port p).txQuiet ∨ s.now < (s.port p).txHoldUntil then s
  else
    (s.port p).ctlOwed.foldl (fun u x => u.emit (.flowControl p (s.controlFrame p x.1 x.2)))
      (s.modPort p fun x => { x with ctlOwed := [], idleSince := s.now })

/-- Sends a stop, or a resume, of a class and VC. `cal` marks the stop of a calibration lead (R272). A direction in
quiet wakes first, and the frame leaves when it may (R299). -/
def State.sendStop (s : State) (p tc vc : Nat) (on cal : Bool) : State :=
  let others := (s.port p).stopsTx.filter fun t => !(t.tc == tc && t.vc == vc)
  let mine : List StopTx := if on then [{ tc := tc, vc := vc, at_ := s.now, cal := cal }] else []
  ((s.wakeTx p).modPort p fun x =>
    { x with stopsTx := others ++ mine, ctlOwed := x.ctlOwed.erase (tc, vc) ++ [(tc, vc)] }).sendControl p

/-- The port's VCs that flow control names: on an edge port PFC knows classes only, and a disabled role sends none. -/
def State.flowVcs (s : State) (p : Nat) : List Nat :=
  match (s.attr p).role with
  | 1 => [0]
  | 2 | 3 | 4 | 5 => [0, 1]
  | _ => []

/-- One class and VC of a port: a stop or a resume leaves where R226 calls for it. A stop of a calibration
lead stays until its window ends (R272). -/
def State.flowStep (s : State) (p tc vc : Nat) : State :=
  let x := s.port p
  let cal := x.stopsTx.any fun t => t.tc == tc && t.vc == vc && t.cal
  match s.stopTest p tc vc with
  | some true => if x.stopped tc vc then s else s.sendStop p tc vc true false
  | some false => if x.stopped tc vc ∧ !cal then s.sendStop p tc vc false false else s
  | none => s

/-- The thresholds of R226 on every port that is up. -/
def State.watchFlow (s : State) : State :=
  (s.ports.filter fun kv => s.portUp kv.1).foldl (fun s kv =>
    ([1, 2, 3, 4, 5, 6].foldl (fun s tc => (s.flowVcs kv.1).foldl (fun s vc => s.flowStep kv.1 tc vc) s) s).sendControl kv.1) s

/-! ### Mirroring (R237) -/

/-- Bytes of the mirror buffer of a region (R237). -/
abbrev mirrorBytes : Nat := 65536

/-- Counts a frame of a class of a port and mirrors every Nth. How many bytes the management complex has taken from
the buffer since the last copy is a free value, since no rule gives the rate (notes/assumptions/118.md). -/
def State.mirrorFrame (s : State) (p tc vc : Nat) (raw : List Byte) (dropped : Bool) : State :=
  let cfg := s.reg (pgSwc (portRegion p)) Off.SWC_MIR_CFG (p + 512 * tc)
  let n := fld cfg 0 16
  if n = 0 ∨ (dropped ∧ !bit cfg 16) then s
  else
    let k := s.sw.mirror.look 0 (p * 8 + tc) + 1
    if k < n then { s with sw := { s.sw with mirror := s.sw.mirror.put 0 (p * 8 + tc) k } }
    else
      let s := { s with sw := { s.sw with mirror := s.sw.mirror.put 0 (p * 8 + tc) 0 } }
      let r := portRegion p
      let (taken, s) := s.fresh
      let held := s.sw.mirHeld.look 0 r - taken
      let full := decide (mirrorBytes < held + 16 + min 128 raw.length)
      let s := { s with sw := { s.sw with mirHeld := s.sw.mirHeld.put 0 r (if full then held else held + 16 + min 128 raw.length) } }
      if full then s.bump (pgSwc r) Off.SWC_MIR_LOST p else
      let (num, s) := if dropped then s.fresh else (0, s)
      let pre := leBytes 2 p ++ leBytes 1 (tc * 2 + vc) ++ leBytes 1 num ++ leBytes 4 s.angle.toNat ++
        leBytes 2 (raw.length + 4) ++ List.replicate 6 0
      s.telemetry 3 r 0 s.orb.turn [padTo 144 (pre ++ raw.take 128)]

/-! ### Ingress (R466) -/

/-- What a port block makes of an arriving frame: nothing (the port takes no frames), a drop, a
flow-control frame for the MAC, or a frame that passed, with its class, VC and storage. -/
inductive Ingress where
  | ignored
  | lost (t : State)
  | control
  | passed (t : State) (f : WireFrame) (tc vc : Nat) (b : Buf)
  deriving Repr

/-- The own endpoint identifier (R212), once the position is written. -/
def State.ownId (s : State) : Option Nat :=
  if s.rbit pgMgt Off.MGT_POSITION 31 then some (s.rfld pgMgt Off.MGT_POSITION 0 24) else none

/-- A counter of a port in its block's page. -/
def State.bumpPort (s : State) (p off : Nat) : State := s.bump (pgFab (p / 8)) off (p % 8)

/-- The fabric prefix of a region: IPv6 bits [127:24]. -/
def State.prefix6 (s : State) (r : Nat) : Nat :=
  ((s.reg (pgSwc r) Off.SWC_FAB_V6_0).toNat * 2 ^ 64 + (s.reg (pgSwc r) Off.SWC_FAB_V6_1).toNat * 2 ^ 32 +
    (s.reg (pgSwc r) Off.SWC_FAB_V6_2).toNat) * 2 ^ 8 + s.rfld (pgSwc r) Off.SWC_FAB_V6_3 0 8

/-- The IPv4 fabric prefix of a region. -/
def State.prefix4 (s : State) (r : Nat) : Nat := s.rfld (pgSwc r) Off.SWC_FAB_V4 0 8

/-- The prefix test of R210. -/
def State.prefixOk (s : State) (r : Nat) (f : WireFrame) : Bool :=
  f.dest / 2 ^ 24 == (if f.v6 then s.prefix6 r else s.prefix4 r)

/-- What a UDP frame is by its destination port (R211, R445). -/
inductive FrmKind where
  | discover
  | lfp
  | maintenance
  | other
  deriving DecidableEq, Repr

/-- The kind of a frame in region `r`. -/
def State.frmKind (s : State) (r : Nat) (f : WireFrame) : FrmKind :=
  let lfp := s.rfld (pgSwc r) Off.SWC_LFP_UDP_PORT 0 16
  if f.proto ≠ 17 then .other
  else if f.dport = lfp then (if bits (beAt f.data 0 1) 0 4 = 0xB then .discover else .lfp)
  else if f.dport = lfp + 1 then .maintenance
  else .other

/-- The class of a frame (R211). -/
def frmClass (k : FrmKind) (f : WireFrame) : Nat :=
  match k with
  | .discover | .lfp => bits (beAt f.data 1 1) 5 3
  | .maintenance => 7
  | .other => 6

/-- The colour of R276: 0 green, 1 yellow, 2 red, and the buckets after. -/
def Policer.meter (x : Policer) (len : Nat) : Nat × Policer :=
  if x.tp < 8 * len then (2, x)
  else if x.tc < 8 * len then (1, { x with tp := x.tp - 8 * len })
  else (0, { x with tc := x.tc - 8 * len, tp := x.tp - 8 * len })

/-- The ingress policer: whether the frame passes, and the state after (R276). -/
def State.police (s : State) (p tc len : Nat) : Bool × State :=
  let k := p * 8 + tc
  let x := s.policers.look {} k
  if !x.on then (true, s)
  else
    let (c, y) := x.meter len
    let pg := pgFab (p / 8)
    let sel := p % 8 + 8 * tc
    let s := { s with policers := s.policers.put {} k y }
    let s := s.bump pg (match c with | 0 => Off.FAB_POL_GREEN | 1 => Off.FAB_POL_YELLOW | _ => Off.FAB_POL_RED) sel
    if (c = 1 ∧ x.yDrop) ∨ (c = 2 ∧ x.rDrop) then (false, s.bump pg Off.FAB_POL_DROP sel) else (true, s)

/-- The counter of a failed LFP check (R97). -/
def lfpDropOff (check : Nat) : Nat :=
  match check with | 1 => Off.FAB_LFP_DROP_HDR | 2 => Off.FAB_LFP_DROP_LEN | _ => Off.FAB_LFP_DROP_CRC

/-- Port `p` is an edge port with an open calibration window, in which it drops what arrives (R272). -/
def State.calDeaf (s : State) (p : Nat) : Bool := (s.attr p).role == 1 && (s.calWin p).isOpen

/-- Steps 3 to 6 of R466: the counter of the first test that fails, or a pass, and the state after. -/
def State.judge (s : State) (p : Nat) (f : WireFrame) (k : FrmKind) (tc len : Nat) : Option State × State :=
  let r := portRegion p
  match k with
  | .discover => (none, s)
  | _ =>
    match s.ownId with
    | none => (some (s.dropSwc r Off.SWC_DROP_PREPOS), s)
    | some own =>
      let maint := k == .maintenance
      if !maint ∧ !s.prefixOk r f then (some (s.dropSwc r Off.SWC_DROP_PREFIX), s)
      else if !maint ∧ f.id ≠ own ∧ f.hop ≤ 1 then (some (s.dropSwc r Off.SWC_DROP_HOP), s)
      else
        let (ok, t) := s.police p tc len
        if ok then (none, t) else (some t, t)

/-- The judgement of R466 on a frame that the ingress buffer holds without errors. -/
def State.intake (s : State) (a : Arrival) : Ingress :=
  let p := a.port.val
  let r := portRegion p
  if s.calDeaf p then .lost (s.bump pgOrb Off.ORB_CAL_RXDROP)
  else if isFlowControl a.bytes then .control
  else
    match parseFrame a.bytes with
    | none => .lost (s.dropSwc r Off.SWC_DROP_PARSE)
    | some f =>
      let k := s.frmKind r f
      let tc := frmClass k f
      let vc := s.arrivalVc p f
      let dropped (t : State) : Ingress := .lost (t.mirrorFrame p tc vc a.bytes true)
      match s.judge p f k tc (f.bytes.length + 4) with
      | (some t, _) => dropped t
      | (none, s) =>
        match s.claimArrival p tc vc f.bytes f.ipLen with
        | none =>
          if lossy tc then dropped (s.dropSwc r Off.SWC_DROP_LOSSY)
          else dropped ((s.dropSwc r Off.SWC_DROP_HDRM).raise { pg := pgSwc r, ev := 4, unit := 0, access := 7 })
        | some (b, t) =>
          let c := if k = .lfp ∨ k = .discover then lfpCheck (f.udpLen - 8) f.data else 0
          if c ≠ 0 then dropped ((t.giveCells b).bumpPort p (lfpDropOff c))
          else if f.proto = 17 ∧ !f.sumOk ∧ (k = .lfp ∨ k = .discover) then dropped (t.giveCells b)
          else .passed t f tc vc b

/-- The judgement of R466 on an arriving frame: a corrected word of the ingress buffer is counted; an uncorrectable one
raises `rx_ue`, and the frame is dropped with those of a bad FCS (R14, R300, R304). -/
def State.arrive (s : State) (a : Arrival) : Ingress :=
  let p := a.port.val
  let clean := s.modPort p fun x => { x with rxErr := 0 }
  if !s.portUp p ∨ (s.port p).rxQuiet then .ignored
  else if !a.fecOk then .lost s
  else if !a.fcsOk then .lost (s.bumpPort p Off.FAB_RX_FCS_ERR)
  else
    match (s.port p).rxErr with
    | 0 => s.intake a
    | 1 => (clean.countCe (pgFab (p / 8))).intake a
    | _ =>
      .lost (((clean.countUe (pgFab (p / 8))).bumpPort p Off.FAB_RX_FCS_ERR).raise
        { pg := pgFab (p / 8), ev := 6, unit := p % 8, access := 7, syn := s.ueSyndrome (pgFab (p / 8)) p })

/-- A frame that passed the port block has come from `t` to `u`: it is sampled, as dropped where a drop counter of its
region has moved (R237). -/
def State.mirrored (u t : State) (a : Arrival) (tc vc : Nat) : State :=
  let r := portRegion a.port.val
  let drops (s : State) : List Word :=
    [Off.SWC_DROP_TERM, Off.SWC_DROP_NOROUTE, Off.SWC_DROP_NOPATH, Off.SWC_DROP_TURN, Off.SWC_DROP_FENCE].map (s.reg (pgSwc r))
  u.mirrorFrame a.port.val tc vc a.bytes (drops u != drops t)

/-! ### Delivery inside the module (R212) -/

/-- The job slot that a message of a job goes to (R90): the one that holds the identifier in ARMED, RUNNING
or DRAINING, else the lowest that holds it in DEFINED or RETIRED. -/
def State.slotOf (s : State) (id : Nat) : Option Nat :=
  ((s.jobs.find? fun kv => kv.2.st.holds && s.jobId kv.1 == id).or
    (s.jobs.find? fun kv => !kv.2.st.holds && kv.2.st != .empty && s.jobId kv.1 == id)).map (·.1)

/-- Types that a unit of the module takes (R212). -/
def takenType (type : Nat) : Bool := [0, 1, 3, 5, 7, 8, 0xA, 0xB].contains type

/-- The flow of a frame (R218). -/
def WireFrame.flow (f : WireFrame) : List Byte :=
  beBytes 16 f.src ++ beBytes 16 f.dest ++ beBytes 2 f.sport ++ beBytes 2 f.dport ++ beBytes 1 f.proto

/-- An LFP message that reached the module: port, header, payload. -/
structure Msg where
  port : Nat
  src : Nat
  v6 : Bool
  h : LfpHeader
  payload : List Byte
  deriving DecidableEq, Repr

/-- Where a frame that passed R466 goes. -/
inductive Route where
  | forward
  | maintenance
  | discover (m : Msg)
  | unit (m : Msg)
  | nobody
  deriving DecidableEq, Repr

/-- The route of a frame (R211, R212, R445). BEACON carries no job. -/
def State.routeOf (s : State) (p : Nat) (f : WireFrame) : Route :=
  let k := s.frmKind (portRegion p) f
  let h := LfpHeader.parse f.data
  let m : Msg := { port := p, src := f.src % 2 ^ 24, v6 := f.v6, h := h, payload := lfpPayload f.data }
  match k with
  | .discover => .discover m
  | .maintenance => .maintenance
  | _ =>
    if s.ownId ≠ some f.id then .forward
    else if k = .lfp ∧ takenType h.type ∧ (h.type = 0xA ∨ (s.slotOf h.job).isSome) then .unit m
    else .nobody

/-! ### A command that is an arriving frame -/

/-- What a command row finds of its frame: not its kind or no frame at all, dropped, or taken. -/
inductive Rx where
  | not
  | lost (t : State)
  | got (t : State) (m : Msg)
  deriving Repr

/-- The frame of a row that takes LFP messages of one type: the storage returns with the delivery. -/
def State.receive (s : State) (a : Arrival) (mine : Msg → Bool) : Rx :=
  match s.arrive a with
  | .ignored | .control => .not
  | .lost t => .lost t
  | .passed t f tc vc b =>
    match s.routeOf a.port.val f with
    | .unit m | .discover m =>
      if mine m then .got ((t.mirrorFrame a.port.val tc vc a.bytes false).giveCells b) m else .not
    | _ => .not

/-- A terminated frame for a unit of region `r`, of job slot `slot`: where the region is fenced it is dropped and counted at
the port's switch (R16, R236); else it crosses to the region (R411). -/
def State.forUnit (s : State) (m : Msg) (slot r : Nat) (k : State → State) : State :=
  if s.isFenced r then s.dropSwc (portRegion m.port) Off.SWC_DROP_FENCE (some slot)
  else
    match s.cross (portRegion m.port) r (some slot) with
    | (true, s) => k s
    | (false, t) => t

end Sys2Proof.Machine
end

