-- ==== Sys2Proof/Machine/Advance.lean ====
section
/-!
DEFINITION. What the passage of angle and of local time does by itself (spec/09_orbit_and_gates.md
R244, R245, R252, R263, R266, R274): the comparators mark what falls due, the marks counters
count, the pacing buckets fill. What is due acts by a command of its own.
-/

namespace Sys2Proof.Machine

/-! ### Passage (R245) -/

/-- Angle units from `a0` forward to `a1`. -/
def travel (a0 a1 : Angle) : Nat := (a1 - a0).toNat

/-- Angle `x` passes when the angle moves from `a0` to `a1`. -/
def passes (a0 a1 x : Angle) : Bool := decide (0 < travel a0 x ∧ travel a0 x ≤ travel a0 a1)

/-- Units from `a0` to the next passage of an angle congruent to `x` modulo 2^n, 1 to 2^n. -/
def nextAt (a0 : Angle) (x n : Nat) : Nat := (x + 2 ^ 33 - a0.toNat - 1) % 2 ^ n + 1

/-- An angle congruent to `x` modulo 2^n passes. -/
def passesMod (a0 a1 : Angle) (x n : Nat) : Bool := decide (nextAt a0 x n ≤ travel a0 a1)

/-- The angles congruent to `x` modulo 2^n that pass, in the order of their passage. -/
def passAngles (a0 a1 : Angle) (x n : Nat) : List Angle :=
  let first := nextAt a0 x n
  let d := travel a0 a1
  if d < first then []
  else (List.range ((d - first) / 2 ^ n + 1)).map fun i => a0 + BitVec.ofNat 32 (first + i * 2 ^ n)

/-- Mark boundaries that pass. -/
def marksPassed (a0 a1 : Angle) : Nat := (a0.toNat % 65536 + travel a0 a1) / 65536

/-- The indices of the marks that pass. -/
def markIndices (a0 a1 : Angle) : List Nat :=
  (List.range (marksPassed a0 a1)).map fun i => (a0.toNat / 65536 + i + 1) % 65536

/-! ### Guard interval (R266) -/

/-- The guard interval times 32 / 31, in 1/256 ns. -/
def Orb.tg (o : Orb) : Nat := min o.tint o.last

/-- Angle units that `num / den` ns may cover: `ceil (num / den * 2^24 / tg)`. -/
def Orb.units (o : Orb) (num den : Nat) : Nat :=
  let d := den * o.tg * 31
  (num * 2 ^ 24 * 32 + d - 1) / d

/-- `ORB_MARGIN` in ns. -/
def State.margin (s : State) : Nat := s.rfld pgOrb Off.ORB_MARGIN 0 16

/-- The need of R266 for a frame of `len` bytes on port `p`, with `extra` ns more. -/
def State.need (s : State) (p len extra : Nat) : Nat :=
  s.orb.units ((len + 20) * 8 + (s.margin + extra) * s.portRate p) (s.portRate p)

/-- The one-way delay of port `p` by its last 16 probes, in ns (R248). -/
def State.portDelay (s : State) (p : Nat) : Nat :=
  let l := (s.orb.probes.look {} p).samples
  if l.isEmpty then 0 else ((l.foldl (· + ·) 0) / (2 * l.length : Int)).toNat

/-! ### Gates (R262, R263) -/

/-- The classes that a list leaves open at angle `a`. -/
def GatePort.openAt (g : GatePort) (a : Angle) : Byte :=
  let x := (a - g.phase).toNat % 2 ^ g.periodLog
  match (g.entries.filter fun e => e.off.toNat ≤ x).getLast?.or g.entries.getLast? with
  | some e => e.openMask
  | none => 0xFF

/-- The gate states follow the lists only while an angle is kept (R263). -/
def OrbState.gated : OrbState → Bool
  | .locked | .held | .master => true
  | _ => false

/-- Class `c` of port `p` is open by its gate; a list with an uncorrectable word acts as all-open (R280). -/
def State.gateOpen (s : State) (p c : Nat) : Bool :=
  !s.orb.st.gated || (s.gate p).bad || (s.gate p).entries.isEmpty || (s.gate p).openMask.toNat.testBit c

/-- The offsets at which class `c` of a list passes from open to closed (R266). -/
def GatePort.closings (g : GatePort) (c : Nat) : List Nat :=
  if g.bad then [] else
  let prev := g.entries.getLast?.toList ++ g.entries
  (prev.zip g.entries).filterMap fun (a, b) =>
    if a.openMask.toNat.testBit c ∧ !b.openMask.toNat.testBit c then some b.off.toNat else none

/-- Units to the next closing of class `c` of port `p`, none where no closing lies ahead (R266, R269). -/
def State.closing (s : State) (p c : Nat) : Option Nat :=
  let g := s.gate p
  let byGate := if s.orb.st.gated then (g.closings c).map fun o => (o + g.phase.toNat + 2 ^ 33 - s.angle.toNat) % 2 ^ g.periodLog else []
  let byCal := (s.calWin p).leads.map fun l => travel s.angle l.2
  (byGate ++ byCal).foldl (fun m x => match m with | none => some x | some y => some (min x y)) none

/-! ### Calibration schedule (R268, R269) -/

/-- The entries of the calibration schedule that are in use: an uncorrectable word disables them (R280). -/
def State.calEntries (s : State) : List Nat :=
  s.regs.filterMap fun kv =>
    if kv.1 % 2 ^ 26 = rkey pgOrb Off.ORB_CAL_TARGET 0 ∧ bit kv.2 0 ∧ !s.orb.calBad.contains (kv.1 / 2 ^ 26) then some (kv.1 / 2 ^ 26) else none

/-- The key of an entry's target: ports from 0, channels from 512. -/
def State.calTarget (s : State) (e : Nat) : Nat :=
  let w := s.reg pgOrb Off.ORB_CAL_TARGET e
  fld w 2 9 + (bit w 1).toNat * 512

/-- `start` and `period_log` of an entry. -/
def State.calStart (s : State) (e : Nat) : Nat := (s.reg pgOrb Off.ORB_CAL_START e).toNat

/-- `period_log` of an entry. -/
def State.calPeriod (s : State) (e : Nat) : Nat := s.rfld pgOrb Off.ORB_CAL_LEN 8 6 e

/-- Length of the window of an entry in angle units. -/
def State.calSpan (s : State) (e : Nat) : Nat := s.rfld pgOrb Off.ORB_CAL_LEN 0 7 e * 65536

/-- The lead of a port's window (R269). -/
def State.calLead (s : State) (p : Nat) : Nat := s.need p 9216 (2 * s.portDelay p)

/-! ### The comparators -/

/-- Jobs: the start angle of an armed job and the deadline of an open instance. -/
def Job.pass (a0 a1 : Angle) (j : Job) : Job :=
  let start := j.st == .armed && passes a0 a1 j.startAngle
  let dl := j.inst.phase == .opened && passes a0 a1 j.inst.deadline
  let hit := dl && j.inst.skip == 0
  { j with startDue := j.startDue || start,
           lateOf := if hit then some (j.inst.step, j.inst.attempt) else j.lateOf,
           inst := { j.inst with due := j.inst.due || hit,
                                 skip := if dl then j.inst.skip - 1 else j.inst.skip } }

/-- Calibration windows: the end of an open window. -/
def CalWin.pass (a0 a1 : Angle) (w : CalWin) : CalWin :=
  { w with endDue := w.endDue || (w.isOpen && passes a0 a1 w.endAngle) }

/-- The offsets staged by firmware take effect (R265). -/
def GatePort.takeStaged (g : GatePort) : GatePort :=
  { g with staged := [], entries := g.staged.foldl (fun l (m : Nat × Word) => l.modify m.1 fun e => { e with off := m.2 }) g.entries }

/-- Gate lists: an entry's offset, as it was and as firmware has moved it, the angle of a scheduled swap, and the
period start. -/
def GatePort.pass (a0 a1 : Angle) (g : GatePort) : GatePort :=
  let at_ := fun g : GatePort => g.entries.any fun e => passesMod a0 a1 (e.off.toNat + g.phase.toNat) g.periodLog
  let was := g
  let swap := match g.pendingAt with | some x => passes a0 a1 x | none => false
  let g := if passesMod a0 a1 g.phase.toNat g.periodLog then g.takeStaged else g
  { g with passFrom := if at_ was || at_ g then g.passFrom.or (some a0) else g.passFrom, swapDue := g.swapDue || swap }

/-- A waiting stream counts `n` marks (R204). -/
def Stream.countMarks (n : Nat) (x : Stream) : Stream :=
  if x.st = .waiting then { x with waitMarks := x.waitMarks + n } else x

/-- The waiting streams of a compute block count `n` marks (R204). -/
def CpbSt.countMarks (n : Nat) (c : CpbSt) : CpbSt :=
  { c with streams := c.streams.mapVals (Stream.countMarks n) }

/-- An open Comet round counts `n` marks (R115). -/
def CometSlot.countMarks (n : Nat) (c : CometSlot) : CometSlot := if c.isOpen then { c with marks := c.marks + n } else c

/-- The pacing buckets of an armed job's home regions gain what the travel gives (R274). -/
def State.pace (s : State) (units : Nat) : State :=
  (s.jobs.filter fun kv => kv.2.st.holds).foldl (fun s kv =>
    match kv.2.cfg with
    | some c =>
      if c.paceRate = 0 then s
      else (List.range 4).foldl (fun s r =>
        if c.homeMask.testBit r then
          let fill := fun b => min (b + c.paceRate * units) (max 1 c.paceBurst * 65536)
          { s with red := { s.red with pace := s.red.pace.upd 0 (r * 1024 + kv.1) fill } }
        else s) s
    | none => s) s

/-- Port `p` sends and accepts BEACON ordered sets (R247). -/
def State.beaconPort (s : State) (p : Nat) : Bool :=
  s.portUp p && s.rbit pgOrb (Off.ORB_BEACON_EN0 + 4 * (p / 32)) (p % 32) && (s.port p).lh

/-- The ports that send BEACON ordered sets. -/
def State.beaconPorts (s : State) : List Nat := (s.ports.map (·.1)).filter s.beaconPort

/-! ### The source in use and its stratum (R246, R261) -/

/-- Register word of source `i`. -/
def State.srcWord (s : State) (i : Nat) : Word := s.reg pgOrb (Off.ORB_SRC0 + 4 * i)

/-- Source `i` is defined. -/
def State.srcValid (s : State) (i : Nat) : Bool := bit (s.srcWord i) 0

/-- The port of source `i`, none for the pin pair. -/
def State.srcPort (s : State) (i : Nat) : Option Nat := if bit (s.srcWord i) 1 then some (fld (s.srcWord i) 2 9) else none

/-- Stratum of source `i`: a pin source counts as stratum 0. -/
def State.srcStratum (s : State) (i : Nat) : Nat :=
  match s.srcPort i with | none => 0 | some _ => (s.orb.srcState i).stratum

/-- The source followed, if any. -/
def State.followed (s : State) : Option Nat := if s.orb.hasSrc then some s.orb.src.val else none

/-- The stratum of the module (R246). -/
def State.stratum (s : State) : Nat :=
  if s.orb.st = .master then 0 else match s.followed with | some i => min 15 (s.srcStratum i + 1) | none => 15

/-- Source `i` is paused by a calibration window of its port: from the CAL_ENTER that the port sends or receives to
the CAL_EXIT (R246, R261). -/
def State.srcPaused (s : State) (i : Nat) : Bool :=
  match s.srcPort i with
  | none => false
  | some p => (s.port p).heldByPeer || (s.port p).ackOwed || (s.calWin p).announced

/-- CAL_EXIT ends the pause of the sources on port `p`: their intervals count from now (R261). -/
def State.touchSources (s : State) (p : Nat) : State :=
  ((List.range 4).filter fun i => s.srcValid i && s.srcPort i == some p).foldl (fun s i =>
    s.modSrc i fun x => { x with lastEvent := s.now }) s

/-- CAL_ENTER (6), CAL_ACK (7) or CAL_EXIT (8) leaves on a port that sends BEACON ordered sets, and only there (R247,
R269). -/
def State.sendCal (s : State) (p kind : Nat) : State :=
  if s.beaconPort p then (s.wakeTx p).emit (.orderedSet p kind 0 s.stratum 0) else s

/-- A PROBE of port `p` is due. -/
def State.dueProbe (s : State) (p : Nat) : State :=
  { s with orb := { s.orb with probes := s.orb.probes.upd {} p fun x => { x with due := true } } }

/-- What the marks that pass do in the orbit block, the switch blocks and the power block. -/
def State.passMarks (s : State) (idx : List Nat) : State :=
  if idx.isEmpty then s
  else
    let n := idx.length
    let zero := idx.contains 0
    let tel := s.reg pgOrb Off.ORB_TEL_CTRL
    let strobes := idx.filter fun i => bit tel 0 && (i + 65536 - fld tel 16 16) % 2 ^ fld tel 1 5 == 0
    let cmaps := (List.range 4).filter fun r => s.rbit (pgSwc r) Off.SWC_CMAP_CTRL 0 && !s.isFenced r
    let peri := s.orb.perihelia + zero.toNat
    let exports := if zero then cmaps.filter fun r => peri % 2 ^ s.rfld (pgSwc r) Off.SWC_CMAP_CTRL 4 4 == 0 else []
    let ramp := s.reg pgPwr Off.PWR_RAMP
    let stage := (s.now - s.pwr.lastStage ≥ 1000 * fld ramp 10 8) && idx.any fun i =>
      (i + 65536 - fld ramp 24 8) % 2 ^ fld ramp 18 4 == 0
    let o := s.orb
    let s := { s with
      orb := { o with
        marks := o.marks + n
        perihelia := peri
        turn := if zero then o.turn + 1 else o.turn
        beaconDue := o.beaconDue || zero
        strobeDue := o.strobeDue ++ strobes.map fun i => BitVec.ofNat 32 (i * 65536)
        cmapDue := o.cmapDue ++ (idx.flatMap fun _ => cmaps)
        exportDue := o.exportDue ++ exports }
      pwr := { s.pwr with stageDue := s.pwr.stageDue || stage }
      boot := { s.boot with autoDue := s.boot.autoDue || s.boot.autoArmed }
      cpbs := s.cpbs.mapVals (CpbSt.countMarks n)
      comet := s.comet.mapVals (CometSlot.countMarks n) }
    if idx.any fun i => i % 256 == 0 then s.beaconPorts.foldl (fun s p => s.dueProbe p) s else s

/-- The calibration schedule when the angle moves: every window start that passes, and for a port every start whose
lead passes. -/
def State.passCal (s : State) (a0 a1 : Angle) : State :=
  let opens := s.calEntries.flatMap fun e => (passAngles a0 a1 (s.calStart e) (s.calPeriod e)).map fun x => (e, x)
  let leads := (s.calEntries.filter fun e => s.calTarget e < 512).flatMap fun e =>
    let d := s.calLead (s.calTarget e)
    (passAngles a0 a1 (s.calStart e + 2 ^ 33 - d) (s.calPeriod e)).map fun x => (e, x + BitVec.ofNat 32 d)
  let o := s.orb
  { s with
    orb := { o with calOpenDue := o.calOpenDue ++ opens, calLeadDue := o.calLeadDue ++ leads },
    cal := s.cal.mapVals (CalWin.pass a0 a1) }

/-- The angle moves from `a0` to `a1`: every comparator tests for passage. -/
def State.advance (s : State) (a0 a1 : Angle) : State :=
  if travel a0 a1 = 0 then s
  else
    let s := { s with
      jobs := s.jobs.mapVals (Job.pass a0 a1)
      gates := s.gates.mapVals (GatePort.pass a0 a1) }
    ((s.passCal a0 a1).pace (travel a0 a1)).passMarks (markIndices a0 a1)

/-- Travel stops one unit short of the next mark (R252). -/
def maxTravel : Nat := 2 ^ 32 - 1

/-- Ports that the source table names as valid port sources (R248). -/
def State.sourcePorts (s : State) : List Nat :=
  (List.range 4).filterMap fun i =>
    let w := s.reg pgOrb (Off.ORB_SRC0 + 4 * i)
    if bit w 0 ∧ bit w 1 then some (fld w 2 9) else none

/-- The schedules of local time: a PROBE every 1 ms on a source port while no angle is kept (R248), and a
governor stage every `us` microseconds while no mark passes (R428). -/
def State.localDue (s : State) : State :=
  match s.orb.st with
  | .locked | .master => s
  | _ =>
    let s := s.sourcePorts.foldl (fun s p =>
      if s.now - (s.orb.probes.look {} p).lastSent ≥ 1000000 then s.dueProbe p else s) s
    if s.now - s.pwr.lastStage ≥ 1000 * s.rfld pgPwr Off.PWR_RAMP 10 8 then { s with pwr := { s.pwr with stageDue := true } }
    else s

/-! ### Codewords (R300) -/

/-- A codeword of port `p` has been decoded. How many of its symbols were in error, and on which lanes, the physical line
decides: free values, where 16 stands for a codeword left uncorrected (R300, R305, notes/assumptions/48.md). -/
def State.codeword (s : State) (p : Nat) : State :=
  let (n, s) := s.fresh
  let e := n % 17
  let s := s.bumpPort p Off.FAB_FEC_CW_LO
  let s := if s.reg (pgFab (p / 8)) Off.FAB_FEC_CW_LO (p % 8) = 0 then s.bumpPort p Off.FAB_FEC_CW_HI else s
  if e = 16 then s.bumpPort p Off.FAB_FEC_UNCORR_CW
  else
    let s := s.bumpPort p (Off.FAB_FEC_HIST0 + 4 * e)
    if e = 0 then s
    else
      (List.range e).foldl (fun s _ =>
        let (l, s) := s.fresh
        (s.bumpPort p Off.FAB_FEC_SYM).bumpPort (p + l % s.portLanes p) Off.FAB_LANE_SYM_ERR) (s.bumpPort p Off.FAB_FEC_CORR_CW)

/-- One ns at the receiver of port `p`, where it is UP and awake: 212.5 Gb/s on each lane, in codewords of 5,440 bits
(R285, R287). -/
def State.fecTick (s : State) (p : Nat) : State :=
  if !s.portUp p || (s.port p).rxQuiet then s
  else
    let acc := (s.port p).cwAcc + 425 * s.portLanes p
    if acc < 10880 then s.modPort p fun x => { x with cwAcc := acc }
    else (s.modPort p fun x => { x with cwAcc := acc - 10880 }).codeword p

/-- One ns at every receiver. -/
def State.fecTicks (s : State) : State := (s.ports.map (·.1)).foldl State.fecTick s

/-- A host port whose auto-negotiation ends goes on to link training (R286); the cycle in which it ends is free
(notes/assumptions/122.md). -/
def State.negotiate (s : State) : State :=
  ((s.hostPorts.filter fun kv => kv.2.state == 1).map (·.1)).foldl (fun s p =>
    let (n, s) := s.fresh
    if n % 2 = 1 then s.modHost p fun x => { x with state := 2 } else s) s

/-- One PHASE cycle: local time and the wall clock advance by 1 ns and the angle by the interpolation of
R252. Nothing runs in reset or after a power failure. -/
def State.idle (s : State) : State :=
  if !s.awake then s
  else
    let s := { s with now := s.now + 1, wall := { s.wall with ns := s.wall.ns + 1 } }
    let a0 := s.angle
    let s :=
      match s.orb.st with
      | .locked | .master =>
        if s.orb.masterStopped then s else
        let s := { s with orb := { s.orb with f := min (s.orb.f + s.orb.inc) maxTravel } }
        s.advance a0 s.angle
      | _ => s
    (s.localDue.fecTicks).negotiate

end Sys2Proof.Machine
end

