-- ==== Sys2Proof/Machine/Attest.lean ====
section
/-!
DEFINITION. The attestation log and its running digest (spec/13_security.md R385).
-/

namespace Sys2Proof.Machine

/-- What an attestation record is about. -/
inductive AttestKind where
  | boot | load | arm | master | mode | anchor | firmware | maint
  deriving DecidableEq, Repr

/-- Number of a kind. -/
def AttestKind.code : AttestKind → Nat
  | .boot => 0 | .load => 1 | .arm => 2 | .master => 3 | .mode => 4 | .anchor => 5 | .firmware => 6
  | .maint => 7

/-- Appends a record: the 16,384 latest stay, and D, which the log memory holds, runs on (R385). -/
def State.attest (s : State) (k : AttestKind) (content : List Byte) : State :=
  let s := (s.eccRead .log).2
  let r := Config.attestRecord k.code content
  let log := (s.sec.log ++ [r]).drop (s.sec.log.length + 1 - 16384)
  let d := match k with
    | .boot => Config.shake256 r
    | _ => Config.shake256 (digestBytes s.sec.digest ++ r)
  let s := { s with sec := { s.sec with log := log, digest := d } }
  s.setReg pgSec Off.SEC_LOG_HEAD (s.reg pgSec Off.SEC_LOG_HEAD + 1)

/-- The maintenance lock closes where it is open, which is logged; consents given so far lapse (R384, R385). -/
def State.closeLock (s : State) : State :=
  let t := { s with sec := { s.sec with maintOpen := false, consentM := none, consentO := none } }
  if s.sec.maintOpen then t.attest .maint [0] else t

end Sys2Proof.Machine
end

