-- ==== Sys2Proof/Machine/Mem.lean ====
section
/-!
DEFINITION. Memory: windows and the channel hash (spec/11_memory.md R316 to R318), word-code
decoding and its events (R310 to R315, R329 to R331), reads and writes of window ranges.

A memory address is `channel * 2^35 + channel-local byte address`; a word is 16 bytes.
`State.memErr` holds, by word number, how many symbols of a stored word are in error.
-/

namespace Sys2Proof.Machine

/-! ### Windows -/

/-- The entry of the window table with index `i`. -/
def State.winEntry (s : State) (i : Nat) : Window :=
  let w (k : Nat) : Word := s.tbl .window i k
  { index := i, lo := fld (w 0) 0 15, valid := bit (w 0) 31, size := fld (w 1) 0 15,
    scopeRegion := bit (w 1) 16, region := fld (w 1) 17 2, progLd := bit (w 2) 0,
    progSt := bit (w 2) 1, epRead := bit (w 2) 2, epWrite := bit (w 2) 3, hostRead := bit (w 2) 4,
    hostWrite := bit (w 2) 5, owner := fld (w 3) 0 16 }

/-- Bytes of a window (R316). -/
def Window.bytes (w : Window) : Nat := w.size * 2 ^ 20 * (if w.scopeRegion then 32 else 128)

/-- The exclusive or of the `n` fields of `b` bits of `o` from bit 6 up (R317). -/
def foldXor (o b : Nat) : Nat → Nat
  | 0 => 0
  | n + 1 => Nat.xor (foldXor o b n) (bits o (b * n + 6) b)

/-- Channel and channel-local address of an offset of a window (R317). -/
def Window.place (w : Window) (o : Nat) : Nat × Nat :=
  if w.scopeRegion then
    (32 * w.region + foldXor o 5 7, w.lo * 2 ^ 20 + ((o >>> 11) <<< 6 + o % 64))
  else (foldXor o 7 6, w.lo * 2 ^ 20 + ((o >>> 13) <<< 6 + o % 64))

/-- The memory address of an offset of a window. -/
def Window.addr (w : Window) (o : Nat) : Nat := (w.place o).1 * 2 ^ 35 + (w.place o).2

/-- The channels of two windows intersect (R316). -/
def Window.shares (a b : Window) : Bool := !a.scopeRegion || !b.scopeRegion || a.region == b.region

/-- Two windows overlap (R316). -/
def Window.overlaps (a b : Window) : Bool :=
  a.shares b && decide (a.lo < b.lo + b.size ∧ b.lo < a.lo + a.size)

/-- The regions that hold a window. -/
def Window.regions (w : Window) : List Nat := if w.scopeRegion then [w.region] else [0, 1, 2, 3]

/-- A channel of a window retrains: requests to it wait (R327). -/
def State.retrains (s : State) (w : Window) : Bool :=
  s.chans.any fun kv => w.regions.contains (kv.1 / 32) && kv.2.st == .retraining

/-- A range lies in a window and keeps to words (R147, R351). -/
def Window.holds (w : Window) (off len : Nat) : Bool :=
  off % 16 == 0 && len % 16 == 0 && decide (off + len ≤ w.bytes)

/-! ### Words and their errors -/

/-- Where the 144 transfer symbols of a burst go (R312): symbol (`p`, `g`) of pin `p` in beats `4g` to `4g + 3` belongs
to code word `(p + g) mod 4`. -/
def symbolWord (p g : Nat) : Nat := (p + g) % 4

/-- The code symbol that transfer symbol (`p`, `g`) fills in its code word: six of each group of beats, in increasing
`g`, then increasing `p` (R312). -/
def codeSymbol (p g : Nat) : Nat := 6 * g + p / 4

/-- What a channel-local byte address selects in the die (R318). -/
structure DieAddr where
  rank : Nat
  bank : Nat
  row : Nat
  column : Nat
  word : Nat
  deriving DecidableEq, Repr

/-- A channel-local byte address decoded (R318). -/
def dieAddr (a : Nat) : DieAddr :=
  let b := bits a 6 26
  { rank := a / 2 ^ 32, bank := Nat.xor (bits b 6 4) (bits b 10 4), row := bits b 10 16, column := bits b 0 6,
    word := bits a 4 2 }

/-- Result of decoding a word: 0 no error, 1 corrected, 2 uncorrectable (R310). -/
def State.decodeWord (s : State) (addr : Nat) : Nat :=
  match s.memErr.look 0 (addr / 16) with
  | 0 => 0
  | 1 => 1
  | 2 => 2
  | n => (Config.wordCode addr n).1 % 3

/-- The bytes that a word decodes to: an error in three or more symbols can decode to wrong data (R310). -/
def State.wordBytesAt (s : State) (addr : Nat) : List Byte :=
  let n := s.memErr.look 0 (addr / 16)
  if n ≤ 2 then s.mem.bytes (addr / 16 * 16) 16 else leBytes 16 (Config.wordCode addr n).2

/-- Memory block and channel cell of an address. -/
def addrChan (addr : Nat) : Nat := addr / 2 ^ 35

/-- The page of the memory block of a channel. -/
def chanPage (c : Nat) : Nat := pgMem (c / 4)

/-- Channel-local address. -/
def addrLocal (addr : Nat) : Nat := addr % 2 ^ 35

/-- The syndrome word of a decoding result other than no error (R311): what the error itself gives is free, `symbol` is
0x3F where nothing is corrected, and `word` is the place in the burst. -/
def State.syndromeWord (s : State) (addr result : Nat) : Word :=
  let f := Config.syndrome (chanPage (addrChan addr)) addr s.now
  let fix := decide (result = 1)
  word (f % 2 ^ 16 + (if fix then f / 2 ^ 16 % 36 else 0x3F) * 2 ^ 16 +
    (if fix then f / 2 ^ 22 % 15 + 1 else 0) * 2 ^ 22 + result * 2 ^ 26 + bits addr 4 2 * 2 ^ 28)

/-- Every memory block of an unfenced region is ready (R332). -/
def State.memReady (s : State) : Bool :=
  (List.range 32).all fun m => s.isFenced (m / 8) || s.rbit (pgMem m) Off.MEM_CFG 8

/-- `MEM_FWL_ADDR_HI` of an entry (R334). -/
def FwlEntry.hi (e : FwlEntry) : Word := word (e.addr / 2 ^ 32 % 8 + e.ch % 4 * 2 ^ 4 + e.ue.toNat * 2 ^ 8 + 2 ^ 31)

/-- A burst enters the failing-word log of its block, which the flash fault log copies (R330, R408). -/
def State.logBurst (s : State) (addr : Nat) (ue : Bool) (job : Option Nat := none) : State :=
  let c := addrChan addr
  let m := c / 4
  let l := s.fwl.look [] m
  let a := addrLocal addr / 64 * 64
  if l.any fun e => e.addr == a && e.ch == c % 4 then s
  else if l.length ≥ 16 then s.bumpSat (pgMem m) Off.MEM_FWL_SEL 16 16
  else
    let e : FwlEntry := { addr := a, ch := c % 4, ue := ue }
    let s := { s with fwl := s.fwl.put [] m (l ++ [e]) }
    let s := s.raise { pg := pgMem m, ev := 1, unit := c % 4, access := 1, akind := 3, addr := addrLocal addr,
                       syn := s.syndromeWord addr (if ue then 2 else 1), job := job }
    s.logFault 4 (m / 8) false (wordBytes (s.capture (pgMem m))) []
      (wordBytes [word e.addr, e.hi, s.syndromeWord addr (if ue then 2 else 1)])

/-- A channel corrected a word by an access of a type, in the work of job slot `job` (R14, R329, R392): counts, and `ce_threshold` once in a scrub pass,
which also requests full retraining (R326). -/
def State.corrected (s : State) (addr : Nat) (access : Nat := 1) (job : Option Nat := none) : State :=
  let c := addrChan addr
  let pg := chanPage c
  let s := (s.countCe pg).bump pg Off.MEM_CH_CE (c % 4)
  let s := s.modChan c fun x => { x with cePass := x.cePass + 1 }
  if !(s.chan c).ceRaised ∧ s.rfld pg Off.MEM_CE_THR 0 16 ≤ (s.chan c).cePass then
    let s := s.modChan c fun x => { x with ceRaised := true }
    let s := s.modCal (512 + c) fun w =>
      { w with requests := if w.requests.contains .fullRetrain then w.requests else w.requests ++ [.fullRetrain] }
    s.raise { pg := pg, ev := 0, unit := c % 4, access := access, akind := 3, addr := addrLocal addr,
              syn := s.syndromeWord addr 1, job := job }
  else s

/-- A word is stored with the data given, and without error. -/
def State.storeWord (s : State) (addr : Nat) (bytes : List Byte) : State :=
  { s with mem := s.mem.write (addr / 16 * 16) (bytes.take 16), memErr := s.memErr.put 0 (addr / 16) 0 }

/-- A word is stored again as it decodes. -/
def State.rewriteWord (s : State) (addr : Nat) : State := s.storeWord addr (s.wordBytesAt addr)

/-- A demand read met an uncorrectable word (R331), in the work of job slot `job` (R392). -/
def State.demandUe (s : State) (addr : Nat) (job : Option Nat := none) (access : Nat := 1) : State :=
  let c := addrChan addr
  let pg := chanPage c
  let s := ((s.countUe pg).bump pg Off.MEM_CH_UE (c % 4)).raise
    { pg := pg, ev := 2, unit := c % 4, access := access, akind := 3, addr := addrLocal addr, syn := s.syndromeWord addr 2,
      job := job }
  s.logBurst addr true job

/-- Bytes of a word that a write leaves as they were, after the read-modify-write of its burst (R313). -/
def State.rmwWord (s : State) (addr : Nat) (job : Option Nat := none) : State :=
  match s.decodeWord addr with
  | 0 => if s.memErr.look 0 (addr / 16) = 0 then s else s.rewriteWord addr
  | 1 => (s.corrected addr 3 job).rewriteWord addr
  | _ => s.demandUe addr job 3

/-- A write of some words of the burst at `addr` takes effect; one of fewer than four is a read-modify-write (R313). -/
def State.applyBurst (s : State) (addr : Nat) (ws : List (Nat × List Byte)) (job : Option Nat := none) : State :=
  let at_ (k : Nat) : Nat := addr / 64 * 64 + 16 * k
  let others := (List.range 4).filter fun k => !ws.any fun x => x.1 == k
  let s := others.foldl (fun s k => s.rmwWord (at_ k) job) s
  ws.foldl (fun s x => s.storeWord (at_ x.1) x.2) s

/-- A queued request has waited: the longest wait of its channel since the last read is kept (R334). -/
def State.noteWait (s : State) (c : Nat) (q : ChReq) : State :=
  let t := min (s.now - q.at_) 0xFFFF
  if t ≤ s.rfld (chanPage c) Off.MEM_QUEUE_WAIT 0 16 (c % 4) then s
  else s.setRfld (chanPage c) Off.MEM_QUEUE_WAIT 0 16 t (c % 4)

/-- A request of a channel's queue is served. -/
def State.serveReq (s : State) (c : Nat) (q : ChReq) : State := 
  (s.noteWait c q).applyBurst (c * 2 ^ 35 + q.addr) q.words q.job

/-- The queued writes to one burst of a channel take effect, in the order in which they reached it
(R315). -/
def State.drainBurst (s : State) (addr : Nat) : State :=
  let c := addrChan addr
  let same (q : ChReq) : Bool := q.addr / 64 == addrLocal addr / 64
  let mine := (s.chan c).queue.filter same
  if mine.isEmpty then s
  else
    let s := s.modChan c fun x => { x with queue := x.queue.filter fun q => !same q }
    mine.foldl (fun s q => s.serveReq c q) s

/-- The correction write-back of a burst (R314): each of its words that decodes as corrected is counted and stored
again. -/
def State.correctBurst (s : State) (addr : Nat) (job : Option Nat := none) : State :=
  (List.range 4).foldl (fun s k =>
    let a := addr / 64 * 64 + 16 * k
    if s.decodeWord a = 1 then (s.corrected a 1 job).rewriteWord a else s) s

/-- A demand read of one word for a job: its bytes, or none where it is uncorrectable, and the state after the
correction write-back (R314) or the events (R331). -/
def State.readWord (s : State) (addr : Nat) (job : Option Nat := none) : Option (List Byte) × State :=
  let s := s.drainBurst addr
  match s.decodeWord addr with
  | 0 => (some (s.wordBytesAt addr), s)
  | 1 => (some (s.wordBytesAt addr), s.correctBurst addr job)
  | _ => (none, s.demandUe addr job)

/-- A demand write of some words of a burst. -/
def State.writeBurst (s : State) (addr : Nat) (ws : List (Nat × List Byte)) (job : Option Nat := none) : State :=
  (s.drainBurst addr).applyBurst addr ws job

/-- A demand write of one whole word. -/
def State.writeWord (s : State) (addr : Nat) (bytes : List Byte) : State := s.writeBurst addr [(addr / 16 % 4, bytes)]

/-- Entries of the write queue of a channel cell (R324). -/
def writeEntries : Nat := 64

/-- Puts a write of words of a burst into its channel's queue (R148, R324). A requester that finds the queue full
waits until its head has been served (DESIGN CHOICE, notes/assumptions/109.md). -/
def State.postBurst (s : State) (addr : Nat) (ws : List (Nat × List Byte)) (job : Option Nat := none) : State :=
  let c := addrChan addr
  let l := (s.chan c).queue
  let q : ChReq := { addr := addrLocal addr / 64 * 64, words := ws, at_ := s.now, job := job }
  let s := s.modChan c fun x => { x with queue := (if l.length < writeEntries then l else l.drop 1) ++ [q] }
  match l with
  | h :: _ => if l.length < writeEntries then s else s.serveReq c h
  | [] => s

/-! ### Ranges of a window -/

/-- What a read of a range gives: its bytes, or the offset within the range of the first word that is
uncorrectable and the bytes below it. -/
inductive RangeRead where
  | ok (b : List Byte)
  | ue (at_ : Nat) (b : List Byte)
  deriving DecidableEq, Repr

/-- Reads `n` words of a window from offset `off`. -/
def State.readWords (s : State) (w : Window) (off : Nat) (job : Option Nat) : Nat → RangeRead × State
  | 0 => (.ok [], s)
  | n + 1 =>
    match s.readWord (w.addr off) job with
    | (none, t) => (.ue 0 [], t)
    | (some b, t) =>
      match t.readWords w (off + 16) job n with
      | (.ok r, u) => (.ok (b ++ r), u)
      | (.ue k r, u) => (.ue (k + 16) (b ++ r), u)

/-- Reads `len` bytes, a multiple of 16, of a window. -/
def State.readRange (s : State) (w : Window) (off len : Nat) (job : Option Nat := none) : RangeRead × State :=
  s.readWords w off job (len / 16)

/-- Whole words at an offset of a window, by the bursts that they lie in: the offset of each burst and its words. A
burst of a window lies in one burst of a channel (R317). -/
def burstsOf (off : Nat) (bytes : List Byte) : Nat → List (Nat × List (Nat × List Byte))
  | 0 => []
  | n + 1 =>
    if bytes.length < 16 then []
    else
      let k := off / 16 % 4
      let m := min (bytes.length / 16) (4 - k)
      (off / 64 * 64, (List.range m).map fun i => (k + i, slice bytes (16 * i) 16)) ::
        burstsOf (off + 16 * m) (bytes.drop (16 * m)) n

/-- Writes whole words into a window, in increasing offset. -/
def State.writeRange (s : State) (w : Window) (off : Nat) (bytes : List Byte) (job : Option Nat := none) : State :=
  (burstsOf off bytes (bytes.length / 16)).foldl (fun s b => s.writeBurst (w.addr b.1) b.2 job) s

/-- Posts whole words to the channels of a window. -/
def State.postRange (s : State) (w : Window) (off : Nat) (bytes : List Byte) (job : Option Nat := none) : State :=
  (burstsOf off bytes (bytes.length / 16)).foldl (fun s b => s.postBurst (w.addr b.1) b.2 job) s

/-- Reads 4-byte words of a window that need not fill whole code words: the bytes of the covering words. -/
def State.readBytes (s : State) (w : Window) (off len : Nat) (job : Option Nat := none) : RangeRead × State :=
  let lo := off / 16 * 16
  let hi := (off + len + 15) / 16 * 16
  match s.readRange w lo (hi - lo) job with
  | (.ok b, t) => (.ok (slice b (off - lo) len), t)
  | (.ue k b, t) => (.ue k b, t)

end Sys2Proof.Machine
end

