-- ==== Sys2Proof/Machine/Jobs.lean ====
section
/-!
DEFINITION. Jobs: the tables as records (spec/04_collectives.md R84 to R87, R46, R125, R319),
the arming checks of R91, the configuration digest of R386 and what arming fixes (R20).
-/

namespace Sys2Proof.Machine

/-! ### Tables as records -/

/-- The entries of a table whose word `w` is listed and passes `p`. -/
def State.tblWhere (s : State) (k : TKind) (w : Nat) (p : Word → Bool) : List Nat :=
  s.tables.filterMap fun kv =>
    if kv.1 / 2 ^ 32 = k.code ∧ kv.1 % 256 = w ∧ p kv.2 then some (kv.1 % 2 ^ 32 / 256) else none

/-- Entry `i` of the member array (R85). -/
def State.memberAt (s : State) (i : Nat) : Member :=
  let lo := s.tbl .member i 0
  let hi := s.tbl .member i 1
  { dest := fld lo 0 24, port := fld lo 24 8 + fld hi 0 1 * 256, isLocal := bit hi 1, module := bit hi 2,
    valid := bit hi 31 }

/-- Group `g` with its members, of which a group has at most 4,096 (R84). -/
def State.groupAt (s : State) (g : Nat) : Group :=
  let w0 := s.tbl .group g 0
  let w1 := s.tbl .group g 1
  let base := fld w0 0 18
  let size := fld w0 18 13
  { index := g, base := base, size := size, valid := bit w0 31, floor := sext 9 (fld w1 0 9),
    intMode := bit w1 9, result64 := bit w1 10, classP := bit w1 11, fanin := fld w1 12 5,
    owner := fld (s.tbl .group g 2) 0 16,
    members := (List.range (min size 4096)).map fun i => s.memberAt (base + i) }

/-- The groups that a job owns: valid entries that name it. -/
def State.groupsOf (s : State) (id : Nat) : List Group :=
  (s.tblWhere .group 0 fun w => bit w 31).filterMap fun g =>
    let x := s.groupAt g
    if x.owner = id then some x else none

/-- Descriptor `d` of a job slot (R46). -/
def State.descAt (s : State) (slot d : Nat) : Descriptor :=
  let w (k : Nat) : Word := s.tbl .job slot (32 + 8 * d + k)
  { fmt := fld (w 0) 0 4, rnd := fld (w 0) 4 2, clipEn := bit (w 0) 6, scale := w 1, bias := w 2,
    clip := w 3, tensor := w 4 }

/-- The plan of a job slot with its rows in use (R87). -/
def State.planAt (s : State) (slot : Nat) : Plan :=
  let w (k : Nat) : Word := s.tbl .plan slot k
  let n := fld (w 0) 12 5
  { cgroup := fld (w 0) 0 12, nrows := n, readyWait := bit (w 0) 17, dlLead := w 1,
    rows := (List.range (min n 16)).map fun r =>
      let v (k : Nat) : Word := w (8 + 8 * r + k)
      { first := fld (v 0) 0 24, count := fld (v 1) 0 25, role := fld (v 2) 0 2, s := fld (v 2) 2 13,
        dest := fld (v 2) 15 2, rgroup := fld (v 3) 0 12, upDest := fld (v 4) 0 24,
        upGroup := fld (v 5) 0 12, upMember := fld (v 5) 12 12, upS := fld (v 6) 0 13 } }

/-- Entry `i` of the slice table (R125). -/
def State.sliceAt (s : State) (i : Nat) : SliceCfg :=
  let w (k : Nat) : Word := s.tbl .slice i k
  { index := i, first := fld (w 0) 0 24, valid := bit (w 0) 31, nchunk := fld (w 1) 0 20,
    unit := fld (w 1) 20 12 + 1, region := fld (w 2) 0 2, cpb := fld (w 2) 2 3, feedq := fld (w 2) 5 4,
    distq := fld (w 2) 9 4, desc := fld (w 2) 13 4, planes := fld (w 2) 17 3 + 1, feedOrder := bit (w 2) 20,
    freezeEn := bit (w 2) 21, sbuf := fld (w 2) 22 6 + 1, owner := fld (w 3) 0 16, dgroup := fld (w 3) 16 12,
    win := fld (w 4) 0 4, off := fld (w 5) 12 20 * 2 ^ 12 + fld (w 6) 0 20 * 2 ^ 32 }

/-- The compute block of a slice, 0 to 31. -/
def SliceCfg.block (x : SliceCfg) : Nat := 8 * x.region + x.cpb

/-- The slices of a job. -/
def State.slicesOf (s : State) (id : Nat) : List SliceCfg :=
  (s.tblWhere .slice 0 fun w => bit w 31).filterMap fun i =>
    let x := s.sliceAt i
    if x.owner = id then some x else none

/-- The window table index that a space of a job slot is bound to (R319). -/
def State.winBound (s : State) (slot space : Nat) : Option Nat :=
  let w := s.tbl .job slot (19 + space / 2)
  let lo := space % 2 * 16
  if bit w (lo + 15) then some (fld w lo 12) else none

/-- The bound spaces of a job slot with their windows. -/
def State.windowsOf (s : State) (slot : Nat) : List (Nat × Window) :=
  (List.range 16).filterMap fun sp =>
    match s.winBound slot sp with | some i => some (sp, s.winEntry i) | none => none

/-- The configuration of a job slot as the tables hold it now. -/
def State.jobCfg (s : State) (slot : Nat) : JobCfg :=
  let w (k : Nat) : Word := s.tbl .job slot k
  let id := fld (w 0) 0 16
  { id := id, homeMask := fld (w 2) 0 4, len := 16 * (fld (w 3) 0 12 + 1), nchunks := fld (w 4) 0 25,
    seed := BitVec.ofNat 64 ((w 5).toNat + (w 6).toNat * 2 ^ 32), dlPhase := w 7, periodLog := fld (w 8) 0 6,
    dlMin := (w 9).toNat, attLimit := fld (w 11) 8 8, isoSteps := fld (w 11) 16 8, cmtBase := fld (w 12) 0 10,
    cmtCount := fld (w 12) 10 11, cmtRegion := fld (w 12) 21 2, cmtTmo := fld (w 13) 0 16,
    paceRate := fld (w 14) 0 16, paceBurst := fld (w 14) 16 8, paceBacklog := fld (w 14) 24 8,
    progMask := (w 15).toNat, waitTmo := fld (w 16) 0 20,
    descs := (List.range 16).map (s.descAt slot), plan := s.planAt slot, groups := s.groupsOf id,
    slices := s.slicesOf id, windows := s.windowsOf slot,
    digest := 0, quotas := s.quotasOf slot }

/-! ### Parts of a configuration -/

/-- Group `g` where it is valid and owned by the job. -/
def JobCfg.group (c : JobCfg) (g : Nat) : Option Group := c.groups.find? fun x => x.index == g

/-- A group with no members. -/
def noGroup : Group :=
  { index := 0, base := 0, size := 0, valid := false, floor := 0, intMode := false, result64 := false,
    classP := false, fanin := 12, owner := 0, members := [] }

/-- The contributor group. -/
def JobCfg.cgrp (c : JobCfg) : Group := (c.group c.plan.cgroup).getD noGroup

/-- The row that covers a chunk. -/
def JobCfg.rowOf (c : JobCfg) (k : Nat) : Option (Nat × PlanRow) :=
  (c.plan.rows.zipIdx.find? fun (r, _) => decide (r.first ≤ k ∧ k < r.first + r.count)).map fun (r, i) => (i, r)

/-- A row sends RESULT messages: a root row with `dest` = RESULT, or a relay row (R102, R103). -/
def PlanRow.results (r : PlanRow) : Bool := r.role == 2 || (r.role == 0 && r.dest == 1)

/-- A row feeds parameter slices. -/
def PlanRow.feeds (r : PlanRow) : Bool := r.role == 0 && r.dest == 0

/-- The module coordinates the job as a leaf (R107). -/
def JobCfg.isLeaf (c : JobCfg) : Bool := c.plan.rows.any fun r => r.role == 1

/-- Chunks that the rows of the plan cover. -/
def JobCfg.homed (c : JobCfg) : Nat := c.plan.rows.foldl (fun n r => n + r.count) 0

/-- The bits of a mask, lowest first. -/
def maskBits (m : Nat) : List Nat := (List.range 4).filter fun r => m.testBit r

/-- The home region of chunk `k` of job `id` (R98). -/
def homeRegion (id k mask : Nat) : Nat :=
  let h := Nat.xor k (id * 256) * 0x9E3779B1 % 2 ^ 32
  (maskBits mask).getD ((h >>> 16) % max 1 (maskBits mask).length) 0

/-- Home region of chunk `k`. -/
def JobCfg.home (c : JobCfg) (k : Nat) : Nat := homeRegion c.id k c.homeMask

/-- The target of a member (R235). -/
def Member.target (m : Member) : Target := if m.isLocal then .local m.port m.dest else .remote m.dest

/-- Bytes of a slice area and of its parts (R127). -/
def SliceCfg.n (x : SliceCfg) (len : Nat) : Nat := x.nchunk * len

/-- Rounded up to 4 KiB. -/
def up4k (n : Nat) : Nat := (n + 4095) / 4096 * 4096

/-- Bytes of one plane. -/
def SliceCfg.plane (x : SliceCfg) (len : Nat) : Nat := up4k (4 * x.n len)

/-- Bytes of the staging part. -/
def SliceCfg.stagingBytes (x : SliceCfg) (len : Nat) : Nat := up4k (4 * x.sbuf * x.unit * len)

/-- Offset of area A or B in the slice area. -/
def SliceCfg.area (x : SliceCfg) (len : Nat) (b : Bool) : Nat := 0x1000 + (if b then x.planes * x.plane len else 0)

/-- Offset of the staging part. -/
def SliceCfg.staging (x : SliceCfg) (len : Nat) : Nat := 0x1000 + 2 * x.planes * x.plane len

/-- Offset of the freeze mask. -/
def SliceCfg.mask (x : SliceCfg) (len : Nat) : Nat := x.staging len + x.stagingBytes len

/-- Bytes of the slice area. -/
def SliceCfg.bytes (x : SliceCfg) (len : Nat) : Nat := x.mask len + up4k ((x.n len + 7) / 8)

/-- Units of a slice. -/
def SliceCfg.units (x : SliceCfg) : Nat := x.nchunk / x.unit

/-- Two ranges meet. -/
def meets (a la b lb : Nat) : Bool := decide (a < b + lb ∧ b < a + la)

/-- The window of a space of the job. -/
def JobCfg.window (c : JobCfg) (space : Nat) : Option Window := (c.windows.find? fun x => x.1 == space).map (·.2)

/-! ### Program sets (R187 to R195) -/

/-- The set of a job slot on a compute block. -/
def CpbSt.setOf (c : CpbSt) (slot : Nat) : Option ProgSet := c.sets.find? fun p => p.slot == slot

/-- An extent keeps rule 9 (R195) for a stream whose local range is given, with the windows `ws` of the job. -/
def Extent.ok (e : Extent) (base size : Nat) (ws : List (Nat × Window)) : Bool :=
  if e.space = 0x10 then decide (base ≤ e.lo ∧ e.hi ≤ base + size ∧ e.lo ≤ e.hi)
  else
    match ws.find? fun x => x.1 == e.space with
    | some (_, w) =>
      w.valid && decide (e.lo ≤ e.hi ∧ e.hi ≤ w.bytes) && (!e.ld || w.progLd) && (!e.st || w.progSt)
    | none => false

/-- Every extent of a set keeps R195. -/
def ProgSet.extentsOk (p : ProgSet) (ws : List (Nat × Window)) : Bool :=
  p.streams.all fun t => t.extents.all fun e => e.ok t.localBase t.localSize ws

/-! ### The arming checks (R91) -/

/-- The slots in a state that the predicate accepts. -/
def State.slotsIn (s : State) (p : JobState → Bool) : List Nat := (s.jobs.filter fun kv => p kv.2.st).map (·.1)

/-- ARMED or RUNNING: the states of the lock of R20. -/
def JobState.locked : JobState → Bool
  | .armed | .running => true
  | _ => false

/-- Check 1: another slot holds the identifier. -/
def State.duplicate (s : State) (slot : Nat) (c : JobCfg) : Bool :=
  (s.slotsIn fun st => st ≠ .empty && st ≠ .retired).any fun j => j != slot && s.jobId j == c.id

/-- Check 2: R19. -/
def State.homeOk (s : State) (c : JobCfg) : Bool := (maskBits c.homeMask).any fun r => !s.isFenced r

/-- A group is valid, within the array, with every member valid. -/
def Group.whole (g : Group) : Bool :=
  g.valid && decide (1 ≤ g.size ∧ g.size ≤ 4096 ∧ g.base + g.size ≤ 262144) && g.members.all (·.valid)

/-- Check 3. -/
def JobCfg.groupsOk (c : JobCfg) : Bool :=
  let named := c.plan.cgroup :: (c.plan.rows.filter PlanRow.results).map (·.rgroup)
  (named.all fun g => match c.group g with | some x => x.whole | none => false) &&
  c.groups.all fun g => decide (1 ≤ g.size ∧ g.size ≤ 4096)

/-- Check 4: R54 and R55. -/
def JobCfg.spanOk (c : JobCfg) : Bool :=
  c.groups.all fun g => (g.intMode || decide (-149 ≤ g.floor ∧ g.floor ≤ 64)) && decide (12 ≤ g.fanin ∧ g.fanin ≤ 24)

/-- R47 for one descriptor. -/
def Descriptor.armOk (d : Descriptor) : Bool :=
  d.fmt ≠ 0xD && d.fmt ≠ 0xE && d.fmt ≠ 0xF && d.rnd ≠ 3 && fld d.scale 23 8 ≠ 255 && fld d.bias 23 8 ≠ 255 &&
  !bit d.clip 31 && d.clip ≠ 0 && !(fld d.clip 23 8 == 255 && fld d.clip 0 23 != 0)

/-- The items of R48 that both descriptors 0 and 1 keep. -/
def Descriptor.base01 (d : Descriptor) : Bool :=
  d.rnd == 0 && !d.clipEn && (d.fmt ≠ 0x8 || (d.scale == 0x3F800000 && d.bias == 0))

/-- Check 5: R47 and R48. -/
def JobCfg.fmtOk (c : JobCfg) : Bool :=
  let d0 := c.descs.getD 0 ⟨0, 0, false, 0, 0, 0, 0⟩
  let d1 := c.descs.getD 1 ⟨0, 0, false, 0, 0, 0, 0⟩
  c.descs.all Descriptor.armOk && d0.base01 && d1.base01 &&
  ((c.cgrp.intMode && c.cgrp.result64) || d0.fmt == (if c.cgrp.intMode then 0x8 else 0x0)) &&
  (d1.fmt == 0x0 || d1.fmt == 0x8)

/-- Bytes of an element that a member is granted to send (R88). -/
def JobCfg.elemBytes (c : JobCfg) (r : PlanRow) (m : Member) : Nat :=
  if r.role = 2 then 4 else if m.module ∧ !c.cgrp.classP then 24 else 4

/-- R88 for one row. -/
def JobCfg.rowOk (c : JobCfg) (r : PlanRow) : Bool :=
  r.role ≠ 3 && (r.role == 1 || r.dest ≤ 1) && decide (r.first + r.count ≤ c.nchunks) &&
  decide (c.cgrp.size * r.s ≤ 4096) && r.s ≠ 0 && c.len % max 1 r.s == 0 &&
  (c.cgrp.members.all fun m => c.len / max 1 r.s * c.elemBytes r m ≤ 8192) &&
  (r.role ≠ 1 || (r.upS ≠ 0 && c.len % max 1 r.upS == 0 &&
    c.len / max 1 r.upS * (if c.cgrp.classP then 4 else 24) ≤ 8192)) &&
  (r.role ≠ 2 || c.cgrp.size == 1)

/-- No two of the rows overlap. A row of count 0 meets another where its `first` lies inside that one (DESIGN CHOICE,
notes/assumptions/43.md). -/
def rowsApart : List PlanRow → Bool
  | [] => true
  | r :: t => (t.all fun q => !meets r.first r.count q.first q.count) && rowsApart t

/-- Check 6: R70 and R88. -/
def JobCfg.planOk (c : JobCfg) : Bool :=
  decide (c.plan.nrows ≤ 16) && c.plan.rows.all c.rowOk && rowsApart c.plan.rows &&
  decide (c.plan.dlLead.toNat < c.dlMin) && decide (16 ≤ c.periodLog ∧ c.periodLog ≤ 32) &&
  decide (1 ≤ c.nchunks ∧ c.nchunks ≤ 2 ^ 24) && c.attLimit ≠ 0 && c.cmtTmo ≠ 0

/-- Descriptor blocks of one chunk record (R70). -/
def chunkBlocks (c s : Nat) : Nat := 1 + (c * s + 511) / 512

/-- The guarantees of a pool stay within its size (R233); in P1 those of the ARMED and RUNNING jobs (R71). -/
def State.fitsGuarantee (s : State) (slot pool r : Nat) : Bool :=
  if pool = 1 then
    let others := (s.slotsIn JobState.locked).filter fun j => match (s.job j).cfg with | some c => c.homeMask.testBit r | none => false
    decide (others.foldl (fun n j => n + (s.jobQuota 1 r j).1) (s.jobQuota 1 r slot).1 ≤ poolSize 1)
  else decide (s.guarantees pool r ≤ poolSize pool)

/-- Check 7: R71 and R233. A fenced region is not judged. -/
def State.quotaOk (s : State) (slot : Nat) (c : JobCfg) : Bool :=
  (List.range 4).all fun r => s.isFenced r ||
    (let home := c.homeMask.testBit r
     let q1 := s.jobQuota 1 r slot
     let most := c.plan.rows.foldl (fun n w => max n (chunkBlocks c.cgrp.size w.s)) 0
     let serves := c.windows.any fun x => !x.2.scopeRegion || x.2.region == r
     (!home || decide (c.len ≤ q1.1 ∧ q1.1 ≤ q1.2 ∧ q1.2 ≤ 1048576)) &&
     decide (36 ≤ (s.jobQuota 0 r slot).1) &&
     (!home || decide (most ≤ (s.jobQuota 4 r slot).1)) &&
     (!serves || decide (2 ≤ (s.jobQuota 5 r slot).1)) &&
     [0, 4, 5].all (fun pool => s.fitsGuarantee slot pool r) && (!home || s.fitsGuarantee slot 1 r))

/-- Check 8. -/
def State.cometOk (s : State) (slot : Nat) (c : JobCfg) : Bool :=
  c.cmtCount == 0 ||
  (decide (c.cmtBase + c.cmtCount ≤ 1024) && !s.isFenced c.cmtRegion &&
    (s.slotsIn JobState.locked).all fun j => j == slot ||
      (match (s.job j).cfg with
       | some d => d.cmtCount == 0 || d.cmtRegion != c.cmtRegion || !meets c.cmtBase c.cmtCount d.cmtBase d.cmtCount
       | none => true))

/-- The identity word of a slice header agrees with its entry (R126, R128). A slice in no window of the job has no
header; check 10 rejects it. -/
def State.identityOk (s : State) (c : JobCfg) (x : SliceCfg) : Bool :=
  match c.window x.win with
  | none => true
  | some w =>
    match (s.readWord (w.addr (x.off + 0x20))).1 with
    | none => false
    | some b =>
      leAt b 0 4 == 0x534C0001 && leAt b 4 4 == x.n c.len && leAt b 8 1 == x.planes &&
      bits (leAt b 9 2) 0 12 == x.index && leAt b 12 2 == c.id

/-- Chunks of a slice that root rows with `dest` = parameter slice cover. -/
def JobCfg.fed (c : JobCfg) (x : SliceCfg) : Nat :=
  (c.plan.rows.filter PlanRow.feeds).foldl (fun n r =>
    n + (min (r.first + r.count) (x.first + x.nchunk) - max r.first x.first)) 0

/-- No two of the slices share a chunk. -/
def slicesApart : List SliceCfg → Bool
  | [] => true
  | x :: t => (t.all fun y => !meets x.first x.nchunk y.first y.nchunk) && slicesApart t

/-- The part of R126 that check 9 applies. -/
def State.slicesOk (s : State) (slot : Nat) (c : JobCfg) : Bool :=
  let want := (c.plan.rows.filter PlanRow.feeds).foldl (fun n r => n + r.count) 0
  slicesApart c.slices && (c.slices.all fun x => c.fed x == x.nchunk) &&
  c.slices.foldl (fun n x => n + x.nchunk) 0 == want &&
  c.slices.all fun x =>
    x.nchunk % x.unit == 0 && decide (x.n c.len ≤ 2 ^ 28) && decide (x.unit * c.len ≤ 2 ^ 22) &&
    decide (x.sbuf ≤ x.units) && !s.isFenced x.region &&
    (match (s.cpb x.block).setOf slot with
     | some p => p.qFeed.testBit x.feedq && p.qDist.testBit x.distq
     | none => false) &&
    2 ≤ x.desc && [0x1, 0x9, 0xA].contains ((c.descs.getD x.desc ⟨0, 0, false, 0, 0, 0, 0⟩).fmt) &&
    (c.group x.dgroup).isSome && s.identityOk c x

/-- The sets of a job slot with their blocks. -/
def State.setsOf (s : State) (slot : Nat) : List (Nat × ProgSet) :=
  (List.range 32).filterMap fun b => ((s.cpb b).setOf slot).map fun p => (b, p)

/-- Check 9: R202. -/
def State.programsOk (s : State) (slot : Nat) (c : JobCfg) : Bool :=
  ((List.range 32).all fun b => !c.progMask.testBit b || (!s.isFenced (b / 8) && ((s.cpb b).setOf slot).isSome)) &&
  ((s.setsOf slot).all fun (b, _) => c.progMask.testBit b) && s.slicesOk slot c &&
  ((s.setsOf slot).all fun (b, p) => (List.range 16).all fun q =>
    (!p.qFeed.testBit q || c.slices.any fun x => x.block == b && x.feedq == q) &&
    (!p.qDist.testBit q || c.slices.any fun x => x.block == b && x.distq == q)) &&
  (c.progMask == 0 || decide (c.waitTmo ≠ 0 ∧ 2 * ((c.dlMin + 2 ^ c.periodLog + 65535) / 65536) ≤ c.waitTmo))

/-- No two entries of a list are in a relation. -/
def pairsOk {α : Type} (ok : α → α → Bool) : List α → Bool
  | [] => true
  | x :: t => t.all (ok x) && pairsOk ok t

/-- Check 10: R320, R195 and the window part of R126. -/
def State.windowsOk (s : State) (slot : Nat) (c : JobCfg) : Bool :=
  let others := (s.slotsIn JobState.locked).filter (· ≠ slot) |>.flatMap fun j =>
    match (s.job j).cfg with | some d => d.windows.map (·.2) | none => []
  (c.windows.all fun (_, w) =>
    w.valid && w.owner == c.id && w.size ≠ 0 && decide (w.lo + w.size ≤ 20480) &&
    (w.regions.all fun r => !s.isFenced r) && others.all fun v => !w.overlaps v) &&
  pairsOk (fun a b => a.2.index != b.2.index && !a.2.overlaps b.2) c.windows &&
  ((s.setsOf slot).all fun (_, p) => p.extentsOk c.windows) &&
  (c.slices.all fun x => match c.window x.win with
    | some w => decide (x.off + x.bytes c.len ≤ w.bytes)
    | none => false) &&
  pairsOk (fun a b => a.win != b.win || !meets a.off (a.bytes c.len) b.off (b.bytes c.len)) c.slices

/-- A load for the slot is still being verified (R200). -/
def State.loading (s : State) (slot : Nat) : Bool := s.loads.any fun l => l.slot == slot

/-- The code of the first of checks 1 to 8 that fails, or of the state of the slot (R90, R91, R200). -/
def State.armFirst (s : State) (slot : Nat) (c : JobCfg) : Option Nat :=
  let st := (s.job slot).st
  if (st ≠ .defined ∧ st ≠ .retired) ∨ s.loading slot then some 0x0101
  else if s.duplicate slot c then some 0x0102
  else if !s.homeOk c then some 0x0103
  else if !c.groupsOk then some 0x0104
  else if !c.spanOk then some 0x0105
  else if !c.fmtOk then some 0x0106
  else if !c.planOk then some 0x0107
  else if !s.quotaOk slot c then some 0x0108
  else if !s.cometOk slot c then some 0x0109
  else none

/-- The code of the first arming check that fails (R90, R91, R200). -/
def State.armCheck (s : State) (slot : Nat) (c : JobCfg) : Option Nat :=
  if let some code := s.armFirst slot c then some code
  else if !s.programsOk slot c then some 0x010A
  else if !s.windowsOk slot c then some 0x010B
  else none

/-- The tables of R83 are read by each unfenced region from its own copy (R83, R411). -/
def State.readsTables (s : State) (slot : Nat) : State :=
  ((List.range 4).filter fun r => !s.isFenced r).foldl (fun s r => (s.eccRead (.table r) (some slot)).2) s

/-- The state after what arming reads: the tables, and where check 9 is reached the identity words of the slices (R83,
R126, R314, R331). -/
def State.readsIdentity (s : State) (slot : Nat) (c : JobCfg) : State :=
  let first := s.armFirst slot c
  let s := s.readsTables slot
  if first.isSome then s
  else
    c.slices.foldl (fun s x =>
      match c.window x.win with
      | some w => (s.readWord (w.addr (x.off + 0x20)) (some slot)).2
      | none => s) s

/-! ### The configuration digest (R386) -/

/-- The items of R386, each as a 32-bit word. -/
def State.digestWords (s : State) (slot : Nat) (c : JobCfg) : List Word :=
  [word (c.len / 16 - 1), word c.nchunks, s.tbl .job slot 5, s.tbl .job slot 6] ++
  ((List.range 128).map fun i => s.tbl .job slot (32 + i)) ++
  (c.groups.flatMap fun g => [word g.index, word g.size, word (twos 9 g.floor), word g.fanin,
    word g.intMode.toNat, word g.result64.toNat, word g.classP.toNat]) ++
  (c.slices.flatMap fun x => [word x.first, word x.nchunk, word (x.unit - 1), word x.desc,
    word (x.planes - 1), word x.feedOrder.toNat, word x.freezeEn.toNat]) ++
  (if c.groups.any (·.classP) then
    word c.plan.cgroup :: c.plan.rows.flatMap fun r => [word r.first, word r.count, word r.role, word r.s, word r.upS]
   else [])

/-- The configuration digest. -/
def State.configDigest (s : State) (slot : Nat) (c : JobCfg) : Digest := Config.shake256 (wordBytes (s.digestWords slot c))

/-! ### Entry to ARMED -/

/-- The counters of a slot that arming clears (R81, R89, R150). -/
def State.clearSlotCounters (s : State) (slot : Nat) : State :=
  (List.range 4).foldl (fun s r =>
    if s.isFenced r then s
    else
      let s := [Off.RST_DROP_UNGRANTED, Off.RST_DROP_FORMAT, Off.RST_DROP_SEGMENT, Off.RST_DROP_DUP].foldl
        (fun s o => s.setReg (pgRst r) o 0 slot) s
      [Off.RGC_DROP_INACTIVE, Off.RGC_DROP_LATE, Off.RGC_WIN_REFUSED].foldl
        (fun s o => s.setReg (pgRgc r) o 0 slot) s) s

/-- The reserved Comet slots are idle with expected round 0 (R113). -/
def State.clearComet (s : State) (r base count : Nat) : State :=
  { s with comet := s.comet.drop fun k => decide (r * 1024 + base ≤ k ∧ k < r * 1024 + base + count) }

/-- The pacing buckets of a job's regions hold what the spec leaves open at arming (R274). -/
def State.openBuckets (s : State) (slot : Nat) (c : JobCfg) : State :=
  (maskBits c.homeMask).foldl (fun s r =>
    let (v, s) := s.fresh
    { s with red := { s.red with pace := s.red.pace.put 0 (r * 1024 + slot) (v % (max 1 c.paceBurst * 65536 + 1)) } }) s

/-- The slots of a Comet reservation are taken from P2 (R229, R230). -/
def State.reserveComet (s : State) (slot : Nat) (c : JobCfg) : State :=
  if c.cmtCount = 0 then s
  else
    let before := s.poolLevel 2 c.cmtRegion
    let a : Alloc := { pool := 2, region := c.cmtRegion, base := c.cmtBase, n := c.cmtCount, req := slot }
    (({ s with sw := { s.sw with allocs := s.sw.allocs ++ [a] } }).watchLevel 2 c.cmtRegion before (some slot))

/-- Entry to ARMED (R20, R90): the configuration is fixed with its digest and logged. -/
def State.armJob (s : State) (slot : Nat) (chit : Word) (start : Angle) (first : Word) (c : JobCfg) : State :=
  let c := { c with digest := s.configDigest slot c }
  let s := (s.clearSlotCounters slot).clearComet c.cmtRegion c.cmtBase c.cmtCount
  let s := s.modJob slot fun _ =>
    { st := .armed, cfg := some c, armChit := some chit, startAngle := start, firstStep := first }
  let s := { s with
    red := { s.red with lag := s.red.lag.drop fun k => k / 4096 == slot, nextChunk := s.red.nextChunk.drop fun k => k % 1024 == slot },
    feeds := s.feeds.drop fun i => c.slices.any fun x => x.index == i }
  ((s.reserveComet slot c).openBuckets slot c).attest .arm (leBytes 2 c.id ++ digestBytes c.digest)

end Sys2Proof.Machine
end

