-- ==== Sys2Proof/Machine/Blocks.lean ====
section
/-!
DEFINITION. Compute blocks as the rest of the module sees them: operand queues
(spec/06_engine_isa.md R156 to R159), program sets, their captures and their stop
(R183, R184, spec/07_program_loader.md R187, R205, R206).
-/

namespace Sys2Proof.Machine

/-! ### Operand queues -/

/-- Queue `q` of a block. -/
def CpbSt.queue (c : CpbSt) (q : Nat) : Queue := c.queues.look {} q

/-- Queue `q` of a block changed by `f`. -/
def CpbSt.modQueue (c : CpbSt) (q : Nat) (f : Queue → Queue) : CpbSt := { c with queues := c.queues.upd {} q f }

/-- Entries that a queue can still take (R151). -/
def Queue.room (q : Queue) : Nat := 32 - q.entries.length

/-- A queue with one more entry. -/
def Queue.push (q : Queue) (e : List Byte) : Queue := { q with entries := q.entries ++ [e] }

/-- Bytes that a consumer can take. -/
def Queue.avail (q : Queue) : Nat := q.entries.foldl (fun n e => n + e.length) 0 - q.cursor

/-- The next `n` bytes of a queue. -/
def Queue.peek (q : Queue) (n : Nat) : List Byte := (q.entries.flatten.drop q.cursor).take n

/-- The entries that taking bytes up to cursor `k` pops, and what is left with its cursor (R156). -/
def popTo : List (List Byte) → Nat → List (List Byte) × List (List Byte) × Nat
  | [], k => ([], [], k)
  | e :: t, k =>
    if e.length ≤ k then
      let (gone, rest, c) := popTo t (k - e.length)
      (e :: gone, rest, c)
    else ([], e :: t, k)

/-- Takes `n` bytes from a queue: the popped entries and the queue after. -/
def Queue.take (q : Queue) (n : Nat) : List (List Byte) × Queue :=
  let (gone, rest, c) := popTo q.entries (q.cursor + n)
  (gone, { q with entries := rest, cursor := if rest.isEmpty then 0 else c })

/-- Output bytes cut into entries of 1,024 bytes and a remainder (R157). -/
def toEntries (b : List Byte) : List (List Byte) := chunksOf 1024 (b.length / 1024 + 1) b

/-- A push with `pack` = 0: an open tail goes first (R157). -/
def Queue.pushWhole (q : Queue) (b : List Byte) : Queue :=
  let t := if q.tail.isEmpty then [] else [q.tail]
  { q with entries := q.entries ++ t ++ toEntries b, tail := [] }

/-- A push with `pack` = 1: bytes join the open tail, which is pushed whenever it is full (R157). -/
def Queue.pushPacked (q : Queue) (b : List Byte) : Queue :=
  let all := q.tail ++ b
  let full := all.length / 1024 * 1024
  { q with entries := q.entries ++ toEntries (all.take full), tail := all.drop full }

/-- Entries that a push of `n` bytes adds. -/
def Queue.needs (q : Queue) (pack : Bool) (n : Nat) : Nat :=
  if pack then (q.tail.length + n) / 1024 else (if q.tail.isEmpty then 0 else 1) + (n + 1023) / 1024

/-! ### Streams and sets -/

/-- Stream `i` of a block. -/
def CpbSt.stream (c : CpbSt) (i : Nat) : Stream := c.streams.look {} i

/-- Stream `i` of a block changed by `f`. -/
def CpbSt.modStream (c : CpbSt) (i : Nat) (f : Stream → Stream) : CpbSt := { c with streams := c.streams.upd {} i f }

/-- Address generator `i` of a block. -/
def CpbSt.ag (c : CpbSt) (i : Nat) : Ag := c.ags.look {} i

/-- Accumulator `a` of cell `m` of a block. -/
def CpbSt.acc (c : CpbSt) (m a : Nat) : Acc := c.accs.look {} (4 * m + a)

/-- The set and placement of stream `i`. -/
def CpbSt.placed (c : CpbSt) (i : Nat) : Option (ProgSet × Placed) :=
  c.sets.findSome? fun p => (p.streams.find? fun t => t.stream == i).map fun t => (p, t)

/-- The set of a job slot changed by `f`. -/
def CpbSt.modSet (c : CpbSt) (slot : Nat) (f : ProgSet → ProgSet) : CpbSt :=
  { c with sets := c.sets.map fun p => if p.slot = slot then f p else p }

/-- Stream `i` of a set is declared to hold something by bit `b` of a mask. -/
def ProgSet.ors (p : ProgSet) (f : Placed → Nat) : Nat := p.streams.foldl (fun n t => Nat.lor n (f t)) 0

/-- The summary of a set, in the layout of `CPB_EXC_SUMMARY` (R183, R186). -/
def ProgSet.summary (p : ProgSet) : Word :=
  match p.exc with
  | some e => word (p.cond.toNat + e.code * 2 ^ 8 + e.stream * 2 ^ 16)
  | none => word p.cond.toNat

/-- The exception capture of a set, in the layout of `CPB_EXC_STAT`. -/
def ProgSet.excStat (p : ProgSet) : Word :=
  match p.exc with
  | some e => word (e.code + e.stream * 2 ^ 8 + 2 ^ 31)
  | none => 0

/-- The captured instruction index, in the layout of `CPB_EXC_PC`. -/
def ProgSet.excPc (p : ProgSet) : Word := match p.exc with | some e => word e.pc | none => 0

/-- The status of the second completion of a set that stops because its job failed (R206). -/
def ProgSet.failStatus (p : ProgSet) : Nat :=
  match p.exc with
  | some e => if e.code = 0x0A then 0x0307 else 0x0306
  | none => 0x0612

/-- A stopped stream issues nothing more. -/
def Stream.stop (st : StreamState) (x : Stream) : Stream :=
  { x with st := if x.st = .faulted then .faulted else st, cause := 0 }

/-- What a set's streams had in hand is discarded: queue contents, transfers, operations of the vector unit
and instructions that wait for the cells (R184). -/
def CpbSt.discard (c : CpbSt) (p : ProgSet) : CpbSt :=
  let qs := Nat.lor (p.ors (·.qProd)) (p.ors (·.qCons))
  let ags := p.ors (·.ags)
  let accs := p.ors (·.accs)
  let c := { c with queues := c.queues.drop fun q => qs.testBit q }
  let c := p.streams.foldl (fun c t => c.modStream t.stream fun x => { x with vec := [], sets := [] }) c
  let c := (List.range 8).foldl (fun c i =>
    if ags.testBit i then { c with ags := c.ags.upd {} i fun a => { a with cur := none } } else c) c
  (List.range 32).foldl (fun c i =>
    if accs.testBit i then { c with accs := c.accs.upd {} i fun a => { a with buffer := [] } } else c) c

/-- A set stops with a status: its streams halt, and the second completion of its load chit is made
(R205, R206). -/
def State.stopSet (s : State) (b slot status : Nat) (drop : Bool) : State :=
  match (s.cpb b).setOf slot with
  | none => s
  | some p =>
    if p.stopped then s
    else
      let s := s.modCpb b fun c =>
        let c := if drop then c.discard p else c
        let c := p.streams.foldl (fun c t => c.modStream t.stream (Stream.stop .halted)) c
        c.modSet slot fun q => { q with stopped := true }
      s.record p.chit status true [p.summary, p.excStat, p.excPc]

/-- Every set of a job stops because the job failed (R205). A set that has stopped loses what its streams had left in
queues and engines (R184). -/
def State.failSets (s : State) (slot : Nat) : State :=
  (List.range 32).foldl (fun s b =>
    match (s.cpb b).setOf slot with
    | some p => if p.stopped then s.modCpb b fun c => c.discard p else s.stopSet b slot p.failStatus true
    | none => s) s

/-- The streams of a job are all stopped (R93). -/
def State.setsStopped (s : State) (slot : Nat) : Bool := (s.setsOf slot).all fun (_, p) => p.stopped || !p.started

/-- A set is released: its placement, store words and resources become free (R187). -/
def CpbSt.release (c : CpbSt) (slot : Nat) : CpbSt :=
  match c.setOf slot with
  | none => c
  | some p =>
    { c with
      sets := c.sets.filter fun q => q.slot ≠ slot
      streams := c.streams.drop fun i => p.streams.any fun t => t.stream == i
      queues := c.queues.drop fun q => (Nat.lor (p.ors (·.qProd)) (p.ors (·.qCons))).testBit q
      ags := c.ags.drop fun i => (p.ors (·.ags)).testBit i
      sregs := c.sregs.drop fun i => (p.ors (·.sregs)).testBit i
      accs := c.accs.drop fun i => (p.ors (·.accs)).testBit i }

/-- A set that is released without having run completes its load chit too: the job ended (R206). -/
def State.releaseSets (s : State) (slot : Nat) : State :=
  (List.range 32).foldl (fun s b =>
    match (s.cpb b).setOf slot with
    | some p =>
      let s := if p.stopped then s else s.stopSet b slot 0x0611 true
      s.modCpb b fun c => c.release slot
    | none => s) s

/-- A fence of the block's region releases every set of the block, those of DEFINED jobs too (R187). -/
def State.fenceBlock (s : State) (b : Nat) : State :=
  ((s.cpb b).sets.map fun p => (p.slot, p.failStatus)).foldl (fun s x =>
    (s.stopSet b x.1 x.2 true).modCpb b fun c => c.release x.1) s

/-! ### Errors of the words that a block holds (R14, R185) -/

/-- An uncorrectable word of the instruction store or of a queue: the job that owns it fails. The capture names the
place as the block numbers it (notes/assumptions/115.md). -/
def State.storeUe (s : State) (b slot unit akind addr : Nat) : State :=
  (s.countUe (pgCpb b)).raise
    { pg := pgCpb b, ev := 2, unit := unit, access := if akind = 7 then 8 else 1, akind := akind, addr := addr,
      syn := s.ueSyndrome (pgCpb b) (akind * 2 ^ 20 + addr), job := some slot,
      act := [.failJob slot 0x0306] }

/-- What a reader of queues of a block comes to, where it comes to `u` without errors: corrected words are counted and
stand corrected; an uncorrectable one raises `store_ue` for the reader's job in place of all else. -/
def State.readingQueues (s : State) (b slot unit : Nat) (qs : List Nat) (u : State) : State :=
  match qs.find? fun q => 2 ≤ ((s.cpb b).queue q).err with
  | some q => s.storeUe b slot unit 6 q
  | none =>
    (qs.filter fun q => ((s.cpb b).queue q).err == 1).foldl (fun u q =>
      (u.countCe (pgCpb b)).modCpb b fun c => c.modQueue q fun x => { x with err := 0 }) u

/-! ### Round robin (R155) -/

/-- Of `n` members served in round robin behind `last`, it is the turn of `i`: it is ready, and none between is. -/
def roundRobin (n last i : Nat) (ready : Nat → Bool) : Bool :=
  ready i && (List.range ((i + n - 1 - last) % n)).all fun k => !ready ((last + 1 + k) % n)

end Sys2Proof.Machine
end

