-- ==== Sys2Proof/Machine/Feeds.lean ====
section
/-!
DEFINITION. The feed of parameter slices: records, unit buffers, the commit word and the
distribution port (spec/05_parameter_service.md R128 to R140).
-/

namespace Sys2Proof.Machine

/-- The job that holds slice `i`, with its configuration and the slice. -/
def State.sliceOwner (s : State) (i : Nat) : Option (Nat × JobCfg × SliceCfg) :=
  s.jobs.findSome? fun kv =>
    match kv.2.cfg with
    | some c => (c.slices.find? fun x => x.index == i).map fun x => (kv.1, c, x)
    | none => none

/-- The commit word of a slice: generation, step, attempt, area (R128). -/
structure CommitWord where
  gen : Nat
  step : Nat
  attempt : Nat
  area : Bool
  deriving DecidableEq, Repr

/-- The fields of the 16 bytes of a commit word. -/
def CommitWord.parse (b : List Byte) : CommitWord :=
  { gen := leAt b 0 4, step := leAt b 4 4, attempt := leAt b 8 1, area := (leAt b 9 1).testBit 0 }

/-- The 16 bytes of a commit word. -/
def CommitWord.bytes (w : CommitWord) : List Byte :=
  leBytes 4 w.gen ++ leBytes 4 w.step ++ leBytes 1 w.attempt ++ leBytes 1 w.area.toNat ++ List.replicate 6 0

/-- The commit word of a slice as memory holds it; LH8120 units act under the slice table (R321). What these units
take an uncorrectable commit word for is left open (DESIGN CHOICE, notes/assumptions/110.md). -/
def State.commitWord (s : State) (c : JobCfg) (x : SliceCfg) : CommitWord :=
  match c.window x.win with
  | some w =>
    let a := w.addr x.off
    CommitWord.parse (((s.readWord a).1).getD (leBytes 16 (Config.wordCode a 0).2))
  | none => CommitWord.parse []

/-- The state after the demand read of the slice's commit word (R314, R331). -/
def State.readsCommit (s : State) (slot : Nat) (c : JobCfg) (x : SliceCfg) : State :=
  match c.window x.win with
  | some w => (s.readWord (w.addr x.off) (some slot)).2
  | none => s

/-- A feed record of 32 bytes in an entry of 1,024 bytes (R131, R159). -/
def feedRecord (kind slice : Nat) (step : Word) (attempt : Byte) (area : Bool) (gen unit buf count : Nat) : List Byte :=
  padTo 1024 (leBytes 1 kind ++ [0] ++ leBytes 2 slice ++ leBytes 4 step.toNat ++ [attempt] ++
    leBytes 1 area.toNat ++ [0, 0] ++ leBytes 4 gen ++ leBytes 4 unit ++ leBytes 4 buf ++ leBytes 4 count)

/-- Byte offset of the buffer of a unit in its slice area (R127, R130). -/
def SliceCfg.unitBuf (x : SliceCfg) (len u : Nat) : Nat := x.staging len + u % x.sbuf * (4 * x.unit * len)

/-- Room for one more entry in the slice's feed queue. -/
def State.feedRoom (s : State) (x : SliceCfg) : Bool := decide (0 < ((s.cpb x.block).queue x.feedq).room)

/-- Pushes a record into the slice's feed queue. -/
def State.pushFeed (s : State) (x : SliceCfg) (rec_ : List Byte) : State :=
  s.modCpb x.block fun c => c.modQueue x.feedq fun q => q.push rec_

/-- The unit whose UNIT record is pushed next: in completion order, or in index order (R130). -/
def Feed.nextUnit (f : Feed) (x : SliceCfg) : Option Nat :=
  if x.feedOrder then
    match leastBelow x.units fun u => !f.pushed.contains u with
    | some u => if f.completed.contains u then some u else none
    | none => none
  else f.completed.find? fun u => !f.pushed.contains u

/-- The distribution format of a slice (R138). -/
def JobCfg.distFmt (c : JobCfg) (x : SliceCfg) : Nat := (c.descs.getD x.desc ⟨0, 0, false, 0, 0, 0, 0⟩).fmt

/-- Bytes of a generation that its open distribution port has still to take. -/
def Dist.left (c : JobCfg) (x : SliceCfg) (d : Dist) : Nat :=
  storedSize (c.distFmt x) (x.n c.len) - storedSize (c.distFmt x) d.sent

/-- What a distribution queue keeps when ABANDONED is pushed: the rest of the committed generations
(R140). -/
def State.trimDist (s : State) (c : JobCfg) (x : SliceCfg) : State :=
  let keep := (s.feed x.index).dists.foldl (fun n d => n + Dist.left c x d) 0
  s.modCpb x.block fun b => b.modQueue x.distq fun q =>
    let held := q.avail
    if held ≤ keep then { q with tail := q.tail.take (keep - held) }
    else { entries := toEntries (q.peek keep), cursor := 0, tail := [] }

/-- Pushes the last record of a slice's instance, COMMITTED or ABANDONED (R132, R135, R136, R140). -/
def State.pushLast (s : State) (slot : Nat) (c : JobCfg) (x : SliceCfg) (inst : Word × Byte) (committed : Bool) : State :=
  let w := s.commitWord c x
  let s := (s.readsCommit slot c x).pushFeed x (feedRecord (if committed then 3 else 4) x.index inst.1 inst.2 w.area w.gen 0 0 0)
  let s := if committed then s else s.trimDist c x
  let port : List Dist := if committed then [{ gen := word w.gen, step := inst.1, attempt := inst.2 }] else []
  s.modFeed x.index fun f =>
    { pendingOpen := f.pendingOpen, ended := if committed then f.ended else inst :: f.ended, dists := f.dists ++ port }

/-- One push that the feed hardware can make now: a UNIT record, or the last record. -/
def State.pumpOnce (s : State) (i : Nat) : State :=
  match s.sliceOwner i with
  | none => s
  | some (slot, c, x) =>
    let f := s.feed i
    match f.opened with
    | none => s
    | some inst =>
      if !s.feedRoom x then s
      else
        match f.last with
        | some k => s.pushLast slot c x inst k
        | none =>
          match f.nextUnit x with
          | none => s
          | some u =>
            let w := s.commitWord c x
            let r := feedRecord 2 i inst.1 inst.2 w.area w.gen u (x.unitBuf c.len u) (x.unit * c.len)
            ((s.readsCommit slot c x).pushFeed x r).modFeed i fun f => { f with pushed := f.pushed ++ [u] }

/-- The feed hardware of a slice pushes what it can: a queue takes at most 32 entries. -/
def State.pump (s : State) (i : Nat) : State := (List.range 33).foldl (fun s _ => s.pumpOnce i) s

/-- The slices whose feed queue is queue `q` of block `b`. -/
def State.feedsOn (s : State) (b q : Nat) : List Nat :=
  (s.feeds.map (·.1)).filter fun i =>
    match s.sliceOwner i with
    | some (_, _, x) => x.block == b && x.feedq == q
    | none => false

/-- The program popped an entry of a feed queue: a buffer that waited for it is freed, and a UNIT record
marks its unit popped (R130, R134). -/
def State.feedPop (s : State) (b q : Nat) (entry : List Byte) : State :=
  let kind := leAt entry 0 1
  let slice := bits (leAt entry 2 2) 0 12
  (s.feedsOn b q).foldl (fun s i =>
    let s := s.modFeed i fun f =>
      let f := match f.toFree with
        | some u => { f with freed := f.freed ++ [u], toFree := none }
        | none => f
      if kind = 2 ∧ slice = i then
        { f with popped := f.popped ++ [leAt entry 16 4], toFree := some (leAt entry 16 4) }
      else f
    s.pump i) s

/-- A unit has claimed its buffer: a chunk of it has been delivered (R130). -/
def Feed.claimed (f : Feed) (x : SliceCfg) (u : Nat) : Bool := f.delivered.any fun k => (k - x.first) / x.unit == u

/-- A unit can take a chunk: its buffer is claimed already, or free and every lower unit has claimed its own (R130). -/
def Feed.bufferFree (f : Feed) (x : SliceCfg) (u : Nat) : Bool :=
  f.claimed x u ||
  ((u == 0 || f.claimed x (u - 1)) && (decide (u < x.sbuf) || f.freed.contains (u - x.sbuf)))

/-- The instance opens on the module: the OPEN record of each slice waits its turn (R132). -/
def State.feedOpenInst (s : State) (c : JobCfg) (step : Word) (attempt : Byte) : State :=
  c.slices.foldl (fun s x => s.modFeed x.index fun f =>
    { f with pendingOpen := f.pendingOpen ++ [(step, attempt, .running)] }) s

/-- The coordinator reports an instance sealed to the slices (R135). -/
def State.feedSeal (s : State) (c : JobCfg) (step : Word) (attempt : Byte) : State :=
  c.slices.foldl (fun s x => s.modFeed x.index fun f =>
    if f.opened = some (step, attempt) then { f with sealed := true }
    else { f with pendingOpen := f.pendingOpen.map fun p => if p.1 = step ∧ p.2.1 = attempt then (p.1, p.2.1, .sealed) else p }) s

/-- The entries of a feed queue without the UNIT records of one slice's instance (R136). -/
def dropUnits (slice : Nat) (step : Word) (attempt : Byte) (q : Queue) : Queue :=
  let mine (e : List Byte) : Bool := leAt e 0 1 == 2 && bits (leAt e 2 2) 0 12 == slice &&
    leAt e 4 4 == step.toNat && leAt e 8 1 == attempt.toNat
  let head := match q.entries.head? with | some e => mine e | none => false
  { q with entries := q.entries.filter fun e => !mine e, cursor := if head then 0 else q.cursor }

/-- A slice whose commit word for the open record's instance is not written drops it: request, unpopped
UNIT records, deliveries and buffers go, and ABANDONED is pushed (R136). -/
def State.feedDrop (s : State) (x : SliceCfg) : State :=
  match (s.feed x.index).opened with
  | none => s
  | some inst =>
    if (s.feed x.index).last = some true then s
    else
      let s := s.modCpb x.block fun c => c.modQueue x.feedq (dropUnits x.index inst.1 inst.2)
      let s := s.modFeed x.index fun f =>
        { f with request := false, requestWaits := [], delivered := [], completed := [], pushed := [], popped := [],
                 freed := [], toFree := none, last := some false }
      s.pump x.index

/-- An instance is abandoned (R136): the slice whose OPEN of it is pushed drops it; a waiting OPEN will be
followed by ABANDONED. -/
def State.feedAbandon (s : State) (c : JobCfg) (step : Word) (attempt : Byte) : State :=
  c.slices.foldl (fun s x =>
    if (s.feed x.index).opened = some (step, attempt) then s.feedDrop x
    else s.modFeed x.index fun f =>
      { f with pendingOpen := f.pendingOpen.map fun p => if p.1 = step ∧ p.2.1 = attempt then (p.1, p.2.1, .abandoned) else p }) s

/-- A job failed: no slice that has not committed is committed afterwards (R22, R136). -/
def State.feedFail (s : State) (c : JobCfg) : State :=
  c.slices.foldl (fun s x =>
    (s.feedDrop x).modFeed x.index fun f =>
      { f with pendingOpen := f.pendingOpen.map fun p => (p.1, p.2.1, .abandoned) }) s

end Sys2Proof.Machine
end

