-- ==== Sys2Proof/Machine/Steps.lean ====
section
/-!
DEFINITION. Step instances: chunk records, grants and notices, seal, abandonment, retirement
and failure of jobs (spec/04_collectives.md R90 to R93, R99 to R112; spec/03_exact_reduction.md
R62, R70, R75 to R77).
-/

namespace Sys2Proof.Machine

/-! ### Frames that units wait to build (R235) -/

/-- A unit waits to build a frame; a unit of a fenced region builds none (R16). -/
def State.build (s : State) (b : Build) : State :=
  if s.isFenced b.region then s else { s with sw := { s.sw with builds := s.sw.builds ++ [b] } }

/-- The region that coordinates a job: the lowest unfenced region of its mask, or its lowest (R100). -/
def State.coord (s : State) (c : JobCfg) : Nat :=
  let l := maskBits c.homeMask
  (l.find? fun r => !s.isFenced r).getD (l.headD 0)

/-- The header of a GRANT of an instance. -/
def grantHdr (c : JobCfg) (flags group member fmt step chunk attempt off : Nat) : LfpHeader :=
  { version := 1, type := 3, tc := 3, flags := flags, job := c.id, group := group, member := member,
    format := fmt, cls := c.cgrp.classP.toNat, step := step, chunk := chunk, attempt := attempt,
    elemOffset := off, count := 0 }

/-- Notice flags of R95. -/
abbrev flSeal : Nat := 2
abbrev flOpen : Nat := 4
abbrev flAbandon : Nat := 8

/-- A notice of the job's instance to some targets. -/
def State.notice (s : State) (slot : Nat) (c : JobCfg) (flags group member off : Nat) (ts : List Target) : State :=
  let i := (s.job slot).inst
  if ts.isEmpty then s
  else
    let h := grantHdr c flags group member 0 i.step.toNat 0 i.attempt.toNat off
    s.build { region := s.coord c, slot := some slot, hdr := h, payload := [], targets := ts }

/-- A notice to every contributor, in increasing member index. -/
def State.toContributors (s : State) (slot : Nat) (c : JobCfg) (flags off : Nat) : State :=
  (c.cgrp.members.zipIdx).foldl (fun s (m, i) => s.notice slot c flags c.plan.cgroup i off [m.target]) s

/-- A notice to each distinct parent of the leaf rows (R107, R108). -/
def State.toParents (s : State) (slot : Nat) (c : JobCfg) (flags : Nat) : State :=
  let rows := c.plan.rows.filter fun r => r.role == 1
  let firsts := rows.zipIdx.filter fun (r, i) => !(rows.take i).any fun q => q.upDest == r.upDest
  firsts.foldl (fun s (r, _) => s.notice slot c flags r.upGroup r.upMember 0 [.remote r.upDest]) s

/-- A seal notice to every `rgroup` of the rows that send RESULT (R106), one stored copy each. -/
def State.toResultGroups (s : State) (slot : Nat) (c : JobCfg) : State :=
  let gs := (c.plan.rows.filter PlanRow.results).map (·.rgroup)
  let firsts := gs.zipIdx.filter fun (g, i) => !(gs.take i).contains g
  firsts.foldl (fun s (g, _) =>
    match c.group g with
    | some x => s.notice slot c flSeal c.plan.cgroup 0 0 (x.members.map Member.target)
    | none => s) s

/-! ### Chunk records (R70, R77) -/

/-- A chunk record belongs to an instance. -/
def Chunk.ofInst (k : Chunk) (slot : Nat) (step : Word) (attempt : Byte) : Bool :=
  k.slot == slot && k.step == step && k.attempt == attempt

/-- Two names of one chunk record. -/
def Chunk.same (a b : Chunk) : Bool := a.ofInst b.slot b.step b.attempt && a.index == b.index

/-- The record of a chunk of an instance. -/
def State.chunkOf (s : State) (slot : Nat) (step : Word) (attempt : Byte) (index : Nat) : Option Chunk :=
  s.red.chunks.find? fun k => k.ofInst slot step attempt && k.index == index

/-- The record of a chunk replaced. -/
def State.putChunk (s : State) (k : Chunk) : State :=
  { s with red := { s.red with chunks := s.red.chunks.map fun x => if x.same k then k else x } }

/-- The chunk's accumulator entries return to P1 (R76). -/
def State.freeEntries (s : State) (k : Chunk) : State :=
  match k.ptr1 with
  | some u => s.poolGive 1 k.region k.slot u
  | none => s

/-- A chunk record goes: its descriptor blocks, entries and cells return (R77). -/
def State.dropChunk (s : State) (k : Chunk) : State :=
  let s := s.freeEntries k
  let s := match k.ptr0 with | some u => s.poolGive 0 k.region (jobReq k.slot) u | none => s
  let s := match k.ptr4 with | some u => s.poolGive 4 k.region k.slot u | none => s
  { s with red := { s.red with chunks := s.red.chunks.filter fun x => !x.same k } }

/-- The chunk is complete on this module (R106): finished, or waiting only for its unit buffer. -/
def Chunk.isComplete (k : Chunk) : Bool :=
  match k.phase with | .finished | .waitingFeed => true | _ => false

/-- Addends of a chunk that its cell has not applied. -/
def State.queued (s : State) (k : Chunk) : Bool :=
  (s.red.cellQ.look [] (k.region * 16 + k.cell)).any fun a =>
    a.slot == k.slot && a.step == k.step && a.attempt == k.attempt && a.chunk == k.index

/-- Addends of an instance that some cell has not applied (R23). -/
def State.queuedInst (s : State) (slot : Nat) (step : Word) (attempt : Byte) : Bool :=
  s.red.cellQ.any fun kv => kv.2.any fun a => a.slot == slot && a.step == step && a.attempt == attempt

/-! ### Condition records (R62) -/

/-- The conditions of the open instance of a slot in a region, changed by `f`. -/
def State.modCond (s : State) (r slot : Nat) (f : CondAcc → CondAcc) : State :=
  { s with red := { s.red with cond := s.red.cond.upd {} (r * 1024 + slot) f } }

/-- The lower of an optional and a given chunk index. -/
def lowOf (o : Option Nat) (k : Nat) : Option Nat := match o with | some x => some (min x k) | none => some k

/-- A word of a condition record: a chunk and its valid bit. -/
def condWord (o : Option Nat) : Word := match o with | some k => word (k + 2 ^ 31) | none => 0

/-- The condition record of a region is replaced when the instance ends (R62, R81). -/
def State.writeCond (s : State) (r slot : Nat) (step : Word) (sealed : Bool) : State :=
  if s.isFenced r then s
  else
    let c := s.red.cond.look {} (r * 1024 + slot)
    let flags := c.nanOut.toNat + 2 * c.infOut.toNat + 4 * c.invalid.toNat + 8 * c.overflow.toNat +
      16 * c.belowFloor.toNat + 32 * c.fault.toNat + 64 * sealed.toNat
    let pg := pgRst r
    let s := (((((s.setReg pg Off.RST_COND_STEP step slot).setReg pg Off.RST_COND_FLAGS (word flags) slot).setReg
      pg Off.RST_COND_NAN (condWord c.nanLow) slot).setReg pg Off.RST_COND_OVF (condWord c.ovfLow) slot).setReg
      pg Off.RST_COND_BF (condWord c.bfLow) slot).setReg pg Off.RST_COND_FAULT (condWord c.faultLow) slot
    s.modCond r slot fun _ => {}

/-! ### Laggard counters (R111) -/

/-- A segment of contributor `i` arrived. -/
def State.lagArrive (s : State) (slot i : Nat) : State :=
  { s with red := { s.red with lag := s.red.lag.upd {} (slot * 4096 + i) fun l =>
    { n := l.n + 1, angle := s.angle, at_ := s.orb.marks * 65536 + s.angle.toNat % 65536 } } }

/-- The slowest contributor: fewest segments, then the latest last arrival, then the lowest index. Two that sent
nothing are as late as each other. -/
def State.slowest (s : State) (slot size : Nat) : Option Nat :=
  let l (i : Nat) : Lag := s.red.lag.look {} (slot * 4096 + i)
  let worse (a b : Nat) : Bool := decide ((l a).n < (l b).n) || ((l a).n == (l b).n && decide ((l b).at_ < (l a).at_))
  (List.range size).foldl (fun m i =>
    match m with
    | none => some i
    | some j => if worse i j then some i else some j) none

/-- The counts of an ended instance are copied to the registers and start anew. -/
def State.lagEnd (s : State) (slot size : Nat) : State :=
  let keys := (List.range size).map fun i => slot * 4096 + i
  let s := keys.foldl (fun s k =>
    let l := s.red.lag.look {} k
    { s with red := { s.red with lagArrived := s.red.lagArrived.put 0 k l.n, lagLast := s.red.lagLast.put 0 k l.angle.toNat } }) s
  { s with red := { s.red with lag := s.red.lag.drop fun k => k / 4096 == slot } }

/-! ### Opening (R104, R105) -/

/-- Travel from `a` to the deadline of R105: the first instant at least `min` away. -/
def deadlineTravel (a phase : Angle) (min n : Nat) : Nat :=
  min + (phase.toNat + 2 ^ 34 - a.toNat - min) % 2 ^ n

/-- A fresh instance is open on the module: condition and lag counts start, and the slices see it. -/
def State.beginInst (s : State) (slot : Nat) (c : JobCfg) (i : Instance) : State :=
  let s := s.modJob slot fun j => { j with inst := i }
  let s := (List.range 4).foldl (fun s r => s.modCond r slot fun _ => {}) s
  let s := { s with red := { s.red with
    lag := s.red.lag.drop (fun k => k / 4096 == slot),
    nextChunk := s.red.nextChunk.drop fun k => k % 1024 == slot } }
  s.feedOpenInst c i.step i.attempt

/-- The root coordinator opens an instance and sends its open notices (R104, R105). -/
def State.openRoot (s : State) (slot : Nat) (c : JobCfg) (step : Word) (attempt : Byte) : State :=
  let d := deadlineTravel s.angle c.dlPhase c.dlMin c.periodLog
  let dl : Angle := s.angle + BitVec.ofNat 32 d
  let s := s.beginInst slot c
    { step := step, attempt := attempt, phase := .opened, deadline := dl, skip := (d - 1) / 2 ^ 32 }
  s.toContributors slot c flOpen dl.toNat

/-- An open instance of the job that is not sealed. -/
def Job.isOpen (j : Job) : Bool := j.inst.phase == .opened

/-- The deadline angle of the job's instance has passed (R23). -/
def Job.late (j : Job) : Bool := j.lateOf == some (j.inst.step, j.inst.attempt)

/-- Every chunk that the module homes is complete, and every partial of it is sent: a partial counts as sent once
it is stored in the packet buffer, whence its ports take it (DESIGN CHOICE, notes/assumptions/104.md). -/
def State.allComplete (s : State) (slot : Nat) (c : JobCfg) : Bool :=
  let i := (s.job slot).inst
  let done := s.red.chunks.filter fun k => k.ofInst slot i.step i.attempt && k.isComplete
  done.length == c.homed &&
  !(s.sw.builds.any fun b => b.hdr.job == c.id && b.hdr.type == 1 && b.hdr.step == i.step.toNat && b.hdr.attempt == i.attempt.toNat)

/-- Every ready notice that R107 requires has arrived. -/
def Job.readies (j : Job) (c : JobCfg) : Bool :=
  !c.plan.readyWait || (List.range c.cgrp.size).all fun m => j.inst.ready.contains m

/-- The conditions of R106 hold for the open instance. -/
def State.instDone (s : State) (slot : Nat) (c : JobCfg) : Bool :=
  (s.job slot).isOpen && s.allComplete slot c && (s.job slot).readies c

/-- A leaf coordinator whose instance has become ready tells its parents, once (R107). -/
def State.leafReady (s : State) (slot : Nat) (c : JobCfg) : State :=
  if s.instDone slot c ∧ !(s.job slot).inst.readySent then
    (s.modInst slot fun x => { x with readySent := true }).toParents slot c flSeal
  else s

/-- A leaf coordinator opens an instance on its parent's notice with the root's deadline (R105). -/
def State.openLeaf (s : State) (slot : Nat) (c : JobCfg) (step : Word) (attempt : Byte) (root : Angle) : State :=
  let s := s.beginInst slot c
    { step := step, attempt := attempt, phase := .opened, deadline := root - c.plan.dlLead }
  (s.toContributors slot c flOpen root.toNat).leafReady slot c

/-! ### The end of an instance -/

/-- The words of a step record (R110). -/
def stepWords (i : Instance) (slow : Option Nat) (cause : Nat) : List Word :=
  [i.step,
   word (i.attempt.toNat + (match slow with | some k => k * 2 ^ 8 + 2 ^ 20 | none => 0) + cause % 256 * 2 ^ 24),
   word (min i.nInvalid 0xFFFF + min i.nOverflow 0xFFFF * 2 ^ 16)]

/-- The regions of a mask record the conditions of an ended instance. -/
def State.writeConds (s : State) (slot : Nat) (c : JobCfg) (step : Word) (sealed : Bool) : State :=
  (maskBits c.homeMask).foldl (fun s r => s.writeCond r slot step sealed) s

/-- A step record against the arm chit. -/
def State.stepRecord (s : State) (slot status : Nat) (ws : List Word) : State :=
  match (s.job slot).armChit with
  | some ch => s.record ch status false ws
  | none => s

/-- The chunk records of a sealed instance go; a chunk that waits for its unit buffer keeps its entries
(R77, R130, R132). -/
def State.releaseSealed (s : State) (slot : Nat) (i : Instance) : State :=
  (s.red.chunks.filter fun k => k.ofInst slot i.step i.attempt).foldl (fun s k =>
    if k.phase = .waitingFeed then
      let s := match k.ptr4 with | some u => s.poolGive 4 k.region k.slot u | none => s
      s.putChunk { k with ptr4 := none }
    else s.dropChunk k) s

/-- The instance is sealed (R106, R110): the record, the notices, the conditions, the slices. -/
def State.sealInst (s : State) (slot : Nat) (c : JobCfg) : State :=
  let i := (s.job slot).inst
  let s := s.modInst slot fun x => { x with phase := .sealed, due := false }
  let s := ((s.releaseSealed slot i).writeConds slot c i.step true).lagEnd slot c.cgrp.size
  let s := (s.toContributors slot c flSeal 0).toResultGroups slot c
  let s := s.stepRecord slot 0x0001 (stepWords i none 0)
  let s := s.modJob slot fun j => { j with lagRun := 0, lagLast := none }
  s.feedSeal c i.step i.attempt

/-- Everything of an abandoned instance that the reduction holds goes (R77). -/
def State.discardInst (s : State) (slot : Nat) (step : Word) (attempt : Byte) : State :=
  let keep (a : Addend) : Bool := !(a.slot == slot && a.step == step && a.attempt == attempt)
  let q := List.filter (fun (kv : Nat × List Addend) => !kv.2.isEmpty) (s.red.cellQ.mapVals (fun l => l.filter keep))
  let s := { s with red := { s.red with cellQ := q } }
  (s.red.chunks.filter (fun (k : Chunk) => k.ofInst slot step attempt)).foldl (fun s k => s.dropChunk k) s

/-- The frames of an abandoned instance that no unit has stored yet are not built: a leaf sends no further
partials (R77). -/
def State.dropBuilds (s : State) (id : Nat) (step : Word) (attempt : Byte) : State :=
  let gone (b : Build) : Bool := b.hdr.job == id && b.hdr.type ≤ 2 && b.hdr.step == step.toNat && b.hdr.attempt == attempt.toNat
  let held := s.sw.builds.filter fun b => gone b && b.held.isSome
  let s := { s with sw := { s.sw with builds := s.sw.builds.filter fun b => !gone b } }
  held.foldl (fun s b =>
    match b.held, b.slot with
    | some (u, _), some j => s.poolGive 0 b.region (jobReq j) u
    | _, _ => s) s

/-- Names the slowest contributor of an abandoned instance (R111), and counts the run of R112. -/
def State.nameSlowest (s : State) (slot : Nat) (who : Option Nat) : State :=
  match who with
  | none => s
  | some k =>
    let s := { s with red := { s.red with lagNamed := s.red.lagNamed.upd 0 (slot * 4096 + k) fun n => min (n + 1) 0xFFFF } }
    s.modJob slot fun j =>
      { j with lagRun := if j.lagLast = some k then j.lagRun + 1 else 1, lagLast := some k }

/-- A chunk that the abandoned instance left unfinished has met below-floor values all the same (R62). -/
def State.noteFloor (s : State) (k : Chunk) : State :=
  if (k.phase = .active ∨ k.phase = .discarding) ∧ (k.bfHeader ∨ k.entries.any fun e => e.2.belowFloor) then
    s.modCond k.region k.slot fun x => { x with belowFloor := true, bfLow := lowOf x.bfLow k.index }
  else s

/-- The instance is abandoned with a cause, an error code of the series 0x02xx (R108, R110, R24, R77). -/
def State.endAbandoned (s : State) (slot : Nat) (c : JobCfg) (cause : Nat) : State :=
  let i := (s.job slot).inst
  let s := s.modInst slot fun x => { x with phase := .abandoned, due := false }
  let s := (s.red.chunks.filter fun k => k.ofInst slot i.step i.attempt).foldl State.noteFloor s
  let s := (s.discardInst slot i.step i.attempt).dropBuilds c.id i.step i.attempt
  let who := s.slowest slot c.cgrp.size
  let s := ((s.writeConds slot c i.step false).nameSlowest slot who).lagEnd slot c.cgrp.size
  let s := (s.toContributors slot c flAbandon 0).toParents slot c flAbandon
  let s := s.stepRecord slot 0x0002 (stepWords i who cause)
  s.feedAbandon c i.step i.attempt

/-! ### The end of a job (R22, R90, R93) -/

/-- The job drains as in abort mode (R93): the open instance is abandoned with JOB_ABORT. -/
def State.abortJob (s : State) (slot : Nat) (c : JobCfg) : State :=
  let s := s.modJob slot fun j => { j with st := .draining, aborting := true, startDue := false, openPending := none }
  if (s.job slot).isOpen then s.endAbandoned slot c 0x0208 else s

/-- A job fails with a code (R22, R93): the first failure is recorded, and it drains as in abort mode. -/
def State.failJob (s : State) (slot code : Nat) (w : Word := 0) : State :=
  let j := s.job slot
  match j.cfg with
  | none => s
  | some c =>
    if j.failure.isSome ∨ (j.st ≠ .armed ∧ j.st ≠ .running ∧ j.st ≠ .draining) then s
    else
      let s := s.modJob slot fun x => { x with failure := some code, failWord := w }
      let s := s.abortJob slot c
      let s := (s.red.chunks.filter (fun (k : Chunk) => k.slot == slot)).foldl (fun s k => s.dropChunk k) s
      (s.feedFail c).failSets slot

/-- Firmware isolates a contributor of the job: it was named slowest in `iso_steps` abandoned instances in a row
(R112). -/
def State.isolates (s : State) (slot : Nat) (c : JobCfg) : Bool :=
  let j := s.job slot
  j.inst.phase == .abandoned && s.boot.autoActive && s.rbit pgMgt Off.MGT_MODE 5 && c.isoSteps != 0 &&
  decide (c.isoSteps ≤ j.lagRun)

/-- What follows an ended instance: on the root the next step after a seal, the next attempt after an abandonment;
on a leaf the instance whose open notice waits; nothing while the job drains (R104, R109). An abandonment that
meets R112 and the limit of R109 isolates the laggard (DESIGN CHOICE, notes/assumptions/105.md). -/
def State.afterEnd (s : State) (slot : Nat) (c : JobCfg) : State :=
  let j := s.job slot
  let i := j.inst
  if j.st ≠ .running then s
  else if s.isolates slot c then
    (s.failJob slot 0x0303 (word (j.lagLast.getD 0 * 2 ^ 8 + 2 ^ 20))).logDecision 0 0 (word (j.lagLast.getD 0))
  else if c.isLeaf then
    match j.openPending with
    | some (st, at_, d) => (s.modJob slot fun x => { x with openPending := none }).openLeaf slot c st at_ d
    | none => s
  else
    match i.phase with
    | .sealed => s.openRoot slot c (i.step + 1) 0
    | .abandoned =>
      if i.attempt.toNat + 1 ≥ c.attLimit then s.failJob slot 0x0302 else s.openRoot slot c i.step (i.attempt + 1)
    | _ => s

/-- The open instance is abandoned, and what follows opens. -/
def State.abandonInst (s : State) (slot cause : Nat) : State :=
  match (s.job slot).cfg with
  | some c => if (s.job slot).isOpen then (s.endAbandoned slot c cause).afterEnd slot c else s
  | none => s

/-! ### Progress of an instance (R106, R107) -/

/-- The open instance seals, or becomes ready, where its conditions hold (R106, R107). -/
def State.progress (s : State) (slot : Nat) : State :=
  match (s.job slot).cfg with
  | none => s
  | some c =>
    if c.isLeaf then s.leafReady slot c
    else if s.instDone slot c then (s.sealInst slot c).afterEnd slot c
    else s

/-- The job's open instance awaits no chunk and no ready notice. -/
def Job.vacant (j : Job) : Bool :=
  match j.cfg with
  | some c => j.isOpen && c.homed == 0 && !c.plan.readyWait
  | none => false

/-- An instance of a root that awaits nothing meets R106 from its opening; it seals when the next PHASE cycle
passes (DESIGN CHOICE, notes/assumptions/75.md). -/
def State.sealVacant (s : State) : State :=
  (s.jobs.filter fun kv => kv.2.vacant).foldl (fun s kv => s.progress kv.1) s

/-! ### Finishing a chunk (R59, R60, R67, R69, R75, R464) -/

/-- An entry of a chunk. -/
def Chunk.entry (k : Chunk) (e : Nat) : Entry := k.entries.look k.proto e

/-- The entries of a chunk in order. -/
def Chunk.all (k : Chunk) : List Entry := (List.range k.len).map k.entry

/-- An entry of a chunk replaced. -/
def Chunk.putEntry (k : Chunk) (e : Nat) (x : Entry) : Chunk := { k with entries := k.entries.put k.proto e x }

/-- The entry that fails the residue test at finishing is marked (R64). -/
def Chunk.markResidue (k : Chunk) : Chunk :=
  match (List.range k.len).find? fun e => !(k.entry e).residueOk with
  | some e => k.putEntry e { k.entry e with residueErr := true }
  | none => k

/-- The entries whose conversion raised overflow are marked (R59). -/
def Chunk.markOverflow (k : Chunk) (conds : List Cond) : Chunk :=
  conds.zipIdx.foldl (fun k (x, e) => if x.overflow then k.putEntry e { k.entry e with overflow := true } else k) k

/-- Every bit of the arrival map is set. -/
def Chunk.full (k : Chunk) : Bool := k.arrived.length == k.c * k.s

/-- The page of the reduction block of the chunk's cell. -/
def Chunk.rdx (k : Chunk) : Nat := pgRdx (k.region * 4 + k.cell / 4)

/-- A contained fault of a chunk (R15, R62): the chunk's remaining addends are discarded, the fault is recorded
with its chunk, and the event acts. The capture names the first entry of the chunk's claim (DESIGN CHOICE,
notes/assumptions/106.md); that of `entry_ue` has the syndrome of R311. -/
def State.chunkFault (s : State) (k : Chunk) (ev code : Nat) (syn : Word) : State :=
  let s := s.putChunk { k with phase := .discarding }
  let s := s.modCond k.region k.slot fun x => { x with fault := true, faultLow := lowOf x.faultLow k.index }
  let act := if ev = 4 then Reaction.failJob k.slot code else Reaction.abandon k.slot code
  let s := if ev = 0 then s.bump k.rdx Off.RDX_RESIDUE_ERR else if ev = 3 then s.bump k.rdx Off.RDX_COUNT_ERR else s
  s.raise { pg := k.rdx, ev := ev, unit := k.cell % 4, access := 5, akind := 5, addr := k.ptr1.getD 0,
            syn := if ev = 1 then s.ueSyndrome k.rdx (k.ptr1.getD 0) else syn,
            job := some k.slot, act := [act] }

/-- The two residues of a mismatch, as syndrome (R64). -/
def Entry.residueSyn (e : Entry) : Word := word ((residueOf e.acc).toNat * 256 + e.residue.toNat)

/-- The first test that a chunk fails at finishing: event, code, syndrome (R64, R65, R75, R464). -/
def Chunk.defect (k : Chunk) : Option (Nat × Nat × Word) :=
  let es := k.all
  match es.find? (fun e => e.err ≥ 2) with
  | some _ => some (1, 0x0205, 0)
  | none =>
    match es.find? (fun e => !e.residueOk) with
    | some e => some (0, 0x0204, e.residueSyn)
    | none =>
      if es.any fun e => e.count.toNat ≠ k.c then some (3, 0x0207, 0)
      else if es.any Entry.wrapped then some (4, 0x0309, 0)
      else none

/-- A code of format FP32 is a NaN; an infinity. -/
def isNan32 (x : Nat) : Bool := bits x 23 8 == 255 && bits x 0 23 != 0

/-- A code of format FP32 is an infinity. -/
def isInf32 (x : Nat) : Bool := bits x 23 8 == 255 && bits x 0 23 == 0

/-- The finished elements of a chunk: format, codes, bytes of a code, and each element's conditions. -/
structure Finished where
  fmt : Nat
  width : Nat
  codes : List Nat
  conds : List Cond

/-- A root's finished elements (R59, R60). A chunk for a slice is in descriptor 0's format, 4 bytes per element, also
where the group's results are INT64 (R127, R130; DESIGN CHOICE, notes/assumptions/112.md). -/
def finishRoot (g : Group) (d : Descriptor) (feeds : Bool) (es : List Entry) : Finished :=
  if g.intMode ∧ g.result64 ∧ !feeds then { fmt := 0xE, width := 8, codes := es.map Entry.finish64, conds := es.map fun _ => {} }
  else
    let r := es.map fun e => e.finish g.floor d
    { fmt := d.fmt, width := 4, codes := r.map (·.1), conds := r.map (·.2) }

/-- A leaf's partial elements (R67, R69). -/
def finishLeaf (g : Group) (es : List Entry) : Finished :=
  if g.classP then
    let r := es.map fun e => e.partialP g.floor
    { fmt := if g.intMode then 0x8 else 0x0, width := 4, codes := r.map (·.1), conds := r.map (·.2) }
  else { fmt := 0xD, width := 24, codes := es.map fun e => e.partialT.toNat, conds := es.map fun _ => {} }

/-- The bytes of finished elements. -/
def Finished.bytes (f : Finished) : List Byte := f.codes.flatMap (leBytes f.width)

/-- The conditions of a finished chunk are recorded (R62, R110). -/
def State.recordConds (s : State) (k : Chunk) (f : Finished) : State :=
  let nan := f.width == 4 && f.fmt == 0 && f.codes.any isNan32
  let inf := f.width == 4 && f.fmt == 0 && f.codes.any isInf32
  let inv := f.conds.countP (·.invalid)
  let ovf := f.conds.countP (·.overflow)
  let bf := k.bfHeader || k.all.any (·.belowFloor)
  let s := s.modCond k.region k.slot fun x =>
    { x with nanOut := x.nanOut || nan, infOut := x.infOut || inf, invalid := x.invalid || inv != 0,
             overflow := x.overflow || ovf != 0, belowFloor := x.belowFloor || bf,
             nanLow := if nan then lowOf x.nanLow k.index else x.nanLow,
             ovfLow := if ovf ≠ 0 then lowOf x.ovfLow k.index else x.ovfLow,
             bfLow := if bf then lowOf x.bfLow k.index else x.bfLow }
  s.modInst k.slot fun i => { i with nInvalid := i.nInvalid + inv, nOverflow := i.nOverflow + ovf }

/-- The RESULT messages of a finished chunk (R103): at most 8,192 bytes of payload each. -/
def State.sendResults (s : State) (k : Chunk) (c : JobCfg) (r : PlanRow) (f : Finished) : State :=
  let per := 8192 / f.width
  let ts := ((c.group r.rgroup).getD noGroup).members.map Member.target
  ((chunksOf per k.len f.codes).zipIdx).foldl (fun s (cs, i) =>
    let h : LfpHeader :=
      { version := 1, type := 2, tc := 3, flags := 0, job := c.id, group := r.rgroup, member := 0, format := f.fmt,
        cls := c.cgrp.classP.toNat, step := k.step.toNat, chunk := k.index, attempt := k.attempt.toNat,
        elemOffset := per * i, count := cs.length }
    s.build { region := k.region, slot := some k.slot, hdr := h, payload := cs.flatMap (leBytes f.width), targets := ts }) s

/-- Format and bytes of the elements that a leaf of the group sends (R67, R69). -/
def Group.partialForm (g : Group) : Nat × Nat := if !g.classP then (0xD, 24) else (if g.intMode then 0x8 else 0x0, 4)

/-- The PARTIAL messages of a leaf's encoded chunk (R67, R69, R101). -/
def State.sendPartials (s : State) (k : Chunk) (c : JobCfg) (r : PlanRow) : State :=
  let per := k.len / max 1 r.upS
  let (fmt, width) := c.cgrp.partialForm
  ((chunksOf per k.len k.enc).zipIdx).foldl (fun s (cs, i) =>
    let bf := !c.cgrp.classP && cs.any (·.2)
    let h : LfpHeader :=
      { version := 1, type := 1, tc := 2, flags := bf.toNat, job := c.id, group := r.upGroup, member := r.upMember,
        format := fmt, cls := c.cgrp.classP.toNat, step := k.step.toNat, chunk := k.index,
        attempt := k.attempt.toNat, elemOffset := per * i, count := cs.length }
    s.build { region := k.region, slot := some k.slot, hdr := h, payload := cs.flatMap (fun x => leBytes width x.1),
              targets := [.remote r.upDest] }) s

/-- A chunk that a leaf has encoded is sent once its parent has granted it; its entries return then (R76, R101). -/
def State.leafSend (s : State) (k : Chunk) (c : JobCfg) (r : PlanRow) : State :=
  if (s.job k.slot).inst.grants.contains k.index then
    let s := (s.sendPartials k c r).freeEntries k
    (s.putChunk { k with phase := .finished, ptr1 := none, entries := [], enc := [] }).progress k.slot
  else s.putChunk { k with phase := .waitingGrant }

/-- A leaf encodes a complete chunk, and sends it if its parent has granted it already (R101). -/
def State.leafFinish (s : State) (k : Chunk) (c : JobCfg) (r : PlanRow) : State :=
  let f := finishLeaf c.cgrp k.all
  let k := k.markOverflow f.conds
  (s.recordConds k f).leafSend { k with enc := f.codes.zip (k.all.map (·.belowFloor)) } c r

/-- A chunk whose map is full and whose addends are all applied is judged and finished (R75, R76). -/
def State.finishChunk (s : State) (k : Chunk) (c : JobCfg) (r : PlanRow) : State :=
  let ce := k.all.countP fun e => e.err == 1
  let s := (List.range ce).foldl (fun s _ => s.countCe k.rdx) s
  match k.defect with
  | some (ev, code, syn) =>
    (if ev = 1 then s.countUe k.rdx else s).chunkFault (if ev = 0 then k.markResidue else k) ev code syn
  | none =>
    if r.role = 1 then s.leafFinish k c r
    else
      let d := c.descs.getD 0 ⟨0, 0, false, 0, 0, 0, 0⟩
      let f := finishRoot c.cgrp d r.feeds k.all
      let k := k.markOverflow f.conds
      let s := s.recordConds k f
      if r.results then
        ((((s.sendResults k c r f).freeEntries k).putChunk { k with phase := .finished, ptr1 := none, entries := [] }).progress k.slot)
      else (s.putChunk { k with phase := .waitingFeed, outBytes := f.bytes }).progress k.slot

/-- Finishes the chunk if it is complete (R75). -/
def State.tryFinish (s : State) (k : Chunk) : State :=
  match (s.job k.slot).cfg with
  | none => s
  | some c =>
    match c.rowOf k.index with
    | none => s
    | some (_, r) => if k.phase = .active ∧ k.full ∧ !s.queued k then s.finishChunk k c r else s

end Sys2Proof.Machine
end

