-- ==== Sys2Proof/Machine/Settle.lean ====
section
/-!
DEFINITION. The reactions of the fault classes, taken at the end of every command: job failure,
abandonment, region fence and the chip-fatal state (spec/01_architecture.md R15 to R18,
spec/14_faults.md R391, R400 to R403).
-/

namespace Sys2Proof.Machine

/-- FAULT_N is asserted for a fresh minimum of 10 µs; a pending release is cancelled (R403). -/
def State.assertFaultn (s : State) : State :=
  { s with flt := { s.flt with
    faultn := true
    pulseEnd := some (s.now + 10000)
    testPulse := false
    releasePending := false } }

/-- A cause in the layout of `FLT_FIRST_FATAL` (R412). -/
def causeWord (pg ev cls : Nat) : Word := word (pg * 16 + ev * 2 ^ 16 + cls * 2 ^ 20 + 2 ^ 31)

/-- The first fatal cause is recorded once (R400). -/
def State.firstFatal (s : State) (w : Word) : State :=
  if s.rbit pgFlt Off.FLT_FIRST_FATAL 31 then s else s.setReg pgFlt Off.FLT_FIRST_FATAL w

/-- The captures of class `contained` or higher of the blocks of a region but the originating block `pg`, each
behind the block's identifier (R406). -/
def State.regionCaptures (s : State) (pg r : Nat) : List (List Byte) :=
  (List.range 0x28).filterMap fun n =>
    let w := s.reg (r * 256 + n) Off.BLK_FIRST_ERR0
    if bit w 31 ∧ fld w 4 2 ≥ 1 ∧ r * 256 + n ≠ pg then some (leBytes 4 ((r * 256 + n) * 16) ++ wordBytes (s.capture (r * 256 + n))) else none

/-- The fault log record of a fence (kind 1) or of the chip-fatal state (kind 2) (R406, R408). -/
def State.logFatal (s : State) (kind pg : Nat) (forced : Bool) : State :=
  let regions := if kind = 2 then List.range 4 else [pg / 256]
  s.logFault kind (if kind = 2 then 12 else pg / 256) forced (wordBytes (s.capture pg))
    ((regions.flatMap (s.regionCaptures pg)).take 8).flatten []

/-- A job holds a chunk home, slice, Comet slot, window or program in a region (R16). -/
def State.jobInRegion (s : State) (slot : Nat) (c : JobCfg) (r : Nat) : Bool :=
  c.homeMask.testBit r || c.slices.any (fun x => x.region == r) || (c.cmtCount != 0 && c.cmtRegion == r) ||
  c.windows.any (fun x => x.2.regions.contains r) || (s.setsOf slot).any fun x => x.1 / 8 == r

/-- The jobs that fail with a region: all that hold something in it (R16). -/
def State.jobsInRegion (s : State) (r : Nat) : List Nat :=
  s.heldSlots.filter fun j => match (s.job j).cfg with | some c => s.jobInRegion j c r | none => false

/-- The region that stores the frame of a descriptor, `r` where none is stored. -/
def State.storeRegion (s : State) (r : Nat) (d : Desc) : Nat := match s.buf d.buf with | some b => b.region | none => r

/-- Copies that port `p` holds are dropped where `gone` says so, each counted in region `page` of it (R16, R236). -/
def State.purgePort (s : State) (p : Nat) (gone : Desc → Bool) (page : Desc → Nat) : State :=
  let l := (s.port p).descs.filter gone
  if l.isEmpty then s
  else
    let s1 := s.modPort p fun x =>
      { x with
        egress := List.filter (fun (kv : Nat × List Desc) => !kv.2.isEmpty) (x.egress.mapVals (fun q => q.filter fun d => !gone d))
        sending := x.sending.filter (fun d => !gone d.1) }
    l.foldl (fun s d => (s.dropRef d.buf).dropSwc (page d) Off.SWC_DROP_FENCE (s.bufJob d.buf)) s1

/-- What a region held is gone: its program sets (R187), its queues, the frames waiting to be built there, and its pools but P3; copies of other
regions' frames at its ports count in the region that stores them, copies of its own frames at other ports there. -/
def State.stopRegion (s : State) (r : Nat) : State :=
  let ps := s.ports.map (·.1)
  let s := (ps.filter fun p => portRegion p == r).foldl (fun s p =>
    (s.purgePort p (fun d => s.storeRegion r d != r) (s.storeRegion r)).portDown p .disabled) s
  let s := (ps.filter fun p => portRegion p != r).foldl (fun s p => s.purgePort p (s.storedIn r) fun _ => portRegion p) s
  let s := { s with winq := s.winq.put [] r [] }
  let s := (List.range 8).foldl (fun s k => s.fenceBlock (8 * r + k)) s
  { s with sw := { s.sw with
    builds := s.sw.builds.filter (fun b => b.region != r)
    bufs := List.filter (fun (kv : Nat × Option Buf) => match kv.2 with | some b => b.region != r | none => true) s.sw.bufs
    allocs := s.sw.allocs.filter (fun a => !(a.region == r && a.pool != 3))
    swap := s.sw.swap.map fun w => { w with held := w.held.filter fun h => portRegion h.port != r } } }

/-- Region `r` fences because of an event of page `pg` (R16, R400, R401). A fenced region is only logged. -/
def State.fenceRegion (s : State) (r pg ev : Nat) (forced : Bool) : State :=
  if s.isFenced r then s.logFatal 1 pg forced
  else
    let w := causeWord pg ev 2
    let s := { s with flt := { s.flt with fenced := insertOnce s.flt.fenced r } }
    let s := s.logFatal 1 pg forced
    let s := ((s.firstFatal w).setReg pgFlt (Off.FLT_FENCE_CAUSE0 + 4 * r) w).assertFaultn
    let s := s.raise { pg := pgFlt, ev := 0, syn := w }
    let s := (s.jobsInRegion r).foldl (fun s j => s.failJob j 0x0304) s
    s.stopRegion r

/-- The chip-fatal state is entered because of an event of page `pg` (R17, R400): every job fails, every
region fences. -/
def State.enterFatal (s : State) (pg ev : Nat) (forced : Bool) : State :=
  if s.flt.chipFatal then s.logFatal 2 pg forced
  else
    let w := causeWord pg ev 3
    let open_ := (List.range 4).filter fun r => !s.isFenced r
    let s := { s with flt := { s.flt with chipFatal := true, fenced := open_.foldl insertOnce s.flt.fenced } }
    let s := s.logFatal 2 pg forced
    let s := (s.firstFatal w).assertFaultn
    let s := s.raise { pg := pgFlt, ev := 1, syn := w }
    let s := s.heldSlots.foldl (fun s j => s.failJob j 0x0305) s
    open_.foldl (fun s r =>
      let s := s.stopRegion r
      s.setReg pgFlt (Off.FLT_FENCE_CAUSE0 + 4 * r) w) s

/-- Precedence of a reaction: the highest class decides first (R18). -/
def Reaction.rank : Reaction → Nat
  | .chipFatal .. => 3
  | .fence .. => 2
  | .failJob .. => 1
  | .abandon .. => 0

/-- One reaction is taken. -/
def State.reactTo (s : State) : Reaction → State
  | .failJob j code => s.failJob j code
  | .abandon j cause => s.abandonInst j cause
  | .fence r pg ev f =>
    let s := s.fenceRegion r pg ev f
    if (List.range 4).all s.isFenced ∧ !s.flt.chipFatal then s.enterFatal pg ev f else s
  | .chipFatal pg ev f => s.enterFatal pg ev f

/-- The reaction to take next. -/
def topReaction (l : List Reaction) : Option Reaction :=
  l.foldl (fun m r => match m with | some x => if x.rank < r.rank then some r else some x | none => some r) none

/-- Takes reactions until none waits, at most `n` of them. -/
def State.settle : Nat → State → State
  | 0, s => s
  | n + 1, s =>
    match topReaction s.todo with
    | none => s
    | some r => State.settle n (({ s with todo := s.todo.erase r }).reactTo r)

/-- The end of a command: no reaction waits any more. -/
def State.finish (s : State) : State := { (State.settle 4096 s) with todo := [] }

/-- What one PHASE cycle does when no command waits (R245, R252; notes/assumptions/1.md). -/
def State.tick (s : State) : State := if s.awake then (s.idle.sealVacant).finish else s

/-- A stamp of host port `p` at this moment, less the PHY latency in the field at `lo` of `HST_PTP_LAT` (R302): 0 for a
frame that leaves, 16 for one that arrives. -/
def State.stamp (s : State) (p lo : Nat) : Int := (s.wall.ns : Int) - s.rfld pgHst Off.HST_PTP_LAT lo 16 p

/-- What a PAUSE kept back on host port `p` leaves, in its order, and then the event records that wait; a request of the
clock's servo is stamped as it leaves (R286, R302, R364). -/
def State.releaseHeld (s : State) (p : HostPort) : State :=
  let mine := s.held.filter fun e => e.hostPort == some p
  let asks := mine.any fun e => match e with | .delayReq _ _ => true | _ => false
  let s := { s with
    held := s.held.filter fun e => e.hostPort != some p
    out := s.out ++ mine
    wall := if asks then { s.wall with sync := s.wall.sync.map fun (x : Nat × Int × Int) => (x.1, x.2.1, s.stamp p 0) } else s.wall }
  s.openSessions.foldl State.sendEvents s

/-- What arrives at host port `p` is read from its ingress buffer: a corrected word is counted; an uncorrectable one raises
`rx_ue`, and what arrived is dropped and counted in `HST_RX_DROP` (R14, R304). -/
def State.hostTake (s : State) (p : Nat) (f : State → State) : State :=
  let clean := s.modHost p fun x => { x with rxErr := 0 }
  match (s.hostPort p).rxErr with
  | 0 => f s
  | 1 => f (clean.countCe pgHst)
  | _ => ((clean.countUe pgHst).bump pgHst Off.HST_RX_DROP p).raise { pg := pgHst, ev := 2, unit := p, access := 7, syn := s.ueSyndrome pgHst p }

/-- A datagram at host port `p`: what is not for the Ralow port is dropped and counted in `HST_RX_DROP` (R301, R336). -/
def State.udpTake (s : State) (p : Nat) (dport : BitVec 16) (f : State → State) : State :=
  s.hostTake p fun s => if dport.toNat = s.ralowPort then f s else s.bump pgHst Off.HST_RX_DROP p

/-- How a meaning answers. -/
abbrev Out := Host.Outcome State Fault Refusal

/-- The state after a command with its reactions taken. -/
def done (s : State) : Out := .next s.finish

/-- A command that acts where `due` holds and otherwise waits (notes/assumptions/2.md). -/
def actIf (due : Bool) (s t : State) : Out := if due then done t else .next s

/-- A command that acts with a value where there is one, and otherwise waits. -/
def actWith {α : Type} (o : Option α) (s : State) (f : α → State) : Out :=
  match o with | some v => done (f v) | none => .next s

/-- A row that takes a frame: nothing where it is no frame of the row, the drop where the port block drops
it, else what `f` does with the message; flow control follows the pools (R226). -/
def onRx (s : State) (r : Rx) (f : State → Msg → State) : Out :=
  match r with
  | .not => .next s
  | .lost t => done t.watchFlow
  | .got t m => done (f t m).watchFlow

end Sys2Proof.Machine
end

