-- ==== Sys2Proof/Machine/Swap.lean ====
section
/-!
DEFINITION. Forwarding of stored frames and the table swap (spec/08_switch_core.md R212 to
R222, R236, R238, R239).
-/

namespace Sys2Proof.Machine

/-! ### Forwarding (R212, R215 to R218) -/

/-- A frame whose storage is claimed is forwarded from port `p` and VC `vc` in class `tc`. -/
def State.forward (s : State) (p vc tc : Nat) (f : WireFrame) (b : Buf) : State :=
  let r := portRegion p
  match s.choose r f.id tc (s.attr p) vc f.flow with
  | (.via q v, t) =>
    let (n, t) := t.addBuf { b with bytes := setDscp (decHop f) tc v }
    let d : Desc := { buf := n, key := some f.id, len := b.len, cells := cellsOf b.bytes.length }
    t.enqueue r q v tc d
  | (.noRoute, t) => (t.giveCells b).dropSwc r Off.SWC_DROP_NOROUTE
  | (.noPath, t) => (t.giveCells b).dropSwc r Off.SWC_DROP_NOPATH
  | (.turn, t) => (t.giveCells b).dropSwc r Off.SWC_DROP_TURN
  | (.fenced, t) => (t.giveCells b).dropSwc r Off.SWC_DROP_FENCE

/-! ### Comparing the banks (R238) -/

/-- The route shift of the shadow bank. -/
def State.shadowShift (s : State) : Nat := s.rfld (pgSwc 0) Off.SWC_ROUTE_CTRL 4 4

/-- The routing mode of the shadow bank. -/
def State.shadowMode (s : State) : Nat := s.rfld (pgSwc 0) Off.SWC_ROUTE_CTRL 0 2

/-- A word differs between the banks. -/
def State.differs (s : State) (off sel : Nat) : Bool := s.activeBank off sel != s.shadow off sel

/-- A path set is affected: a member differs, or a valid member's port has attributes that differ. -/
def State.psetAffected (s : State) (ps : Nat) : Bool :=
  (List.range 16).any fun m =>
    s.differs Off.SWC_PS_DATA (psSel ps m) ||
    (let x := memberIn s.shadow ps m
     x.valid && s.differs Off.SWC_PORT_ATTR x.port)

/-- An entry that a lookup hits is affected. -/
def State.hitAffected (s : State) (h : Hit) : Bool :=
  let em := h.off == Off.SWC_EM_KEY
  let named (b : BankFn) : Nat := if em then fld (b Off.SWC_EM_PSET h.index) 0 12 else fld (b Off.SWC_RT_DATA h.index) 0 12
  s.differs h.off h.index || (em && s.differs Off.SWC_EM_PSET h.index) ||
  s.psetAffected (named s.activeBank) || s.psetAffected (named s.shadow)

/-- A lookup of an identifier hits an affected entry in either bank. -/
def State.destAffected (s : State) (dest : Nat) : Bool :=
  s.hitAffected (lookupIn s.activeBank s.sw.actShift dest) || s.hitAffected (lookupIn s.shadow s.shadowShift dest)

/-- A running swap holds a frame of class `tc` for an identifier. -/
def State.swapHolds (s : State) (tc dest : Nat) : Bool :=
  match s.sw.swap with
  | some w => w.classes.testBit tc && s.destAffected dest
  | none => false

/-- The descriptors that a running swap waits for. -/
def State.swapInflight (s : State) : Nat :=
  s.ports.foldl (fun n kv => n + (kv.2.descs.filter (·.affected)).length) 0

/-- A frame is held at its ingress by the running swap. -/
def State.holdFrame (s : State) (p vc : Nat) (b : Buf) : State :=
  let (n, s) := s.addBuf b
  let h : HeldFrame := { port := p, vc := vc, buf := n }
  { s with sw := { s.sw with swap := s.sw.swap.map fun w => { w with held := w.held ++ [h], heldCount := w.heldCount + 1 } } }

/-- A frame to be forwarded: held by a running swap, or forwarded. -/
def State.forwardOrHold (s : State) (p vc tc : Nat) (f : WireFrame) (b : Buf) : State :=
  if s.swapHolds tc f.id then s.holdFrame p vc b else s.forward p vc tc f b

/-- A held frame is released and looked up anew. -/
def State.unhold (s : State) (h : HeldFrame) : State :=
  match s.buf h.buf with
  | none => s
  | some b =>
    let s := { s with sw := { s.sw with bufs := s.sw.bufs.put none h.buf none } }
    match parseFrame b.bytes with
    | some f => s.forward h.port h.vc b.tc f b
    | none => s.giveCells b

/-! ### The shadow bank as it must be (R220, R221, R239) -/

/-- The registers that make up a bank. -/
def bankOff (off : Nat) : Bool :=
  off == Off.SWC_EM_KEY || off == Off.SWC_EM_PSET || off == Off.SWC_RT_DATA || off == Off.SWC_PS_DATA || off == Off.SWC_PORT_ATTR

/-- The selectors of a register of the shadow bank that are listed. -/
def State.shadowSels (s : State) (off : Nat) : List Nat :=
  s.regs.filterMap fun kv => if kv.1 % 2 ^ 26 = rkey (pgSwc 0) off 0 then some (kv.1 / 2 ^ 26) else none

/-- A path set of the shadow bank has a valid member. -/
def State.shadowSet (s : State) (ps : Nat) : Bool := (List.range 16).any fun m => (memberIn s.shadow ps m).valid

/-- A role that a routing mode allows (R219 to R221). -/
def roleOk (mode : Nat) (a : PortAttr) : Bool :=
  (mode != 2 || !a.dateline) &&
  (a.role == 0 || a.role == 1 || (mode == 0 && (a.role == 2 || a.role == 3)) || (mode != 0 && a.isDim))

/-- The shadow bank passes the checks of SWAP_INVALID (R239). -/
def State.shadowOk (s : State) : Bool :=
  s.shadowMode != 3 && decide (s.shadowShift ≤ 10) &&
  ((s.shadowSels Off.SWC_PORT_ATTR).all fun p => roleOk s.shadowMode (attrIn s.shadow p)) &&
  ((s.shadowSels Off.SWC_EM_KEY).all fun e =>
    !bit (s.shadow Off.SWC_EM_KEY e) 31 || s.shadowSet (fld (s.shadow Off.SWC_EM_PSET e) 0 12)) &&
  (s.shadowSels Off.SWC_RT_DATA).all fun e =>
    let d := s.shadow Off.SWC_RT_DATA e
    !bit d 31 || s.shadowSet (fld d 0 12)

/-! ### The command and its end (R238, R239) -/

/-- The hold begins: the descriptors of affected entries are marked. -/
def State.beginSwap (s : State) (chit : Word) (classes limit : Nat) : State :=
  let mark := fun (d : Desc) => { d with affected := match d.key with | some k => s.destAffected k | none => false }
  let ports := s.ports.mapVals fun x =>
    { x with
      egress := x.egress.mapVals (fun q => q.map mark)
      sending := x.sending.map (fun d => (mark d.1, d.2)) }
  let w : Swap := { chit := chit, classes := classes, limit := limit, startMark := s.orb.marks }
  { s with ports := ports, sw := { s.sw with swap := some w } }

/-- TABLE_SWAP with its chit: the checks of R239, and the hold of R238, or the check alone with `mode` 1. -/
def State.tableSwapCmd (s : State) (chit : Word) (classes limit mode : Nat) : State :=
  if s.sw.swap.isSome then s.complete chit 0x0702
  else if !s.shadowOk then s.complete chit 0x0703
  else if mode = 1 then s.complete chit 0 [0, 0]
  else s.beginSwap chit classes limit

/-- The swap has drained. -/
def State.swapDrained (s : State) : Option Swap :=
  match s.sw.swap with
  | some w => if s.swapInflight = 0 then some w else none
  | none => none

/-- Builds that the swap held: each of their remote targets' lookups hits an affected entry. -/
def State.heldBuilds (s : State) (w : Swap) : Nat :=
  (s.sw.builds.filter fun b => w.classes.testBit b.hdr.tc && b.targets.any fun t =>
    match t with | .remote d => s.destAffected d | .local _ _ => false).length

/-- The end of a hold: the held frames are looked up anew. -/
def State.endHold (s : State) (w : Swap) : State :=
  let s := { s with sw := { s.sw with swap := none } }
  let s := { s with ports := s.ports.mapVals fun x =>
    { x with egress := x.egress.mapVals (fun q => q.map (fun (d : Desc) => { d with affected := false })),
             sending := x.sending.map (fun d => ({ d.1 with affected := false }, d.2)) } }
  w.held.foldl State.unhold s

/-- The exchange of the banks (R238): the shadow bank becomes active and stays as the new shadow. -/
def State.exchange (s : State) (w : Swap) : State :=
  let count := w.heldCount + s.heldBuilds w
  let bank := List.filter (fun (kv : Nat × Word) => decide (kv.1 % 2 ^ 26 / 2 ^ 14 = pgSwc 0) && bankOff (kv.1 % 2 ^ 14)) s.regs
  let s := { s with sw := { s.sw with
    active := bank
    actBank := !s.sw.actBank
    actMode := s.shadowMode
    actShift := s.shadowShift } }
  (s.endHold w).complete w.chit 0 [word count, word (s.orb.marks - w.startMark)]

/-- TABLE_SWAP_EXCHANGE. -/
def execTableSwapExchange (s : State) : Out := actWith s.swapDrained s fun w => (s.exchange w).watchFlow

/-- A drain that has not ended within its limit of marks (R239). -/
def State.swapLate (s : State) : Option Swap :=
  match s.sw.swap with
  | some w => if s.swapInflight ≠ 0 ∧ s.orb.marks - w.startMark ≥ w.limit then some w else none
  | none => none

/-- SWAP_TIMEOUT. -/
def execSwapTimeout (s : State) : Out :=
  actWith s.swapLate s fun w => ((s.endHold w).complete w.chit 0x0701).watchFlow

end Sys2Proof.Machine
end

