-- ==== Sys2Proof/Machine/Fabric.lean ====
section
/-!
DEFINITION. Frames on the fabric ports: forwarding, termination, flow control, frames that the
module builds, egress and its arbitration, policers and shapers (spec/08_switch_core.md R211,
R212, R223 to R236, spec/09_orbit_and_gates.md R262 to R267, R276 to R278), discovery
(spec/16_bringup_and_modes.md R444, R445), congestion maps and the telemetry strobe.
-/

namespace Sys2Proof.Machine

/-! ### Frames that leave the port block (R211, R212) -/

/-- FRAME_FORWARD. -/
def execFrameForward (a : Arrival) (s : State) : Out :=
  match s.arrive a with
  | .ignored | .control => .next s
  | .lost t => done t.watchFlow
  | .passed t f tc vc b =>
    match s.routeOf a.port f with
    | .forward => done ((t.forwardOrHold a.port vc tc f b).mirrored t a tc vc).watchFlow
    | _ => .next s

/-- MAINTENANCE_FRAME: the port block takes the frame, and its cells return (R211). -/
def execMaintenanceFrame (a : Arrival) (s : State) : Out :=
  match s.arrive a with
  | .ignored | .control => .next s
  | .lost t => done t.watchFlow
  | .passed t f tc vc b =>
    match s.routeOf a.port f with
    | .maintenance => done ((t.giveCells b).mirrored t a tc vc).watchFlow
    | _ => .next s

/-- TERMINATED_FRAME_DROP: a frame for the module that no unit takes (R212). -/
def execTerminatedFrameDrop (a : Arrival) (s : State) : Out :=
  match s.arrive a with
  | .ignored | .control => .next s
  | .lost t => done t.watchFlow
  | .passed t f tc vc b =>
    match s.routeOf a.port f with
    | .nobody => done (((t.giveCells b).dropSwc (portRegion a.port) Off.SWC_DROP_TERM).mirrored t a tc vc).watchFlow
    | _ => .next s

/-! ### Flow control (R119, R225, R226) -/

/-- Nanoseconds of a timer of quanta of 512 bit times at a rate in Gb/s. -/
def quantaNs (q rate : Nat) : Nat := (q * 512 + rate - 1) / max 1 rate

/-- A stop timer of a class and VC is set, or cleared by 0. -/
def State.setStop (s : State) (p tc vc time : Nat) : State :=
  let others := (s.port p).stopsRx.filter fun t => !(t.tc == tc && t.vc == vc)
  let t : StopRx := { tc := tc, vc := vc, until_ := s.now + quantaNs time (s.portRate p) }
  s.modPort p fun x => { x with stopsRx := if time = 0 then others else others ++ [t] }

/-- Classes whose PFC the module honours (R225). -/
def pfcHonoured (tc : Nat) : Bool := tc == 1 || tc == 2 || tc == 4 || tc == 6

/-- A PFC frame on an edge port (R119, R225). -/
def State.pfc (s : State) (p : Nat) (b : List Byte) : State :=
  let l := parsePfc b
  let s := if l.any fun x => x.1 == 3 || x.1 == 5 then s.bumpPort p Off.FAB_PAUSE_IGNORED else s
  (l.filter fun x => pfcHonoured x.1).foldl (fun s x => s.setStop p x.1 0 x.2) s

/-- A per-class-and-VC flow-control frame of a peer LH8120 (R225). -/
def State.cvfc (s : State) (p : Nat) (b : List Byte) : State :=
  ((parseCvfc b).filter fun x => !lossy x.1).foldl (fun s x => s.setStop p x.1 x.2.1 x.2.2) s

/-- A flow-control row: what the MAC does with a control frame of its kind. -/
def onControl (s : State) (a : Arrival) (mine : Bool) (f : State) : Out :=
  match s.arrive a with
  | .control => if mine then done f else .next s
  | .lost t => done t.watchFlow
  | _ => .next s

/-- PFC_FRAME. -/
def execPfcFrame (a : Arrival) (s : State) : Out :=
  onControl s a (isPfc a.bytes && (s.attr a.port).role == 1) (s.pfc a.port a.bytes)

/-- CLASS_VC_FLOW_CONTROL. -/
def execClassVcFlowControl (a : Arrival) (s : State) : Out :=
  onControl s a (isCvfc a.bytes && decide (2 ≤ (s.attr a.port).role ∧ (s.attr a.port).role ≤ 5)) (s.cvfc a.port a.bytes)

/-- The stops that a port has in force are sent again (R225). -/
def State.refreshStops (s : State) (p : Nat) : State :=
  (s.port p).stopsTx.foldl (fun s t => s.sendStop p t.tc t.vc true t.cal) s

/-- FLOW_CONTROL_REFRESH. -/
def execFlowControlRefresh (port : Port) (s : State) : Out :=
  actIf (s.portUp port && !(s.port port).stopsTx.isEmpty) s (s.refreshStops port)

/-- A pause timer has run out (R225, R286). -/
def State.pauseOver (s : State) : PausedPort → Bool
  | .cls p tc vc => (s.port p).stopsRx.any fun t => t.tc == tc.val && t.vc == vc.val && decide (t.until_ ≤ s.now)
  | .host p => match (s.hostPort p).pausedUntil with | some t => decide (t ≤ s.now) | none => false

/-- The paused class or port may send again. -/
def State.endPause (s : State) : PausedPort → State
  | .cls p tc vc => s.modPort p fun x => { x with stopsRx := x.stopsRx.filter fun t => !(t.tc == tc.val && t.vc == vc.val) }
  | .host p => (s.modHost p fun x => { x with pausedUntil := none }).releaseHeld p

/-- PAUSE_TIMER_EXPIRY. -/
def execPauseTimerExpiry (p : PausedPort) (s : State) : Out := actIf (s.pauseOver p) s (s.endPause p)

/-! ### Frames that the module builds (R94, R210, R230, R235, R236) -/

/-- The frame of an LFP message from region `r`; targets and MAC addresses are written at egress. IPv6 where
the region has an IPv6 prefix, else IPv4 (notes/assumptions/31.md). -/
def State.lfpFrame (s : State) (r tc vc : Nat) (h : LfpHeader) (payload : List Byte) : List Byte :=
  let p6 := s.prefix6 r
  let udp := s.rfld (pgSwc r) Off.SWC_LFP_UDP_PORT 0 16
  ipFrame (p6 != 0) p6 (s.prefix4 r) (s.ownId.getD 0) tc vc (Config.entropyHash h.job h.chunk % 2 ^ 16) udp (lfpBytes h payload)

/-- Egress descriptors of a region. -/
abbrev descCount : Nat := 1048576

/-- A build can claim one descriptor per target (R235). -/
def State.descsFor (s : State) (r n : Nat) : Bool :=
  decide (s.descUsed r false + n ≤ descCount) && (n < 2 || decide (s.descUsed r true + n ≤ descCount - 196608))

/-- The path of one copy, and the state after path choice. -/
def State.copyPath (s : State) (r tc : Nat) (h : LfpHeader) : Target → Path × State
  | .local p _ => (.via p ((turnVc s.sw.actMode edgeAttr 0 (s.attr p)).getD 0), s)
  | .remote d =>
    let pre := (if s.prefix6 r != 0 then s.prefix6 r else s.prefix4 r) * 2 ^ 24
    let flow := beBytes 16 (pre + s.ownId.getD 0) ++ beBytes 16 (pre + d) ++ beBytes 2 (Config.entropyHash h.job h.chunk % 2 ^ 16) ++
      beBytes 2 (s.rfld (pgSwc r) Off.SWC_LFP_UDP_PORT 0 16) ++ beBytes 1 17
    s.choose r d tc edgeAttr 0 flow

/-- One copy of stored frame `b` is put into its queue, or dropped and counted. -/
def State.copyOut (s : State) (r tc b len : Nat) (multi : Bool) (h : LfpHeader) (t : Target) : State :=
  let (dest, key) := match t with | .local _ d => (d, none) | .remote d => (d, some d)
  match s.copyPath r tc h t with
  | (.via p vc, s) =>
    let d : Desc := { buf := b, dest := some dest, key := key, len := len, cells := cellsOf (len - 4), multi := multi }
    s.enqueue r p vc tc d
  | (.noRoute, s) => (s.dropRef b).dropSwc r Off.SWC_DROP_NOROUTE (s.bufJob b)
  | (.noPath, s) => (s.dropRef b).dropSwc r Off.SWC_DROP_NOPATH (s.bufJob b)
  | (.turn, s) => (s.dropRef b).dropSwc r Off.SWC_DROP_TURN (s.bufJob b)
  | (.fenced, s) => (s.dropRef b).dropSwc r Off.SWC_DROP_FENCE (s.bufJob b)

/-- A seal notice of a job waits for the RESULT messages of its instance (R106). -/
def State.sealWaits (s : State) (b : Build) : Bool :=
  b.hdr.type == 3 && b.hdr.flags == flSeal && s.sw.builds.any fun x =>
    x.hdr.type == 2 && x.hdr.job == b.hdr.job && x.hdr.step == b.hdr.step && x.hdr.attempt == b.hdr.attempt

/-- A running table swap holds the unit (R238). -/
def State.buildHeld (s : State) (b : Build) : Bool :=
  b.targets.any fun t => match t with | .remote d => s.swapHolds b.hdr.tc d | .local _ _ => false

/-- The cells of a build: its own claim, a new claim of the job's requester, or none for a frame of the
Comet block or of no job (R230, R235). -/
def State.buildCells (s : State) (b : Build) (n : Nat) : Option (Buf × State) :=
  let x : Buf := { bytes := [], tc := b.hdr.tc, region := b.region, refs := b.targets.length, job := b.slot }
  match b.slot with
  | none => some (x, s)
  | some j =>
    if b.comet then some (x, s)
    else
      match b.held with
      | some (u, m) => some ({ x with ptr := u, cells := m, req := some (jobReq j) }, s)
      | none => (s.poolTake 0 b.region (jobReq j) n).map fun y => ({ x with ptr := y.1, cells := n, req := some (jobReq j) }, y.2)

/-- A build is stored once and its copies are put into the egress queues (R235), if nothing holds it. -/
def State.tryBuild (s : State) (b : Build) : Option State :=
  let bytes := s.lfpFrame b.region b.hdr.tc 0 b.hdr b.payload
  if s.sealWaits b ∨ s.buildHeld b ∨ !s.descsFor b.region b.targets.length ∨ s.quiesced (pgSwc b.region) then none
  else
    (s.buildCells b (cellsOf bytes.length)).map fun (x, t) =>
      let t := { t with sw := { t.sw with builds := t.sw.builds.erase b } }
      let t :=
        if b.targets.isEmpty then t.giveCells x
        else
          let (n, t) := t.addBuf { x with bytes := bytes }
          b.targets.foldl (fun t g => t.copyOut b.region b.hdr.tc n (bytes.length + 4) (decide (2 ≤ b.targets.length)) b.hdr g) t
      match b.slot with
      | some j => t.progress j
      | none => t

/-- What builds leave in their order with: the job, the class, and whether the Comet block builds them. -/
def Build.lane (b : Build) : Option Nat × Nat × Bool := (b.slot, b.hdr.tc, b.comet)

/-- The builds of a region of which none of the same job, class and block stands before: Comet traffic waits for no
cells of another class (R25). -/
def buildHeads (r : Nat) : List (Option Nat × Nat × Bool) → List Build → List Build
  | _, [] => []
  | seen, b :: t =>
    if b.region = r ∧ !seen.contains b.lane then b :: buildHeads r (b.lane :: seen) t else buildHeads r seen t

/-- The builds that no table swap holds (R238). -/
def State.freeBuilds (s : State) : List Build := s.sw.builds.filter fun b => !s.buildHeld b

/-- The first build of a region that can be made. -/
def State.buildNext (s : State) (r : Nat) : Option State := (buildHeads r [] s.freeBuilds).findSome? s.tryBuild

/-- FRAME_BUILD. -/
def execFrameBuild (region : Region) (s : State) : Out := actWith (s.buildNext region) s fun t => t.watchFlow

/-! ### Egress (R224, R263, R266, R277) -/

/-- A calibration window holds the port: it is open, or the peer's CAL_ENTER holds it (R269). -/
def State.calHolds (s : State) (p : Nat) : Bool := (s.calWin p).isOpen || (s.port p).heldByPeer

/-- The head frame of a class and VC. -/
def FabPort.head (x : FabPort) (tc vc : Nat) : Option Desc := (x.egress.look [] (tc * 2 + vc)).head?

/-- The test of R266 for a frame of `len` bytes of class `tc` on port `p`. -/
def State.guardOk (s : State) (p tc len : Nat) : Bool :=
  match s.closing p tc with
  | none => true
  | some d => decide (s.need p len 0 ≤ d)

/-- The shaper of a class allows a start (R277). -/
def State.shaperOk (s : State) (p tc : Nat) : Bool :=
  let x := s.shapers.look {} (p * 8 + tc)
  !x.on || decide (0 < x.level)

/-- A received stop is in force for a class and VC (R225). -/
def FabPort.stoppedRx (x : FabPort) (tc vc : Nat) : Bool := x.stopsRx.any fun t => t.tc == tc && t.vc == vc

/-- The head frame of a class and VC could start but for the guard band. -/
def State.eligible (s : State) (p tc vc : Nat) : Bool :=
  ((s.port p).head tc vc).isSome && s.gateOpen p tc && s.shaperOk p tc && !(s.port p).stoppedRx tc vc

/-- The head frame of a class and VC qualifies (R277). -/
def State.qualifies (s : State) (p tc vc : Nat) : Bool :=
  s.eligible p tc vc && (match (s.port p).head tc vc with | some d => s.guardOk p tc d.len | none => false)

/-- Rank of a class in the drain-rank table (R227). -/
def classRank (tc : Nat) : Nat := if tc = 2 ∨ tc = 4 then 1 else 0

/-- The weight of a class in region `r`. -/
def State.classWeight (s : State) (r tc : Nat) : Nat := s.rfld (pgSwc r) Off.SWC_CLASS_WEIGHT (4 * tc) 4

/-- The class that R224 serves among the classes that qualify, and the weighted round robin after it. -/
def State.arbitrate (s : State) (p : Nat) (cs : List Nat) : Option (Nat × Tbl Nat) :=
  let r := portRegion p
  let served := (s.port p).served
  if cs.contains 1 then some (1, served)
  else
    let w := s.classWeight r
    let cs := cs.filter fun c => w c != 0 || !cs.any fun d => d != c && classRank d == classRank c && w d != 0
    let press := decide (s.poolLevel 0 r ≥ s.poolThr Off.SWC_POOL_PRESS 0 r)
    let cs := if press ∧ cs.any (fun c => classRank c == 0) then cs.filter fun c => classRank c == 0 else cs
    let heavy := cs.filter fun c => w c != 0
    match heavy.find? fun c => decide (served.look 0 c < w c) with
    | some c => some (c, served.upd 0 c (· + 1))
    | none =>
      match heavy with
      | c :: _ => some (c, Tbl.put 0 [] c 1)
      | [] => cs.head?.map fun c => (c, served)

/-- The VC of a class that is served next: the two VCs alternate (R224). -/
def State.pickVc (s : State) (p tc : Nat) : Nat :=
  let other := 1 - (s.port p).lastVc.look 0 tc
  if s.qualifies p tc other then other else 1 - other

/-- The port may start a frame at all. -/
def State.portFree (s : State) (p : Nat) : Bool :=
  let x := s.port p
  s.portUp p && x.sending.isNone && !x.txQuiet && decide (x.txHoldUntil ≤ s.now) && !s.calHolds p && !s.quiesced (pgFab (p / 8))

/-- Head frames that fail the guard band are counted, each once (R266). -/
def State.countGuards (s : State) (p : Nat) : State :=
  (List.range 16).foldl (fun s k =>
    match (s.port p).head (k / 2) (k % 2) with
    | some d =>
      if s.eligible p (k / 2) (k % 2) ∧ !s.guardOk p (k / 2) d.len ∧ !d.guardCounted then
        let s := s.bump pgOrb Off.ORB_GPORT_GUARD p
        s.modPort p fun x => { x with egress := x.egress.upd [] k fun q =>
          match q with | h :: t => { h with guardCounted := true } :: t | [] => [] }
      else s
    | none => s) s

/-- The class and VC that starts on a port, with the round robin after. -/
def State.nextStart (s : State) (p : Nat) : Option (Nat × Nat × Desc × Tbl Nat) :=
  let cs := (List.range 8).filter fun c => s.qualifies p c 0 || s.qualifies p c 1
  match s.arbitrate p cs with
  | none => none
  | some (c, sv) => ((s.port p).head c (s.pickVc p c)).map fun d => (c, s.pickVc p c, d, sv)

/-- A frame starts: it leaves its queue and takes its bits from the shaper (R277). -/
def State.startFrame (s : State) (p tc vc : Nat) (d : Desc) (sv : Tbl Nat) : State :=
  let s := s.modPort p fun x =>
    { x with
      egress := x.egress.upd [] (tc * 2 + vc) List.tail
      sending := some (d, tc * 2 + vc)
      served := sv
      lastVc := x.lastVc.put 0 tc vc }
  let k := p * 8 + tc
  if (s.shapers.look {} k).on then
    { s with shapers := s.shapers.upd {} k fun x => { x with level := x.level - 8 * ((d.len : Int) + 20) } }
  else s

/-- The copies of stored frame `b` that wait in the egress queue of port `p` are dropped and counted in
`SWC_DROP_UE` of region `r` (R242). -/
def State.dropCopies (s : State) (b r p : Nat) : State :=
  let gone := (s.port p).egress.flatMap fun (kv : Nat × List Desc) => kv.2.filter fun d => d.buf == b
  if gone.isEmpty then s
  else
    let s1 := s.modPort p fun x =>
      { x with egress := List.filter (fun (kv : Nat × List Desc) => !kv.2.isEmpty) (x.egress.mapVals (fun q => q.filter fun d => d.buf != b)) }
    gone.foldl (fun s _ => (s.dropRef b).dropSwc r Off.SWC_DROP_UE (s.bufJob b)) s1

/-- A cell of stored frame `b` is uncorrectable: every unsent copy is dropped, and the job that the module built it for
fails (R242). -/
def State.bufferUe (s : State) (b : Nat) (x : Buf) : State :=
  let s := (s.countUe (pgSwc x.region)).raise
    { pg := pgSwc x.region, ev := 6, access := 1, akind := 5, addr := x.ptr, syn := s.ueSyndrome (pgSwc x.region) x.ptr, job := x.job,
      act := match x.job with | some j => [.failJob j 0x0308] | none => [] }
  (s.ports.map (·.1)).foldl (fun s p => s.dropCopies b x.region p) s

/-- The cells of the frame that starts are read: a corrected word is counted and stands corrected (R14), an
uncorrectable one ends the frame (R242), and a frame without errors starts. -/
def State.readAndStart (s : State) (p tc vc : Nat) (d : Desc) (sv : Tbl Nat) : State :=
  match s.buf d.buf with
  | none => s.startFrame p tc vc d sv
  | some x =>
    match x.err with
    | 0 => s.startFrame p tc vc d sv
    | 1 =>
      let t := (s.startFrame p tc vc d sv).countCe (pgSwc x.region)
      { t with sw := { t.sw with bufs := t.sw.bufs.put none d.buf (some { x with err := 0 }) } }
    | _ => s.bufferUe d.buf x

/-- What FRAME_START does on a port: flow-control frames that it owes, the guard counts, and one frame that
qualifies. -/
def State.frameStart (s : State) (p : Nat) : State :=
  let s := (s.sendControl p).countGuards p
  match s.nextStart p with
  | some (c, vc, d, sv) => s.readAndStart p c vc d sv
  | none => s

/-- FRAME_START. -/
def execFrameStart (port : Port) (s : State) : Out := actIf (s.portFree port) s (s.frameStart port)

/-- The bytes of a copy as it leaves port `p` on VC `vc` (R211, R212, R236). -/
def State.egressBytes (s : State) (p : Nat) (d : Desc) (b : Buf) (vc : Nat) : List Byte :=
  if d.raw then b.bytes
  else
    let x := setMacs (setDscp b.bytes b.tc vc) (s.peerMac p) (s.portMac p)
    match d.dest with
    | some i => setDest x i
    | none => x

/-- The frame on the wire has left; the count falls, and cells return after the last copy (R236). A peer that
owes CAL_ACK sends it now and is held (R269). -/
def State.frameEnd (s : State) (p : Nat) (d : Desc) (k : Nat) : State :=
  let s := match s.buf d.buf with
    | some b => s.emit (.frame p d.dest (s.egressBytes p d b (k % 2)))
    | none => s
  let s := (s.modPort p fun x => { x with sending := none, idleSince := s.now }).dropRef d.buf
  if (s.port p).ackOwed then
    (s.sendCal p 7).modPort p fun x => { x with ackOwed := false, heldByPeer := true }
  else s

/-- FRAME_TX_END. -/
def execFrameTxEnd (port : Port) (s : State) : Out :=
  actWith (s.port port).sending s fun (d, k) => (s.frameEnd port d k).watchFlow

/-! ### Policers and shapers (R276 to R278) -/

/-- The ports and classes whose register `off` is listed: key `port * 8 + class`. -/
def State.schedKeys (s : State) (off : Nat) : List Nat :=
  s.regs.filterMap fun kv =>
    let pg := kv.1 % 2 ^ 26 / 2 ^ 14
    let sel := kv.1 / 2 ^ 26
    if kv.1 % 2 ^ 14 = off ∧ pg / 256 < 4 ∧ pg % 256 < 16 then
      some (((pg / 256 * 16 + pg % 256) * 8 + sel % 8) * 8 + sel / 8)
    else none

/-- A field of a scheduling register of a port and class. -/
def State.schedFld (s : State) (k off lo w : Nat) : Nat := s.rfld (pgFab (k / 64)) off lo w (k / 8 % 8 + 8 * (k % 8))

/-- The policer of a port and class after a refill: what is written takes effect, and the buckets gain. -/
def State.refillPolicer (s : State) (k : Nat) : State :=
  let f := s.schedFld k
  let cir := f Off.FAB_POL_CIR 0 21
  let pir := max (f Off.FAB_POL_PIR 0 21) cir
  let cbs := 8 * f Off.FAB_POL_CBS 0 24
  let pbs := 8 * f Off.FAB_POL_PBS 0 24
  let ctl := f Off.FAB_POL_CTRL 0 3
  let g (x : Policer) : Policer :=
    if !ctl.testBit 0 then {}
    else if x.on then { on := true, yDrop := ctl.testBit 1, rDrop := ctl.testBit 2, tc := min (x.tc + cir) cbs, tp := min (x.tp + pir) pbs }
    else { on := true, yDrop := ctl.testBit 1, rDrop := ctl.testBit 2, tc := cbs, tp := pbs }
  { s with policers := s.policers.upd {} k g }

/-- The shaper of a port and class after a refill. -/
def State.refillShaper (s : State) (k : Nat) : State :=
  let f := s.schedFld k
  let g (x : Shaper) : Shaper :=
    if f Off.FAB_SHP_CTRL 0 1 = 0 then {}
    else { on := true, level := min (x.level + f Off.FAB_SHP_RATE 0 21) (8 * f Off.FAB_SHP_BURST 0 24) }
  { s with shapers := s.shapers.upd {} k g }

/-- The refill of every policer and shaper. -/
def State.refill (s : State) : State :=
  let s := { s with sw := { s.sw with refillAt := s.now } }
  let s := ((s.schedKeys Off.FAB_POL_CTRL ++ s.policers.map (·.1)).foldl insertOnce []).foldl State.refillPolicer s
  ((s.schedKeys Off.FAB_SHP_CTRL ++ s.shapers.map (·.1)).foldl insertOnce []).foldl State.refillShaper s

/-- BUCKET_REFILL: every 1,000 ns (R276, R277). -/
def execBucketRefill (s : State) : Out := actIf (decide (s.sw.refillAt + 1000 ≤ s.now)) s s.refill

/-! ### Discovery (R444, R445) -/

/-- The modified EUI-64 interface identifier of a MAC address. -/
def eui64 (mac : Nat) : Nat := Nat.xor (mac / 2 ^ 24) 0x020000 * 2 ^ 40 + 0xFFFE * 2 ^ 24 + mac % 2 ^ 24

/-- The payload of a DISCOVER of port `p` (R444). -/
def State.discoverPayload (s : State) (p : Nat) : List Byte :=
  let pos := s.reg pgMgt Off.MGT_POSITION
  leBytes 4 (fld pos 0 24 + (bit pos 31).toNat * 2 ^ 31) ++ leBytes 2 p ++
    leBytes 1 (s.rfld (pgFab (p / 8)) Off.FAB_BLK_MODE 0 2) ++ [0] ++ leBytes 4 (s.reg pgSec Off.SEC_ID_HASH0).toNat ++
    leBytes 6 (s.portMac p) ++ List.replicate 14 0

/-- The DISCOVER frame of port `p`: from its link-local address to all nodes, hop limit 1 (R444). -/
def State.discoverFrame (s : State) (p : Nat) : List Byte :=
  let h : LfpHeader :=
    { version := 1, type := 0xB, tc := 0, flags := 0, job := 0, group := 0, member := 0, format := 6, cls := 0,
      step := (s.port p).discSent.toNat, chunk := 0, attempt := 0, elemOffset := 0, count := 32 }
  let data := lfpBytes h (s.discoverPayload p)
  let port := s.rfld (pgSwc (portRegion p)) Off.SWC_LFP_UDP_PORT 0 16
  let src := 0xFE80 * 2 ^ 112 + eui64 (s.portMac p)
  let dst := 0xFF02 * 2 ^ 112 + 1
  let udp := beBytes 2 (Config.entropyHash 0 0 % 2 ^ 16) ++ beBytes 2 port ++ beBytes 2 (8 + data.length)
  let x := fold16 (pseudoSum true src dst (8 + data.length) + sum16 (udp ++ [0, 0] ++ data))
  beBytes 6 0x333300000001 ++ beBytes 6 (s.portMac p) ++ beBytes 2 0x86DD ++ beBytes 4 (6 * 2 ^ 28 + 0x20 * 2 ^ 22) ++
    beBytes 2 (8 + data.length) ++ [17, 1] ++ beBytes 16 src ++ beBytes 16 dst ++ udp ++
    beBytes 2 (if x = 0xFFFF then 0xFFFF else 0xFFFF - x) ++ data

/-- A second has passed since the DISCOVER on entering UP or the last one of the seconds (R444). -/
def State.discoverSecond (s : State) (p : Nat) : Bool :=
  match (s.port p).lastDisc with | none => true | some t => decide (10 ^ 9 ≤ s.now - t)

/-- A DISCOVER of port `p` is put into its TC0 queue. -/
def State.sendDiscover (s : State) (p : Nat) : State :=
  let bytes := s.discoverFrame p
  let (n, s) := s.addBuf { bytes := bytes, tc := 0, region := portRegion p }
  let d : Desc := { buf := n, len := bytes.length + 4, cells := cellsOf bytes.length, raw := true }
  let again := s.discoverSecond p
  let s := s.modPort p fun x =>
    { x with
      discSent := x.discSent + 1
      lastDisc := if again then some s.now else x.lastDisc
      discNow := x.discNow && again }
  s.enqueue (portRegion p) p 0 0 d

/-- A DISCOVER is due: on entering UP, each second, and when the position is first written (R444). -/
def State.discoverDue (s : State) (p : Nat) : Bool := s.portUp p && (s.discoverSecond p || (s.port p).discNow)

/-- DISCOVER_SEND. -/
def execDiscoverSend (port : Port) (s : State) : Out := actIf (s.discoverDue port) s (s.sendDiscover port)

/-- The management complex takes a DISCOVER (R445). -/
def State.takeDiscover (s : State) (m : Msg) : State :=
  let b := m.payload
  let d : Disc :=
    { position := bits (leAt b 0 4) 0 24, positioned := (leAt b 0 4).testBit 31, port := bits (leAt b 4 2) 0 9,
      mode := bits (leAt b 6 1) 0 2, id := word (leAt b 8 4), mac := leAt b 12 6 }
  (s.modPort m.port fun x => { x with disc := some d, lh := true }).bumpPort m.port Off.FAB_DISC_RX

/-- DISCOVER. -/
def execDiscover (a : Arrival) (s : State) : Out :=
  onRx s (s.receive a fun m => m.h.type == 0xB) fun t m => t.takeDiscover m

/-! ### Congestion maps and the telemetry strobe (R240, R241, R275, R366) -/

/-- The depth bin of R240. -/
def depthBin (d : Nat) : Nat :=
  if d = 0 then 0 else if d < 16 then 1 else if d < 64 then 2 else if d < 256 then 3 else if d < 1024 then 4
  else if d < 4096 then 5 else if d < 16384 then 6 else 7

/-- The `slice_log` in force in region `r`, 0 to 4. -/
def State.sliceLog (s : State) (r : Nat) : Nat := min 4 (s.rfld (pgSwc r) Off.SWC_CMAP_CTRL 1 3)

/-- The key of a counter of the map: port, class, slice, bin. -/
def cmapKey (p c slice bin : Nat) : Nat := ((p * 8 + c) * 16 + slice) * 8 + bin

/-- One sample of every port and class of region `r` (R240). -/
def State.sampleMap (s : State) (r : Nat) : State :=
  let slice := s.angle.toNat / 2 ^ (32 - s.sliceLog r)
  let cmap := (List.range 128).foldl (fun t q => (List.range 8).foldl (fun t c =>
    let p := 128 * r + q
    let d := (s.port p).depth c 0 + (s.port p).depth c 1
    Tbl.upd 0 t (cmapKey p c slice (depthBin d)) fun n => min (n + 1) 0xFFFF) t) s.sw.cmap
  { s with sw := { s.sw with cmap := cmap }, orb := { s.orb with cmapDue := s.orb.cmapDue.erase r } }

/-- CMAP_SAMPLE. -/
def execCmapSample (region : Region) (s : State) : Out := actIf (s.orb.cmapDue.contains region) s (s.sampleMap region)

/-- The record of one port in a frozen map (R241, R366). -/
def State.cmapRecord (s : State) (r q : Nat) : List Byte :=
  let p := 128 * r + q
  leBytes 2 p ++ [0, 0] ++ (List.range 8).flatMap fun c => (List.range (2 ^ s.sliceLog r)).flatMap fun sl =>
    (List.range 8).flatMap fun b => leBytes 2 (s.sw.cmap.look 0 (cmapKey p c sl b))

/-- The map of region `r` is frozen, sent and cleared (R241). -/
def State.exportMap (s : State) (r : Nat) : State :=
  let recs := (List.range 128).map (s.cmapRecord r)
  let s := { s with sw := { s.sw with cmap := s.sw.cmap.drop fun k => k / 131072 == r },
                    orb := { s.orb with exportDue := s.orb.exportDue.erase r } }
  s.telemetry 2 r s.angle s.orb.turn recs

/-- CMAP_EXPORT. -/
def execCmapExport (region : Region) (s : State) : Out := actIf (s.orb.exportDue.contains region) s (s.exportMap region)

/-- Every mapped page. -/
def allPages : List Nat := ((List.range 4).flatMap fun r => (List.range 0x28).map fun n => r * 256 + n) ++ (List.range 7).map fun n => 0xC00 + n

/-- The strobe record of a block, where one of its selectors is set (R366). -/
def State.strobeRecord (s : State) (pg : Nat) : Option (List Byte) :=
  if (List.range 4).any fun i => s.reg pg (Off.BLK_PERF_SEL0 + 4 * i) != 0 then
    some (leBytes 2 (pg * 16) ++ [0, 0, 0, 0, 0, 0] ++ (List.range 4).flatMap fun i =>
      leBytes 4 (s.perfWord pg i 0).toNat ++ leBytes 4 (s.perfWord pg i 1).toNat)
  else none

/-- The records of a strobe that belong to one region, or to the chip blocks. -/
def State.strobe (s : State) (a : Angle) (r : Nat) : State :=
  let recs := (allPages.filter fun pg => pg / 256 == r).filterMap s.strobeRecord
  if recs.isEmpty then s else s.telemetry 1 r a s.orb.turn recs

/-- The first strobe of R275 that is due, at angle `a`. -/
def State.strobeAll (s : State) (a : Angle) : State :=
  [0, 1, 2, 3, 12].foldl (State.strobe · a) { s with orb := { s.orb with strobeDue := s.orb.strobeDue.drop 1 } }

/-- TELEMETRY_STROBE. -/
def execTelemetryStrobe (s : State) : Out := actWith s.orb.strobeDue.head? s fun a => s.strobeAll a

end Sys2Proof.Machine
end

