-- ==== Sys2Proof/Machine/Orbit.lean ====
section
/-!
DEFINITION. Marks, locking, the orbit master, sources and probes, BEACON messages
(spec/09_orbit_and_gates.md R246 to R261) and the wall clock (R279).
-/

namespace Sys2Proof.Machine

/-! ### Sources (R246, R248, R261) -/

/-- The signed correction of source `i` in ns. -/
def State.srcAsym (s : State) (i : Nat) : Int := sext 16 (fld (s.srcWord i) 16 16)

/-- The master identity behind source `i`, where it is known. -/
def State.srcMaster (s : State) (i : Nat) : Option Word :=
  match s.srcPort i with
  | none => some (s.reg pgOrb Off.ORB_PIN_MASTER_ID)
  | some _ => (s.orb.srcState i).master

/-- The delay of source `i` is known: the pin pair, or a port with 16 probes. -/
def State.srcMeasured (s : State) (i : Nat) : Bool :=
  match s.srcPort i with
  | none => true
  | some p => s.beaconPort p && (s.orb.probes.look {} p).samples.length == 16

/-- Source `i` is usable (R246): while an identity is in use, its own must be known and equal to it. -/
def State.usable (s : State) (i : Nat) : Bool :=
  let x := s.orb.srcState i
  s.srcValid i && !x.lost && !s.srcPaused i && s.srcMeasured i && decide (s.srcStratum i < 15) &&
  (match s.orb.masterSeen, s.srcMaster i with
   | none, _ => true
   | some a, some b => a == b
   | some _, none => false)

/-- The usable source of highest priority. -/
def State.bestSource (s : State) : Option Nat := leastBelow 4 s.usable

/-- The turn that a lock on source `i` begins with (R250): a port source's as its BEACON messages tell it; a pin source's
is counted from the first double pulse after lock (DESIGN CHOICE, notes/assumptions/120.md). -/
def State.srcTurn (s : State) (i : Nat) : Word := if (s.srcPort i).isSome then (s.orb.srcState i).turn else 0

/-- The block follows the usable source of highest priority; a move is counted (R246, R261), and the turn is that of the
new source where its port tells it (R250). -/
def State.follow (s : State) : State :=
  match s.bestSource with
  | none => s
  | some i =>
    if s.followed = some i then s
    else
      let moved := s.orb.hasSrc
      let s := { s with orb := { s.orb with src := Fin.ofNat 4 i, hasSrc := true } }
      let s := if (s.srcPort i).isSome then { s with orb := { s.orb with turn := s.srcTurn i } } else s
      if moved then (s.bump pgOrb Off.ORB_SWITCHES).raise { pg := pgOrb, ev := 2 } else s

/-- The master identity in use, 0 for none; each change of it is logged for attestation (R385). -/
def State.setMaster (s : State) (m : Option Word) : State :=
  let t := { s with orb := { s.orb with masterSeen := m } }
  if s.orb.masterSeen = m then t else t.attest .master (leBytes 4 (m.getD 0).toNat)

/-! ### Marks that leave (R247, R249, R255) -/

/-- Pulses on ORBIT_OUT, while it is driven. -/
def State.pulses (s : State) (n : Nat) : State := if s.rbit pgOrb Off.ORB_CTRL 2 then s.emit (.orbitOut n) else s

/-- A MARK (1), HOLD (2) or RESUME (3) whose event lies `e` ns in the past leaves on every beacon port that no
peer's window holds, and on ORBIT_OUT; a delay above 4,095 ns is not sent. -/
def State.sendMark (s : State) (kind : Nat) (j : BitVec 16) (e : Nat) : State :=
  let s := if e ≤ 4095 then
      (s.beaconPorts.filter fun p => !(s.port p).heldByPeer).foldl
        (fun s p => s.emit (.orderedSet p kind j s.stratum e)) s
    else s
  s.pulses (match kind with | 2 => 3 | 3 => 4 | _ => if j = 0 then 2 else 1)

/-! ### Calibration windows when the orbit stops (R271) -/

/-- What the lead of an edge port stopped may send again (R272). -/
def State.releaseCalStops (s : State) (p : Nat) : State :=
  let s := s.modPort p fun x => { x with stopsTx := x.stopsTx.map fun t => { t with cal := false } }
  [1, 2, 3, 4, 5, 6].foldl (fun s tc => s.flowStep p tc 0) s

/-- The window of port `p` is over and its link carries data (R269, R272): an edge port resumes, any other sends
CAL_EXIT. -/
def State.windowOver (s : State) (p : Nat) : State :=
  if (s.attr p).role = 1 then s.releaseCalStops p
  else ((s.sendCal p 8).modCal p fun x => { x with announced := false }).touchSources p

/-- The window of a target ends (R269): a port whose link carries data sends CAL_EXIT, an edge port resumes; a
port whose link does not yet carry data owes it. A later window whose lead has passed keeps it, and the CAL_ACK that came
for it. -/
def State.endWindow (s : State) (t : Nat) : State :=
  let w := s.calWin t
  let s := if w.requests.isEmpty then s else s.bump pgOrb Off.ORB_CAL_SKIP
  let s := s.modCal t fun x =>
    { x with
      isOpen := false
      endDue := false
      ack := x.nextAck
      nextAck := false
      cut := false
      endedAt := some s.now }
  let s := if t < 512 then s.modPort t fun x => { x with idleSince := s.now } else s
  if t ≥ 512 then s
  else if (s.port t).st = .up then s.windowOver t
  else s.modCal t fun x => { x with exitPending := true }

/-- The open windows end with the orbit's stop: at once, or after the step in progress; each is counted once (R271). -/
def State.cutWindows (s : State) : State :=
  (s.cal.filter fun kv => kv.2.isOpen && !kv.2.cut).foldl (fun s kv =>
    let s := (s.bump pgOrb Off.ORB_CAL_CUT).raise { pg := pgOrb, ev := 6 }
    if kv.2.step.isSome then s.modCal kv.1 fun w => { w with endDue := true, cut := true } else s.endWindow kv.1) s

/-- The block enters LOST: no identity is in use, a port source gives its identity anew and a pin source its index
(R251, R259, R261, R448). -/
def State.loseOrbit (s : State) : State :=
  let s := ({ s with orb := { s.orb with st := .lost, prevWasMark := false, run := 0, lastPattern := none } }).setMaster none
  let s := (List.range 4).foldl (fun s i => s.modSrc i fun x => { x with master := none }) s
  ((s.bump pgOrb Off.ORB_LOSSES).raise { pg := pgOrb, ev := 3 }).cutWindows

/-! ### Applying events (R251 to R253, R260) -/

/-- Travel per ns of an interval in 1/256 ns. -/
def incOf (tint : Nat) : Nat := 2 ^ 40 / max 1 tint

/-- The travel `e` ns after a mark. -/
def Orb.after (o : Orb) (e : Nat) : Nat := min (e * o.inc) maxTravel

/-- The largest forward correction since the last read is kept (R252). -/
def State.noteJump (s : State) (units : Nat) : State :=
  s.setReg pgOrb Off.ORB_JUMP_MAX (word (min 0xFFFF (max (s.reg pgOrb Off.ORB_JUMP_MAX).toNat units)))

/-- Marks skipped, or a stale or conflicting event (R252, R260). -/
def State.slip (s : State) : State := (s.bump pgOrb Off.ORB_SLIP).raise { pg := pgOrb, ev := 1 }

/-- The interval estimate after a mark at `at_`, in 1/256 ns, that follows mark `m` (R252). -/
def Orb.measure (o : Orb) (k : Nat) (at_ : Int) : Orb :=
  let delta := at_ - o.markAt
  let tint : Nat := if o.measured then (o.tint + (delta - o.tint) / (2 ^ k : Nat)).toNat else delta.toNat
  { o with tint := tint, inc := incOf tint, last := delta.toNat, measured := true, everMeasured := true }

/-- Mark `j` is applied in LOCKED (R252); the passage lies `e` ns in the past. -/
def State.applyMark (s : State) (j : BitVec 16) (e : Nat) : State :=
  let d := markDiff j s.orb.m
  if d = 0 then s
  else if d ≥ 0x8000 then s.slip
  else
    let s := if d > 1 then s.slip else s
    let at_ : Int := 256 * ((s.now : Int) - e)
    let a0 := s.angle
    let o := if d = 1 ∧ s.orb.prevWasMark then s.orb.measure (s.rfld pgOrb Off.ORB_CTRL 4 3) at_ else s.orb
    let o := { o with m := j, f := o.after e, markAt := at_, prevWasMark := true }
    let s := ({ s with orb := o }).noteJump (travel a0 (BitVec.ofNat 32 (j.toNat * 65536 + o.f / 65536)))
    (s.advance a0 s.angle).sendMark 1 j e

/-- The gates take the state of the lock angle (R263). -/
def State.alignGates (s : State) : State :=
  { s with gates := s.gates.mapVals fun g => { g with openMask := g.openAt s.angle, passFrom := none } }

/-- Entry to LOCKED by source `i` with mark `j` at its passage `e` ns ago: no earlier angle passes (R251). -/
def State.enterLocked (s : State) (i : Nat) (j : BitVec 16) (e : Nat) (master : Word) : State :=
  let o := s.orb
  let s := ({ s with orb := { o with
    st := .locked
    m := j
    f := o.after e
    turn := s.srcTurn i } }).setMaster (some master)
  (s.alignGates.raise { pg := pgOrb, ev := 0 }).sendMark 1 j e

/-- A MARK in UNLOCKED, LOCKING or LOST: the run of four towards LOCKED (R251). -/
def State.lockingMark (s : State) (i : Nat) (j : Option (BitVec 16)) (e : Nat) : State :=
  let at_ : Int := 256 * ((s.now : Int) - e)
  let fresh := s.orb.st ≠ .locking
  let idx := j.getD (s.orb.m + 1)
  let seq := !fresh && s.orb.prevWasMark && idx == s.orb.m + 1
  let o := if fresh then { s.orb with st := .locking, measured := false, indexKnown := false } else s.orb
  let o := if seq then o.measure (s.rfld pgOrb Off.ORB_CTRL 4 3) at_ else o
  let run := if seq then o.run + 1 else 1
  let s := { s with orb := { o with
    m := idx
    run := run
    markAt := at_
    prevWasMark := true
    indexKnown := o.indexKnown || j.isSome } }
  match s.srcMaster i with
  | some ms => if run ≥ 4 ∧ s.orb.indexKnown then s.enterLocked i idx e ms else s
  | none => s

/-- A HELD block resumes at its held index with the travel since (R253). -/
def State.resumeHeld (s : State) (j : BitVec 16) (e : Nat) : State :=
  let a0 := s.angle
  let o := { s.orb with st := .locked, m := j, f := s.orb.after e, markAt := 256 * ((s.now : Int) - e), prevWasMark := false }
  let s := { s with orb := o }
  (s.advance a0 s.angle).sendMark 3 j e

/-- A MARK from the followed source. -/
def State.takeMark (s : State) (i : Nat) (j : Option (BitVec 16)) (e : Nat) : State :=
  match s.orb.st with
  | .unlocked | .locking | .lost => s.lockingMark i j e
  | .locked => match j with | some j => s.applyMark j e | none => s
  | .held =>
    match j with
    | none => s
    | some j =>
      let d := markDiff j s.orb.held
      if 1 ≤ d ∧ d < 0x8000 then
        ({ s with orb := { s.orb with st := .locked, prevWasMark := false } }).applyMark j e
      else if d = 0 then s else s.slip
  | .master => s

/-- A HOLD of index `j` from the followed source (R253); each repetition of it in HELD leaves again (R249). -/
def State.takeHold (s : State) (j : BitVec 16) : State :=
  match s.orb.st with
  | .locking => { s with orb := { s.orb with run := 0, prevWasMark := false } }
  | .locked | .held =>
    let d := markDiff j s.orb.m
    if d ≥ 0x8000 then s.slip
    else if d = 0 ∧ s.orb.st = .held then s.sendMark 2 j 0
    else
      let s := if d > 1 then s.slip else s
      let a0 := s.angle
      let o := { s.orb with m := j, f := if d = 0 then s.orb.f else 0, prevWasMark := false }
      let s := ({ s with orb := o }).advance a0 (BitVec.ofNat 32 (j.toNat * 65536 + o.f / 65536))
      (({ s with orb := { s.orb with st := .held, held := j } }).sendMark 2 j 0).cutWindows
  | _ => s

/-- A RESUME of index `j` from the followed source (R253). -/
def State.takeResume (s : State) (j : BitVec 16) (e : Nat) : State :=
  match s.orb.st with
  | .locking => { s with orb := { s.orb with run := 0, prevWasMark := false } }
  | .held => if markDiff j s.orb.held < 0x8000 then s.resumeHeld j e else s.slip
  | _ => s

/-- The sources that an event arrives on. -/
def State.sourcesOf (s : State) : OrbitIn → List Nat
  | .pin _ => (List.range 4).filter fun i => s.srcValid i && (s.srcPort i).isNone
  | .os p _ _ _ => (List.range 4).filter fun i => s.srcValid i && s.srcPort i == some p.val && s.beaconPort p

/-- How long ago in ns an event of source `i` passed (R248, R249). -/
def State.eventAge (s : State) (i : Nat) : OrbitIn → Nat
  | .pin n => (64 * ((n : Int) - 1) + s.srcAsym i).toNat
  | .os p _ _ d => ((d.toNat : Int) + s.portDelay p + s.srcAsym i).toNat

/-- Stratum that an event carries. -/
def OrbitIn.stratum : OrbitIn → Nat
  | .pin _ => 0
  | .os _ _ st _ => st.toNat

/-- The event is recorded at its sources (R261). -/
def State.heardEvent (s : State) (e : OrbitIn) : State :=
  (s.sourcesOf e).foldl (fun s i => s.modSrc i fun x => { x with lastEvent := s.now, lost := false, stratum := OrbitIn.stratum e }) s

/-- An event reaches the block: a master ignores an event of stratum 0, counts it as a conflict (R260) and raises the two
events of R280; a follower takes it where its source is the one that is followed. -/
def State.orbitEvent (s : State) (e : OrbitIn) (f : State → Nat → State) : State :=
  if (s.sourcesOf e).isEmpty then s
  else
    let s := s.heardEvent e
    if s.orb.st = .master then
      if OrbitIn.stratum e = 0 then s.slip.raise { pg := pgOrb, ev := 4 } else s
    else
      let s := s.follow
      match (s.sourcesOf e).find? fun i => s.followed == some i && s.usable i with
      | some i => f s i
      | none => s

/-- The index of a pin pattern, where it is known (R249), and the pattern state after. -/
def State.pinIndex (s : State) (n : Nat) : Option (BitVec 16) × State :=
  let j : Option (BitVec 16) :=
    match n with
    | 2 => some 0
    | 1 => s.orb.lastPattern.map (· + 1)
    | 3 => if s.orb.pinHeld then s.orb.lastPattern else s.orb.lastPattern.map (· + 1)
    | _ => s.orb.lastPattern
  (j, { s with orb := { s.orb with lastPattern := j, pinHeld := n == 3 } })

/-- The index of an event, and the state after the pattern. -/
def State.eventIndex (s : State) : OrbitIn → Option (BitVec 16) × State
  | .pin n => s.pinIndex n
  | .os _ j _ _ => (some j, s)

/-- The event has the number of pulses of a pattern. -/
def OrbitIn.has (l : List Nat) : OrbitIn → Bool
  | .pin n => l.contains n
  | .os .. => true

/-- MARK. -/
def State.markEvent (s : State) (e : OrbitIn) : State :=
  let (j, s) := s.eventIndex e
  s.orbitEvent e fun t i => t.takeMark i j (t.eventAge i e)

/-- MARK. -/
def execMark (e : OrbitIn) (s : State) : Out := actIf (s.awake && OrbitIn.has [1, 2] e) s (s.markEvent e)

/-- HOLD. -/
def State.holdEvent (s : State) (e : OrbitIn) : State :=
  let (j, s) := s.eventIndex e
  s.orbitEvent e fun t _ => match j with | some j => t.takeHold j | none => t

/-- HOLD. -/
def execHold (e : OrbitIn) (s : State) : Out := actIf (s.awake && OrbitIn.has [3] e) s (s.holdEvent e)

/-- RESUME. -/
def State.resumeEvent (s : State) (e : OrbitIn) : State :=
  let (j, s) := s.eventIndex e
  s.orbitEvent e fun t i => match j with | some j => t.takeResume j (t.eventAge i e) | none => t

/-- RESUME. -/
def execResume (e : OrbitIn) (s : State) : Out := actIf (s.awake && OrbitIn.has [4] e) s (s.resumeEvent e)

/-! ### Probes (R248) -/

/-- A BEACON ordered set can leave on port `p` now. -/
def State.beaconFree (s : State) (p : Nat) : Bool := s.beaconPort p && !(s.port p).heldByPeer

/-- PROBE: answered in every orbit state, in the command that brings it: a turnaround of 0, whatever `delay` the probe
carries (DEDUCED, notes/assumptions/69.md). -/
def execProbe (port : Port) (index : BitVec 16) (_delay : BitVec 12) (s : State) : Out :=
  actIf (s.beaconFree port) s (s.emit (.orderedSet port 5 index s.stratum 0))

/-- A PROBE leaves on a port. -/
def State.sendProbe (s : State) (p : Nat) : State :=
  let x := s.orb.probes.look {} p
  let s := { s with orb := { s.orb with probes := s.orb.probes.upd {} p fun y =>
    { y with next := y.next + 1, sent := some (y.next, s.now), lastSent := s.now, due := false } } }
  s.emit (.orderedSet p 4 x.next s.stratum 0)

/-- PROBE_SEND. -/
def execProbeSend (port : Port) (s : State) : Out :=
  actIf (s.beaconFree port && (s.orb.probes.look {} port).due) s (s.sendProbe port)

/-- The round trip of the probe under way on a port, if the ECHO is of it. -/
def State.roundTrip (s : State) (p : Nat) (index : BitVec 16) : Option Nat :=
  match (s.orb.probes.look {} p).sent with
  | some (i, t) => if i = index ∧ s.beaconPort p then some (s.now - t) else none
  | none => none

/-- A measurement joins the last 16 of a port. -/
def State.takeEcho (s : State) (p rtt turn : Nat) : State :=
  { s with orb := { s.orb with probes := s.orb.probes.upd {} p fun y =>
    { y with sent := none, samples := (y.samples ++ [(rtt : Int) - turn]).drop (y.samples.length + 1 - 16) } } }

/-- ECHO. -/
def execEcho (port : Port) (index : BitVec 16) (delay : BitVec 12) (s : State) : Out :=
  actWith (s.roundTrip port index) s fun r => s.takeEcho port r delay.toNat

/-! ### The master (R255 to R259) -/

/-- The target interval of the master (R256). -/
def State.targetInterval (s : State) : Nat := max 0x3E800 (s.reg pgOrb Off.ORB_MASTER_INTERVAL).toNat

/-- The interval of the master after one mark: at most 1/64 of it nearer to the target (R256). -/
def slew (cur target : Nat) : Nat :=
  if cur < target then min target (cur + cur / 64) else max target (cur - cur / 64)

/-- The next mark boundary of the master, or the next repetition of a HOLD, is reached. -/
def State.masterDue (s : State) : Bool :=
  s.orb.st == .master &&
  (if s.orb.masterStopped then decide (s.orb.lastHoldSent + s.orb.tint ≤ 256 * s.now)
   else decide (s.orb.markAt + s.orb.tint ≤ 256 * (s.now : Int)))

/-- The master stops at boundary `j` (R257). -/
def State.masterStop (s : State) (j : BitVec 16) : State :=
  let a0 := s.angle
  let s := { s with orb := { s.orb with m := j, f := 0, markAt := 256 * (s.now : Int) } }
  let s := s.advance a0 s.angle
  ({ s with orb := { s.orb with masterStopped := true, held := j, lastHoldSent := 256 * s.now } }).sendMark 2 j 0

/-- Mark `j` of the master passes (R255, R256). -/
def State.masterPass (s : State) (j : BitVec 16) : State :=
  let a0 := s.angle
  let at_ := s.orb.markAt + s.orb.tint
  let e := ((256 * (s.now : Int) - at_) / 256).toNat
  let tint := slew s.orb.tint s.targetInterval
  let o := { s.orb with m := j, markAt := at_, last := s.orb.tint, tint := tint, inc := incOf tint,
                        measured := true, everMeasured := true }
  let s := { s with orb := { o with f := o.after e } }
  (s.advance a0 s.angle).sendMark 1 j e

/-- What MASTER_MARK does. -/
def State.masterMark (s : State) : State :=
  if s.orb.masterStopped then ({ s with orb := { s.orb with lastHoldSent := 256 * s.now } }).sendMark 2 s.orb.held 0
  else if s.rbit pgOrb Off.ORB_CTRL 1 then s.masterStop (s.orb.m + 1)
  else s.masterPass (s.orb.m + 1)

/-- MASTER_MARK. -/
def execMasterMark (s : State) : Out := actIf (s.awake && s.masterDue) s s.masterMark

/-- The identity that the module announces as master (R255). -/
def State.masterId (s : State) : Word :=
  let id := s.reg pgOrb Off.ORB_MASTER_ID
  if id = 0 then word (s.rfld pgMgt Off.MGT_POSITION 0 24) else id

/-- The module becomes orbit master (R255): from its angle, which reads 0 before lock, and with the interval it has
measured since reset, or else the target interval. -/
def State.becomeMaster (s : State) : State :=
  let o := if s.orb.everMeasured then s.orb
    else { s.orb with tint := s.targetInterval, inc := incOf s.targetInterval, last := s.targetInterval }
  let o' : Orb :=
    match o.st with
    | .unlocked | .locking => { o with st := .master, m := 0, f := 0, markAt := 256 * (s.now : Int) }
    | _ => { o with st := .master, markAt := 256 * (s.now : Int) - o.f / max 1 o.inc * 256 }
  let s := ({ s with orb := { o' with masterStopped := false, hasSrc := false } }).setMaster (some s.masterId)
  s.alignGates.raise { pg := pgOrb, ev := 0 }

/-- `master` is cleared (R259). -/
def State.ceaseMaster (s : State) : State :=
  ({ s with orb := { s.orb with masterStopped := false, hasSrc := false } }).loseOrbit

/-- `hold` is cleared on a held master: RESUME, and the next mark one interval later (R257). -/
def State.masterResume (s : State) : State :=
  if s.orb.st = .master ∧ s.orb.masterStopped then
    ({ s with orb := { s.orb with masterStopped := false, markAt := 256 * (s.now : Int) } }).sendMark 3 s.orb.held 0
  else s

/-! ### Loss (R261) -/

/-- Source `i` has delivered no event for `loss_marks` intervals. -/
def State.srcExpired (s : State) (i : Nat) : Bool :=
  let x := s.orb.srcState i
  s.srcValid i && !x.lost && !s.srcPaused i && s.orb.tint != 0 &&
  decide (s.rfld pgOrb Off.ORB_CTRL 8 4 * s.orb.tint ≤ 256 * (s.now - x.lastEvent))

/-- The source that is followed is no longer usable. -/
def State.followLost (s : State) : Bool := match s.followed with | some i => !s.usable i | none => false

/-- A source is lost, or the followed one is not usable, while the block follows marks. -/
def State.lossDue (s : State) : Bool :=
  (match s.orb.st with | .locking | .locked | .held => true | _ => false) &&
  ((List.range 4).any s.srcExpired || s.followLost)

/-- What SOURCE_LOSS does: the lost sources are marked; the block moves on, or enters LOST. -/
def State.sourceLoss (s : State) : State :=
  let gone := (List.range 4).filter s.srcExpired
  let s := gone.foldl (fun s i => s.modSrc i fun x => { x with lost := true }) s
  if !s.followLost then s
  else if s.bestSource.isSome then s.follow
  else ({ s with orb := { s.orb with hasSrc := false } }).loseOrbit

/-- SOURCE_LOSS. -/
def execSourceLoss (s : State) : Out := actIf s.lossDue s s.sourceLoss

/-! ### BEACON messages (R250, R260) -/

/-- A received BEACON message. -/
def State.takeBeacon (s : State) (m : Msg) : State :=
  let b := m.payload
  let master := word (leAt b 0 4)
  let mine := (List.range 4).filter fun i => s.srcValid i && s.srcPort i == some m.port
  let s := mine.foldl (fun s i => s.modSrc i fun x =>
    { x with master := some master, turn := word m.h.step, interval := word (leAt b 4 4) }) s
  let s :=
    if s.orb.st != .master && (match s.orb.masterSeen with | some a => a != master | none => false) then
      (s.bump pgOrb Off.ORB_SLIP).raise { pg := pgOrb, ev := 4 }
    else s
  match s.followed with
  | some i =>
    if mine.contains i ∧ s.orb.masterSeen = some master then
      { s with orb := { s.orb with slewing := (leAt b 9 1).testBit 1, turn := word m.h.step } }
    else s
  | none => s

/-- BEACON. -/
def execBeacon (a : Arrival) (s : State) : Out :=
  onRx s (s.receive a fun m => m.h.type == 0xA) fun t m => t.takeBeacon m

/-- The payload of a BEACON message (R250). -/
def State.beaconPayload (s : State) : List Byte :=
  let interval := if s.orb.st = .master then word s.targetInterval
    else match s.followed with | some i => (s.orb.srcState i).interval | none => 0
  let slewing := if s.orb.st = .master then decide (s.orb.tint ≠ s.targetInterval) else s.orb.slewing
  leBytes 4 (s.orb.masterSeen.getD 0).toNat ++ leBytes 4 interval.toNat ++ leBytes 1 s.stratum ++
    leBytes 1 ((s.orb.st == .held || s.orb.masterStopped).toNat + 2 * slewing.toNat) ++ List.replicate 6 0

/-- BEACON messages on every beacon port, to the module that DISCOVER found there. -/
def State.sendBeacons (s : State) : State :=
  let h : LfpHeader :=
    { version := 1, type := 0xA, tc := 0, flags := 0, job := 0, group := 0, member := 0, format := 6, cls := 0,
      step := s.orb.turn.toNat, chunk := 0, attempt := 0, elemOffset := 0, count := 16 }
  let pay := s.beaconPayload
  let s := { s with orb := { s.orb with beaconDue := false } }
  s.beaconPorts.foldl (fun s p =>
    let id := match (s.port p).disc with | some d => d.position | none => 0
    s.build { region := portRegion p, slot := none, hdr := h, payload := pay, targets := [.local p id] }) s

/-- BEACON_SEND. -/
def execBeaconSend (s : State) : Out :=
  actIf (s.orb.beaconDue && (s.orb.st == .locked || s.orb.st == .master)) s s.sendBeacons

/-! ### The wall clock (R279) -/

/-- The network of a host port. -/
def hostNet (p : Nat) : Fin 2 := if p < 4 then 0 else 1

/-- Whether a PTP message came over IPv6. -/
def PtpIn.v6 : PtpIn → Bool
  | .sync v _ _ | .delayResp v _ _ | .announce v _ => v

/-- The domain of a PTP message. -/
def PtpIn.domain : PtpIn → Byte
  | .sync _ d _ | .delayResp _ d _ | .announce _ d => d

/-- The message reaches the clock: PTP is enabled, on the network in use, by its transport and of its domain. -/
def State.ptpFor (s : State) (p : Nat) (x : PtpIn) : Bool :=
  s.rbit pgOrb Off.ORB_PTP_CTRL 0 && hostNet p == s.wall.net && s.rbit pgOrb Off.ORB_PTP_CTRL 3 == PtpIn.v6 x &&
  s.rfld pgOrb Off.ORB_PTP_CTRL 8 8 == (PtpIn.domain x).toNat

/-- The master is heard. -/
def State.hearMaster (s : State) : State :=
  { s with wall := { s.wall with state := if s.wall.state = 0 then 1 else s.wall.state } }

/-- What a PTP message does: the delay request-response mechanism of IEEE 1588-2019. The request leaves in the command
that brings the SYNC. -/
def State.takePtp (s : State) (port : HostPort) : PtpIn → State
  | .announce .. => s.hearMaster
  | .sync v6 _ t1 =>
    let s := s.hearMaster
    ({ s with wall := { s.wall with sync := some (t1, s.stamp port 16, s.stamp port 0) } }).emit (.delayReq port v6)
  | .delayResp _ _ t4 =>
    match s.wall.sync with
    | none => s
    | some (t1, t2, t3) =>
      let off : Int := ((t2 - t1) - ((t4 : Int) - t3)) / 2
      let s := s.setReg pgOrb Off.ORB_PTP_OFFSET (BitVec.ofInt 32 off)
      { s with wall := { s.wall with ns := ((s.wall.ns : Int) - off).toNat, state := 2, sync := none } }

/-- PTP_MESSAGE. -/
def execPtpMessage (port : HostPort) (p : PtpIn) (s : State) : Out :=
  actIf (s.ptpFor port p) s (s.hostTake port fun s => s.takePtp port p)

/-- The master is no longer heard: the other network, or free running. -/
def State.losePtp (s : State) : State :=
  let own : Fin 2 := if s.rbit pgOrb Off.ORB_PTP_CTRL 1 then 1 else 0
  if s.rbit pgOrb Off.ORB_PTP_CTRL 2 ∧ s.wall.net = own then
    { s with wall := { s.wall with net := 1 - own, state := 1, sync := none } }
  else
    ({ s with wall := { s.wall with state := 0, sync := none, net := own } }).raise { pg := pgOrb, ev := 8 }

/-- PTP_LOST. -/
def execPtpLost (s : State) : Out := actIf (s.rbit pgOrb Off.ORB_PTP_CTRL 0 && s.wall.state != 0) s s.losePtp

end Sys2Proof.Machine
end

