-- ==== Sys2Proof/WellFormed.lean ====
section
/-!
DEFINITION. Which terms of `Instr` name something that can happen. The other operands are
free: what a rule does with a value out of place is that command's effect, not a form error.
-/

namespace Sys2Proof

/-- The command codes of R353. -/
def knownCommand (code : BitVec 16) : Bool := 1 ≤ code.toNat && code.toNat ≤ 0x0B

/-- A Ralow kind that is reserved or that only the device sends (R338). -/
def reservedKind (kind : BitVec 4) : Bool :=
  kind == 0x5 || kind == 0x6 || kind == 0x8 || kind == 0x9 || kind.toNat ≥ 0xB

/-- A disruptive step that the target has (R293, R326). -/
def CalStep.fits : CalTarget → CalStep → Bool
  | .port _, .dfeReseed _ | .port _, .tapRenegotiation _ | .port _, .eyeScan _ => true
  | .channel _, .dqRetrain | .channel _, .fullRetrain => true
  | _, _ => false

/-- A register address as R346 lets a batch name it. -/
def addrAligned (a : BitVec 26) : Bool := a.toNat % 4 == 0

/-- The check of a command's operands. -/
def Instr.wf : Instr → Bool
  | .unknownCommand _ code _ _ => !knownCommand code
  | .reservedKindMessage _ kind _ => reservedKind kind
  | .calStepStart t k => k.fits t
  | .sensorRead r => r.temps.length == 100
  | .regionLinkDown a b => a != b
  | .registerWrite _ addr _ => addrAligned addr
  | .rclRead _ addr => addrAligned addr
  | .counterLowRead _ addr => addrAligned addr
  | _ => true

end Sys2Proof
end

