-- ==== Sys2Proof/Machine/Gates.lean ====
section
/-!
DEFINITION. Gate lists and their swaps (spec/09_orbit_and_gates.md R262 to R267), calibration
windows and the disruptive steps inside them (R268 to R273, spec/10_links.md R293, R294,
spec/11_memory.md R326, R327).
-/

namespace Sys2Proof.Machine

/-! ### Gate lists (R262 to R267) -/

/-- `n` closings of the class passed while a frame of it is on the wire (R267). -/
def State.overrun (s : State) (p n : Nat) : State :=
  let job := (s.port p).sending.bind fun x => s.bufJob x.1.buf
  (List.range n).foldl (fun s _ => (s.bump pgOrb Off.ORB_GPORT_OVERRUN p).raise { pg := pgOrb, ev := 5, job := job }) s

/-- The class of the frame on the wire of port `p`. -/
def State.sendingClass (s : State) (p : Nat) : Option Nat := (s.port p).sending.map fun x => x.2 / 2

/-- The closings of class `c` of port `p` that passed after angle `a0`: a jump may pass several (R245). -/
def State.closingsSince (s : State) (p c : Nat) (a0 : Angle) : Nat :=
  let g := s.gate p
  ((g.closings c).map fun o => (passAngles a0 s.angle (o + g.phase.toNat) g.periodLog).length).foldl (· + ·) 0

/-- An uncorrectable word in the gate list of port `p` or in the schedule of target `t` of key `p`: the port's list acts
as all-open until it is exchanged, its schedule entries are disabled until they are written, and no job fails (R280). -/
def State.schedUe (s : State) (t : Nat) : State :=
  let bad := s.calEntries.filter fun e => s.calTarget e == t
  let s := { s with orb := { s.orb with calBad := bad.foldl insertOnce s.orb.calBad } }
  let s := if t < 512 then s.modGate t fun g => { g with bad := true } else s
  (s.countUe pgOrb).raise { pg := pgOrb, ev := 9, access := 1, akind := 6, addr := t, syn := s.ueSyndrome pgOrb t }

/-- The gate of port `p` takes the entry at the angle. -/
def State.gatePass (s : State) (p : Nat) : State :=
  let n := match s.sendingClass p, (s.gate p).passFrom with | some c, some a0 => s.closingsSince p c a0 | _, _ => 0
  (s.modGate p fun g => { g with openMask := g.openAt s.angle, passFrom := none }).overrun p n

/-- What GATE_ENTRY_PASSAGE does: the list is read, and a corrected word is counted and stands corrected (R14, R280). -/
def State.gateRead (s : State) (p : Nat) : State :=
  match (s.gate p).err with
  | 0 => s.gatePass p
  | 1 => ((s.countCe pgOrb).modGate p fun g => { g with err := 0 }).gatePass p
  | _ => ((s.modGate p fun g => { g with err := 0, passFrom := none }).schedUe p)

/-- GATE_ENTRY_PASSAGE. -/
def execGateEntryPassage (port : Port) (s : State) : Out :=
  actIf ((s.gate port).passFrom.isSome && s.orb.st.gated) s (s.gateRead port)

/-- Shadow entry `e` of the gate memory (R262). -/
def State.shadowEntry (s : State) (e : Nat) : GateEntry :=
  { off := s.reg pgOrb Off.ORB_GENT_OFF e, openMask := BitVec.ofNat 8 (s.rfld pgOrb Off.ORB_GENT_OPEN 0 8 e),
    min := s.reg pgOrb Off.ORB_GENT_MIN e, max := s.reg pgOrb Off.ORB_GENT_MAX e }

/-- The shadow list of port `p`, with nothing scheduled. -/
def State.shadowList (s : State) (p : Nat) : GatePort :=
  let w := s.reg pgOrb Off.ORB_GPORT_LIST p
  { base := fld w 0 15, periodLog := fld w 24 6, phase := s.reg pgOrb Off.ORB_GPORT_PHASE p,
    entries := (List.range (min 64 (fld w 16 7))).map fun i => s.shadowEntry (fld w 0 15 + i) }

/-- The offsets rise strictly. -/
def offsRise : List GateEntry → Bool
  | a :: b :: t => decide (a.off.toNat < b.off.toNat) && offsRise (b :: t)
  | _ => true

/-- The reason for which a swap at angle `x` is rejected, 0 for none (R264). -/
def State.gateCheck (s : State) (p : Nat) (x : Angle) : Nat :=
  let count := s.rfld pgOrb Off.ORB_GPORT_LIST 16 7 p
  let g := s.shadowList p
  let n := g.periodLog
  if (x - g.phase).toNat % 2 ^ n ≠ 0 then 1
  else if n < 16 ∨ 32 < n ∨ 64 < count ∨ 32768 < g.base + count then 2
  else if !offsRise g.entries ∨ g.entries.any fun e => decide (2 ^ n ≤ e.off.toNat) then 3
  else if g.entries.any fun e => decide (e.off.toNat < e.min.toNat ∨ e.max.toNat < e.off.toNat ∨ e.max.toNat < e.min.toNat) then 4
  else if !g.entries.isEmpty ∧ (List.range 8).any fun c => g.entries.all fun e => !e.openMask.toNat.testBit c then 5
  else 0

/-- A write of `ORB_GPORT_SWAP.at` schedules the swap of port `p`, or is rejected (R264). -/
def State.scheduleSwap (s : State) (p : Nat) (x : Angle) : State :=
  match s.gateCheck p x with
  | 0 => s.modGate p fun g => { g with pendingAt := some x, swapDue := false, reject := 0 }
  | r => (s.modGate p fun g => { g with reject := r }).raise { pg := pgOrb, ev := 7 }

/-- The banks of port `p` are exchanged. -/
def State.gateSwap (s : State) (p : Nat) : State :=
  let g := s.gate p
  let l := s.shadowList p
  let g' : GatePort := { l with bank := !g.bank, reject := g.reject, openMask := l.openAt s.angle }
  let shut := match s.sendingClass p with
    | some c => s.gateOpen p c && !g'.openMask.toNat.testBit c
    | none => false
  (s.modGate p fun _ => g').overrun p shut.toNat

/-- GATE_SWAP. -/
def execGateSwap (port : Port) (s : State) : Out :=
  actIf ((s.gate port).swapDue && (s.gate port).pendingAt.isSome && s.orb.st.gated) s (s.gateSwap port)

/-! ### Calibration windows (R268, R269, R272) -/

/-- An edge port stops its peer's lossless classes for a window (R272). -/
def State.calStops (s : State) (p : Nat) : State :=
  [1, 2, 3, 4, 5, 6].foldl (fun s tc => s.sendStop p tc 0 true true) s

/-- The lead of entry `e` passes at port `p`, before its window starts at `start` (R269, R272); only the first of
several leads awaits a new CAL_ACK. -/
def State.windowLead (s : State) (e p : Nat) (start : Angle) : State :=
  let s := s.modCal p fun w =>
    { w with leads := w.leads ++ [(e, start)], ack := if w.isOpen || w.lead then w.ack else false, nextAck := false }
  if (s.attr p).role = 1 then s.calStops p
  else (s.sendCal p 6).modCal p fun w => { w with announced := w.announced || s.beaconPort p }

/-- The window that is to start at `start` will open: the window that is open at port `p`, and those whose leads have
passed, end before it (R268). -/
def State.leadClear (s : State) (p : Nat) (start : Angle) : Bool :=
  let w := s.calWin p
  let due := fun stop : Angle => decide (travel s.angle stop ≤ travel s.angle start)
  (!w.isOpen || w.endDue || due w.endAngle) && w.leads.all fun l => due (l.2 + BitVec.ofNat 32 (s.calSpan l.1))

/-- The words of schedule entry `e` are read where they hold no uncorrectable error; else `sched_ue` (R14, R280). -/
def State.calRead (s : State) (e : Nat) (f : State → State) : State :=
  let clean := { s with orb := { s.orb with calErr := s.orb.calErr.put 0 e 0 } }
  match s.orb.calErr.look 0 e with
  | 0 => f s
  | 1 => f (clean.countCe pgOrb)
  | _ => clean.schedUe (s.calTarget e)

/-- What CAL_WINDOW_LEAD does: nothing where the window will be skipped. -/
def State.calLeadPass (s : State) (e : Nat) (start : Angle) : State :=
  let p := s.calTarget e
  let s := { s with orb := { s.orb with calLeadDue := s.orb.calLeadDue.erase (e, start) } }
  s.calRead e fun s => if s.portUp p ∧ s.leadClear p start then s.windowLead e p start else s

/-- The first lead of entry `e` that has passed. -/
def State.leadDue (s : State) (e : Nat) : Option Angle := (s.orb.calLeadDue.find? fun k => k.1 == e).map (·.2)

/-- CAL_WINDOW_LEAD. -/
def execCalWindowLead (entry : JobSlot) (s : State) : Out := actWith (s.leadDue entry) s (s.calLeadPass entry)

/-- The window of entry `e` opens at the angle `start`, which has passed (R268). -/
def State.windowOpen (s : State) (e t : Nat) (start : Angle) : State :=
  let stop := start + BitVec.ofNat 32 (s.calSpan e)
  let s := s.modCal t fun w =>
    { w with entry := e, isOpen := true, endAngle := stop, endDue := decide (s.calSpan e ≤ travel start s.angle), cut := false,
             endedAt := none }
  s.bump pgOrb Off.ORB_CAL_RUN

/-- A window cannot open: one of its target is open, or its port is not UP (R268, R295). -/
def State.calBlocked (s : State) (t : Nat) : Bool := (s.calWin t).isOpen || (decide (t < 512) && !s.portUp t)

/-- What CAL_WINDOW_OPEN does: its lead is over, and the window opens or is skipped. -/
def State.calOpenPass (s : State) (e : Nat) (start : Angle) : State :=
  let t := s.calTarget e
  let s := { s with orb := { s.orb with calOpenDue := s.orb.calOpenDue.erase (e, start) } }
  let s := s.modCal t fun w => { w with leads := w.leads.filter (· != (e, start)) }
  s.calRead e fun s => if s.calBlocked t then s.bump pgOrb Off.ORB_CAL_SKIP else s.windowOpen e t start

/-- The first window of entry `e` whose start has passed, once its lead has been taken (R245). -/
def State.openDue (s : State) (e : Nat) : Option Angle :=
  (s.orb.calOpenDue.find? fun k => k.1 == e && !s.orb.calLeadDue.contains k).map (·.2)

/-- CAL_WINDOW_OPEN. -/
def execCalWindowOpen (entry : JobSlot) (s : State) : Out := actWith (s.openDue entry) s (s.calOpenPass entry)

/-- The target whose open window entry `e` opened, and whose end has passed with no step running. -/
def State.windowEnding (s : State) (e : Nat) : Option Nat :=
  (s.cal.find? fun kv => kv.2.isOpen && kv.2.entry == e && kv.2.endDue && kv.2.step.isNone).map (·.1)

/-- CAL_WINDOW_END. -/
def execCalWindowEnd (entry : JobSlot) (s : State) : Out := actWith (s.windowEnding entry) s s.endWindow

/-! ### A peer's window (R269) -/

/-- A peer's CAL_ENTER: the frame in progress ends first, then CAL_ACK leaves and the port is held. -/
def State.calEnter (s : State) (p : Nat) : State :=
  if (s.port p).sending.isSome then s.modPort p fun x => { x with ackOwed := true }
  else (s.sendCal p 7).modPort p fun x => { x with heldByPeer := true }

/-- CAL_ENTER. -/
def execCalEnter (port : Port) (s : State) : Out := actIf (s.beaconPort port) s (s.calEnter port)

/-- CAL_ACK is for the window that is open or in lead, or where that one has its own, for the next. -/
def CalWin.takeAck (w : CalWin) : CalWin := if w.isOpen && w.ack && w.lead then { w with nextAck := true } else { w with ack := true }

/-- CAL_ACK. -/
def execCalAck (port : Port) (s : State) : Out :=
  actIf (s.beaconPort port && ((s.calWin port).lead || (s.calWin port).isOpen)) s (s.modCal port CalWin.takeAck)

/-- A peer's CAL_EXIT releases the port. -/
def State.calExit (s : State) (p : Nat) : State :=
  (s.modPort p fun x => { x with heldByPeer := false, ackOwed := false }).touchSources p

/-- CAL_EXIT. -/
def execCalExit (port : Port) (s : State) : Out := actIf (s.beaconPort port) s (s.calExit port)

/-! ### Disruptive steps (R270, R293, R326) -/

/-- Duration of a step in ns. -/
def stepTime : CalStep → Nat
  | .dfeReseed _ => 20000
  | .tapRenegotiation _ => 40000
  | .eyeScan _ => 60000
  | .dqRetrain => 14000
  | .fullRetrain => 60000

/-- The orbit keeps an angle that moves (R271). -/
def OrbState.moving : OrbState → Bool
  | .locked | .master => true
  | _ => false

/-- The peer of the target is quiet: CAL_ACK has arrived, or no peer takes part (R270). -/
def State.calQuiet (s : State) (t : Nat) : Bool := (s.calWin t).ack || decide (512 ≤ t) || (s.attr t).role == 1

/-- A requested step may start now (R270, R271). -/
def State.stepReady (s : State) (t : Nat) (k : CalStep) : Bool :=
  let w := s.calWin t
  w.requests.contains k && w.isOpen && !w.endDue && w.step.isNone && s.calQuiet t && s.orb.st.moving &&
  decide (s.orb.units (stepTime k + s.margin) 1 ≤ travel s.angle w.endAngle)

/-- The step starts; a channel that retrains serves nothing meanwhile (R273). -/
def State.stepStart (s : State) (t : Nat) (k : CalStep) : State :=
  let s := s.modCal t fun w => { w with step := some (k, s.now + stepTime k) }
  if 512 ≤ t then s.modChan (t - 512) fun c => { c with st := .retraining } else s

/-- CAL_STEP_START. -/
def execCalStepStart (target : CalTarget) (kind : CalStep) (s : State) : Out :=
  if CalStep.fits target kind then
    actIf (s.stepReady (CalTarget.key target) kind) s (s.stepStart (CalTarget.key target) kind)
  else .refused .illFormed

/-- The disruptive step of a target joins its requests once. -/
def State.requestStep (s : State) (t : Nat) (k : CalStep) : State :=
  s.modCal t fun w => if w.requests.contains k then w else { w with requests := w.requests ++ [k] }

/-- The lowest figure of merit since the last read is kept (R305). -/
def State.noteFom (s : State) (l : Nat) (fom : Byte) : State :=
  let pg := pgFab (l / 8)
  s.setRfld pg Off.FAB_LANE_FOM 8 8 (min (s.rfld pg Off.FAB_LANE_FOM 8 8 (l % 8)) fom.toNat) (l % 8)

/-- What a step of lane `i` of port `p`'s block leaves (R293). -/
def State.laneStepDone (s : State) (p : Nat) (k : CalStep) (i : Nat) (r : CalResult) : State :=
  let b := p / 8
  let s := (s.modLane (8 * b + i) fun l => { l with fom := r.fom, lowCal := 0 }).noteFom (8 * b + i) r.fom
  let s := if r.ok then s else s.modPort p fun x => { x with st := .align, entered := s.now }
  match k with
  | .dfeReseed l =>
    if r.fom.toNat < s.rfld (pgFab b) Off.FAB_FOM_LOW 8 8 then s.requestStep p (.tapRenegotiation l) else s
  | .eyeScan _ => s.setRfld (pgFab b) Off.FAB_LANE_CTRL 2 1 0 i
  | _ => s

/-- A channel fails: its region fences by the event (R327, R332). -/
def State.channelFail (s : State) (c : Nat) : State :=
  (s.modChan c fun x => { x with st := .failed }).raise { pg := chanPage c, ev := 5, unit := c % 4, access := 4 }

/-- What a retraining of channel `c` leaves (R326, R327). -/
def State.channelStepDone (s : State) (c : Nat) (k : CalStep) (r : CalResult) : State :=
  let s := s.bump (chanPage c) Off.MEM_CH_RETRAIN (c % 4)
  let s := s.modChan c fun x => { x with st := .ready, drift := 0, afterDq := k == .dqRetrain }
  if k = .fullRetrain ∧ !r.ok then s.channelFail c else s

/-- What CAL_STEP_DONE does with the step that ran. -/
def State.stepDone (s : State) (t : Nat) (k : CalStep) (r : CalResult) : State :=
  let s := s.modCal t fun w => { w with step := none, requests := w.requests.erase k }
  match k with
  | .dfeReseed i | .tapRenegotiation i | .eyeScan i => s.laneStepDone t k i r
  | .dqRetrain | .fullRetrain => s.channelStepDone (t - 512) k r

/-- The step of a target that has lasted its time. -/
def State.stepOver (s : State) (t : Nat) : Option CalStep :=
  match (s.calWin t).step with
  | some (k, e) => if e ≤ s.now then some k else none
  | none => none

/-- CAL_STEP_DONE. -/
def execCalStepDone (target : CalTarget) (r : CalResult) (s : State) : Out :=
  actWith (s.stepOver (CalTarget.key target)) s fun k => s.stepDone (CalTarget.key target) k r

end Sys2Proof.Machine
end

