-- ==== Sys2Proof/Machine/Channels.lean ====
section
/-!
DEFINITION. Memory channels: queued writes, refresh, scrubbing, the WCK-DQ oscillator, training and the
zeroing of memory (spec/11_memory.md R309, R324 to R332).
-/

namespace Sys2Proof.Machine

/-- A channel serves requests. -/
def State.chanServes (s : State) (c : Nat) : Bool := (s.chan c).st == .ready && !s.isFenced (c / 32)

/-- The write at the head of a channel's queue. -/
def State.chanHead (s : State) (c : Nat) : Option ChReq := if s.chanServes c then (s.chan c).queue.head? else none

/-- CHANNEL_REQUEST: the head of the queue takes effect. -/
def execChannelRequest (ch : Channel) (s : State) : Out :=
  actWith (s.chanHead ch.val) s fun q => (s.modChan ch.val fun x => { x with queue := x.queue.drop 1 }).serveReq ch.val q

/-- REFRESH: the temperature multiplier is taken from the die every 4 ms (R325). -/
def execRefresh (ch : Channel) (tmult : Byte) (s : State) : Out :=
  actIf (s.chanServes ch.val && decide (s.now - (s.chan ch.val).lastRefresh ≥ 4000000)) s
    (s.modChan ch.val fun x => { x with tmult := tmult, lastRefresh := s.now })

/-- Bursts of a channel: 20 GiB of 64 bytes. -/
def channelBursts : Nat := 335544320

/-- One word of a scrubbed burst (R328 to R330). -/
def State.scrubWord (s : State) (c addr : Nat) : State :=
  match s.decodeWord addr with
  | 0 => s
  | 1 =>
    let burst := addrLocal addr / 64
    let s := (s.corrected addr 4).rewriteWord addr
    let s := if (s.chan c).corrPrev.contains burst then s.logBurst addr false else s
    s.modChan c fun x => { x with corrNow := insertOnce x.corrNow burst }
  | _ =>
    let s := (s.countUe (chanPage c)).raise
      { pg := chanPage c, ev := 3, unit := c % 4, access := 4, akind := 3, addr := addrLocal addr, syn := s.syndromeWord addr 2 }
    s.logBurst addr true

/-- The scrubber's position one burst further; at the end a pass is complete. -/
def State.scrubNext (s : State) (c : Nat) : State :=
  if (s.chan c).scrubPos + 1 < channelBursts then s.modChan c fun x => { x with scrubPos := x.scrubPos + 1 }
  else
    (s.modChan c fun x => { x with
      scrubPos := 0, scrubStart := s.now, cePass := 0, ceRaised := false, corrPrev := x.corrNow, corrNow := [] }).bump (chanPage c)
      Off.MEM_SCRUB_PASSES (c % 4)

/-- The next burst of a channel is read and a corrected word written back. -/
def State.scrub (s : State) (c : Nat) : State :=
  let base := c * 2 ^ 35 + (s.chan c).scrubPos * 64
  ((List.range 4).foldl (fun s w => s.scrubWord c (base + 16 * w)) s).scrubNext c

/-- The next burst of a pass of `hours` of local time, spread evenly over the bursts, is due (R328). -/
def State.scrubPaced (s : State) (c : Nat) : Bool :=
  let pass := s.rfld (chanPage c) Off.MEM_SCRUB_CTRL 8 8 * 3600 * 10 ^ 9
  decide ((s.chan c).scrubPos * pass ≤ (s.now - (s.chan c).scrubStart) * channelBursts)

/-- The scrubber runs: enabled, memory ready, its burst due, and no demand write waits (R324, R328). -/
def State.scrubDue (s : State) (c : Nat) : Bool :=
  s.chanServes c && s.rbit (chanPage c) Off.MEM_SCRUB_CTRL 0 && s.rbit (chanPage c) Off.MEM_CFG 8 &&
  (s.chan c).queue.isEmpty && s.scrubPaced c

/-- SCRUB_READ. -/
def execScrubRead (ch : Channel) (s : State) : Out := actIf (s.scrubDue ch.val) s (s.scrub ch.val)

/-- A forced full retraining starts at once (R327). -/
def State.forceRetrain (s : State) (c : Nat) : State :=
  let s := (s.stepStart (512 + c) .fullRetrain).bump (chanPage c) Off.MEM_CH_FORCED (c % 4)
  s.raise { pg := chanPage c, ev := 4, unit := c % 4, access := 4 }

/-- One run of the oscillator: the drift, and what it requests or forces (R326, R327). -/
def State.oscillate (s : State) (c : Nat) (ps : Int) : State :=
  let d := (s.chan c).drift + ps
  let after := (s.chan c).afterDq
  let soft := s.rfld (chanPage c) Off.MEM_RETRAIN_THR 0 8
  let hard := s.rfld (chanPage c) Off.MEM_RETRAIN_THR 8 8
  let s := s.modChan c fun x => { x with drift := d, afterDq := false, lastOsc := s.now }
  if d.natAbs ≥ hard then s.forceRetrain c
  else if d.natAbs ≥ soft then s.requestStep (512 + c) (if after then .fullRetrain else .dqRetrain)
  else s

/-- WCK_DQ_OSCILLATOR. -/
def execWckDqOscillator (ch : Channel) (drift : BitVec 16) (s : State) : Out :=
  actIf (s.chanServes ch.val && decide (s.now - (s.chan ch.val).lastOsc ≥ 1000000)) s (s.oscillate ch.val drift.toInt)

/-- The channels of a memory block. -/
def blockChans (m : Nat) : List Nat := (List.range 4).map fun i => 4 * m + i

/-- The end of training: the common rate, or no rate at all (R309, R332). -/
def State.blockTrained (s : State) (m rate : Nat) : State :=
  let s := s.setRfld (pgMem m) Off.MEM_CFG 0 2 rate
  if rate = 3 then
    let s := (blockChans m).foldl (fun s c => s.modChan c fun x => { x with st := .failed }) s
    s.raise { pg := pgMem m, ev := 5, access := 4 }
  else (blockChans m).foldl (fun s c => s.modChan c fun x =>
    { x with st := .ready, lastOsc := s.now, lastRefresh := s.now, scrubStart := s.now }) s

/-- The channels of a block train. -/
def State.blockTrains (s : State) (m : Nat) : Bool :=
  !s.pwr.inReset && !s.isFenced (m / 8) && s.rfld (pgMem m) Off.MEM_CFG 0 2 != 3 &&
  (blockChans m).all fun c => (s.chan c).st == .training

/-- MEMORY_TRAINING_DONE. -/
def execMemoryTrainingDone (blk : MemBlk) (rate : Fin 4) (s : State) : Out :=
  actIf (s.blockTrains blk.val) s (s.blockTrained blk.val rate.val)

/-- Every burst of a block's channels holds zero, and `ready` is set (R332). -/
def State.zeroBlock (s : State) (m : Nat) : State :=
  let own (a : Nat) : Bool := a / 2 ^ 37 == m
  let s := { s with mem := s.mem.drop own, memErr := s.memErr.drop fun w => own (16 * w) }
  s.setRfld (pgMem m) Off.MEM_CFG 8 1 1

/-- A trained block that is not ready. -/
def State.blockZeroing (s : State) (m : Nat) : Bool :=
  !s.rbit (pgMem m) Off.MEM_CFG 8 && (blockChans m).all fun c => s.chanServes c

/-- MEMORY_READY. -/
def execMemoryReady (blk : MemBlk) (s : State) : Out := actIf (s.blockZeroing blk.val) s (s.zeroBlock blk.val)

end Sys2Proof.Machine
end

