-- ==== Sys2Proof/Machine/Comet.lean ====
section
/-!
DEFINITION. The Comet path: COMET_C messages and rounds (spec/04_collectives.md R113 to R116,
spec/03_exact_reduction.md R61).
-/

namespace Sys2Proof.Machine

/-- The descriptor that finishes Comet elements. -/
def JobCfg.desc1 (c : JobCfg) : Descriptor := c.descs.getD 1 ⟨0, 0, false, 0, 0, 0, 0⟩

/-- The region of a job's Comet reservation: as armed, else as the table holds it. -/
def State.cometRegion (s : State) (slot : Nat) : Nat :=
  match (s.job slot).cfg with
  | some c => c.cmtRegion
  | none => fld (s.tbl .job slot 12) 21 2

/-- A COMET_R of a round to the group, replicated by reference from the slot (R114, R235). -/
def State.sendComet (s : State) (slot : Nat) (c : JobCfg) (index round group flags count : Nat) (payload : List Byte) : State :=
  let g := (c.group group).getD noGroup
  let h : LfpHeader :=
    { version := 1, type := 6, tc := 1, flags := flags, job := c.id, group := group, member := 0, format := c.desc1.fmt,
      cls := g.classP.toNat, step := round, chunk := index, attempt := 0, elemOffset := 0, count := count }
  s.build { region := c.cmtRegion, slot := some slot, hdr := h, payload := payload, targets := g.members.map Member.target,
            comet := true }

/-- A round is abandoned (R115): the sums go, the expected round stays. -/
def State.abandonRound (s : State) (slot : Nat) (c : JobCfg) (index : Nat) : State :=
  let x := s.cometSlot c.cmtRegion (c.cmtBase + index)
  let s := s.modComet c.cmtRegion (c.cmtBase + index) fun y => { round := y.round }
  let s := s.bump (pgCmt c.cmtRegion) Off.CMT_ROUND_ABANDON
  s.sendComet slot c index x.round.toNat x.group flAbandon 0 []

/-- A fault of a Comet slot (R115): event 1 or 2 of the block, on the round only. The syndrome of an
uncorrectable word is that of R311; that of a mismatch holds the code of R124 in its upper half and the residues below
(DESIGN CHOICE, notes/assumptions/108.md). -/
def State.cometFault (s : State) (slot : Nat) (c : JobCfg) (index ev : Nat) (syn : Word) : State :=
  let e : Occ :=
    { pg := pgCmt c.cmtRegion, ev := ev, access := 5, akind := 5, addr := c.cmtBase + index,
      syn := if ev = 2 then s.ueSyndrome (pgCmt c.cmtRegion) (c.cmtBase + index) else syn, job := some slot }
  let s := if ev = 2 then s.countUe (pgCmt c.cmtRegion) else s
  (s.abandonRound slot c index).raise e

/-- The first test that a read of a slot's entries fails: event and syndrome (R61, R64, R65, R124). -/
def CometSlot.defect (x : CometSlot) : Option (Nat × Word) :=
  if x.err ≥ 2 ∨ x.entries.any (fun e => e.err ≥ 2) then some (2, 0)
  else
    match x.entries.find? fun e => !e.residueOk with
    | some e => some (1, word (0x0402 * 2 ^ 16 + (residueOf e.acc).toNat * 256 + e.residue.toNat))
    | none => none

/-- The first check of R113 that a COMET_C fails, 1 to 5, or none. -/
def State.cometCheck (s : State) (m : LfpHeader) (slot : Nat) (c : JobCfg) : Option Nat :=
  let x := s.cometSlot c.cmtRegion (c.cmtBase + m.chunk)
  if (s.job slot).st ≠ .running ∨ m.chunk ≥ c.cmtCount then some 1
  else
    match c.group m.group with
    | none => some 2
    | some g =>
      if !g.valid ∨ g.size > 512 ∨ m.member ≥ g.size then some 2
      else if m.format ≠ (if g.intMode then 0x8 else 0x0) ∨ g.intMode ≠ (c.desc1.fmt == 0x8) ∨
          m.cls ≠ g.classP.toNat ∨ m.count < 1 ∨ 64 < m.count then some 3
      else if m.step ≠ x.round.toNat then some 4
      else if x.isOpen ∧ (m.group ≠ x.group ∨ m.count ≠ x.count ∨ x.members.contains m.member) then some 5
      else none

/-- The counter of a check of R113. -/
def cometDropOff : Nat → Nat
  | 1 => Off.CMT_DROP_SLOT
  | 2 => Off.CMT_DROP_GROUP
  | 3 => Off.CMT_DROP_FORMAT
  | 4 => Off.CMT_DROP_ROUND
  | _ => Off.CMT_DROP_DUP

/-- A complete round is finished through descriptor 1 and sent, and the next round is expected (R114). -/
def State.finishRound (s : State) (slot : Nat) (c : JobCfg) (index : Nat) (g : Group) : State :=
  let x := s.cometSlot c.cmtRegion (c.cmtBase + index)
  match x.defect with
  | some (ev, syn) => s.cometFault slot c index ev syn
  | none =>
    let codes := x.entries.map fun e => (e.finish g.floor c.desc1).1
    let s := s.modComet c.cmtRegion (c.cmtBase + index) fun y => { round := y.round + 1 }
    s.sendComet slot c index x.round.toNat x.group 0 x.count (codes.flatMap (leBytes 4))

/-- An accepted contribution is added exactly (R114). -/
def State.cometAdd (s : State) (m : Msg) (slot : Nat) (c : JobCfg) (g : Group) : State :=
  let h := m.h
  let i := c.cmtBase + h.chunk
  let code (j : Nat) : AddendCode :=
    if g.intMode then .i32 (word (leAt m.payload (4 * j) 4)) else .f32 (word (leAt m.payload (4 * j) 4))
  let s := s.modComet c.cmtRegion i fun x =>
    if x.isOpen then x
    else { x with isOpen := true, group := h.group, count := h.count, marks := 0,
                  entries := List.replicate h.count (freshEntry g.intMode false slot h.chunk) }
  let x := s.cometSlot c.cmtRegion i
  match x.defect with
  | some (ev, syn) => s.cometFault slot c h.chunk ev syn
  | none =>
    let ce := (if x.err = 1 then 1 else 0) + x.entries.countP fun e => e.err == 1
    let s := (List.range ce).foldl (fun s _ => s.countCe (pgCmt c.cmtRegion)) s
    let entries := (x.entries.zipIdx).map fun (e, j) => accumulate { e with err := 0 } (addendOf g (code j))
    let s := s.modComet c.cmtRegion i fun y => { y with entries := entries, err := 0, members := insertOnce y.members h.member }
    if (s.cometSlot c.cmtRegion i).members.length = g.size then s.finishRound slot c h.chunk g else s

/-- A COMET_C at the Comet block. -/
def State.cometMsg (s : State) (m : Msg) : State :=
  match s.slotOf m.h.job with
  | none => s
  | some slot =>
    let r := s.cometRegion slot
    s.forUnit m slot r fun s =>
      match (s.job slot).cfg with
      | none => s.bump (pgCmt r) Off.CMT_DROP_SLOT
      | some c =>
        match s.cometCheck m.h slot c with
        | some n => s.bump (pgCmt r) (cometDropOff n)
        | none => s.cometAdd m slot c ((c.group m.h.group).getD noGroup)

/-- COMET_C. -/
def execCometC (a : Arrival) (s : State) : Out :=
  onRx s (s.receive a fun m => m.h.type == 5) fun t m => t.cometMsg m

/-- The job that reserves Comet slot `i` of region `r`. -/
def State.cometOwner (s : State) (r i : Nat) : Option (Nat × JobCfg) :=
  s.jobs.findSome? fun kv =>
    match kv.2.cfg with
    | some c =>
      if kv.2.st.holds ∧ c.cmtRegion = r ∧ c.cmtBase ≤ i ∧ i < c.cmtBase + c.cmtCount then some (kv.1, c) else none
    | none => none

/-- An open round whose timeout in marks has run out (R115). -/
def State.cometLate (s : State) (r i : Nat) : Option (Nat × JobCfg) :=
  let x := s.cometSlot r i
  if !x.isOpen ∨ s.isFenced r then none
  else
    match s.cometOwner r i with
    | some (j, c) => if x.marks ≥ c.cmtTmo then some (j, c) else none
    | none => none

/-- The round times out (R115, R124; notes/assumptions/108.md). -/
def State.cometTimeout (s : State) (i slot : Nat) (c : JobCfg) : State :=
  (s.abandonRound slot c (i - c.cmtBase)).raise
    { pg := pgCmt c.cmtRegion, ev := 0, akind := 5, addr := i, syn := 0x0401, job := some slot }

/-- COMET_TIMEOUT. -/
def execCometTimeout (region : Region) (index : JobSlot) (s : State) : Out :=
  actWith (s.cometLate region index) s fun (j, c) => s.cometTimeout index j c

end Sys2Proof.Machine
end

