-- ==== Sys2Proof/Machine/Links.lean ====
section
/-!
DEFINITION. Fabric ports: stepped bring-up, figures of merit, link faults and per-direction sleep
(spec/10_links.md R283 to R299), and the host ports (R286, R301, R303,
spec/16_bringup_and_modes.md R443).
-/

namespace Sys2Proof.Machine

/-! ### Ports and lanes (R283, R284) -/

/-- The port that holds lane `l` in its block's configuration. -/
def State.lanePort (s : State) (l : Nat) : Nat := l / s.portLanes l * s.portLanes l

/-- The lanes of port `p`. -/
def State.lanesOf (s : State) (p : Nat) : List Nat := (List.range (s.portLanes p)).map (p + ·)

/-- The number of a state in `FAB_PORT_STATE.state` (R287). -/
def PortState.code : PortState → Nat
  | .disabled => 0
  | .cap => 1
  | .step1 => 2
  | .step2 => 3
  | .step3 => 4
  | .align => 5
  | .up => 6
  | .failed => 7

/-- The time limit of a state in ns (R287). -/
def PortState.limit : PortState → Option Nat
  | .cap => some 50000000
  | .step1 | .step2 | .step3 => some 100000000
  | .align => some 10000000
  | _ => none

/-- The state after a state of bring-up (R288). -/
def PortState.next : PortState → PortState
  | .cap => .step1
  | .step1 => .step2
  | .step2 => .step3
  | .step3 => .align
  | x => x

/-- A state in which status words are exchanged. -/
def PortState.training : PortState → Bool
  | .cap | .step1 | .step2 | .step3 => true
  | _ => false

/-- The threshold that a lane of a port must hold in a state (R288). -/
def State.fomThreshold (s : State) (p : Nat) (st : PortState) : Nat :=
  s.rfld (pgFab (p / 8)) Off.FAB_FOM_THR (8 * (st.code - 1)) 8

/-- Every lane of the port has the threshold of its state. -/
def State.portMeets (s : State) (p : Nat) : Bool :=
  (s.lanesOf p).all fun l => decide (s.fomThreshold p (s.port p).st ≤ (s.lane l).fom.toNat)

/-- The time in ns that 2^20 symbols take at the symbol rate of a state (R287, R288). -/
def PortState.hold : PortState → Nat
  | .cap => 40673
  | .step1 => 39476
  | .step2 => 19738
  | _ => 9869

/-- Every lane of the port has held the threshold of its state for 2^20 consecutive symbols (R288). -/
def State.portReady (s : State) (p : Nat) : Bool :=
  s.portMeets p && (s.lanesOf p).all fun l =>
    match (s.lane l).goodSince with | some t => decide (t + (s.port p).st.hold ≤ s.now) | none => false

/-- The port's mask of lanes marked failed, by lane of the block. -/
def State.lanesFailed (s : State) (p : Nat) : Nat :=
  (List.range 8).foldl (fun n i => n + (s.lane (p / 8 * 8 + i)).failed.toNat * 2 ^ i) 0

/-- `FAB_PORT_STATE` of a port (R305). -/
def State.portStateWord (s : State) (p : Nat) : Word :=
  let x := s.port p
  word (x.st.code + min 15 x.attempts * 2 ^ 4 + x.failStep * 2 ^ 8 + x.cause * 2 ^ 12 + s.lanesFailed p * 2 ^ 16 +
    x.txQuiet.toNat * 2 ^ 24 + x.rxQuiet.toNat * 2 ^ 25)

/-! ### Bring-up (R287 to R290) -/

/-- The port enters a state of bring-up: the counts of status words and the lanes' record start anew. -/
def State.enterState (s : State) (p : Nat) (st : PortState) : State :=
  let s := s.modPort p fun x =>
    { x with
      st := st
      entered := s.now
      rxReady := 0
      txReady := 0
      gotWord := false
      modeBad := false
      retryAt := none }
  if st.training then (s.lanesOf p).foldl (fun s l => s.modLane l fun x =>
      { x with everReady := false, wordBad := false, fom := 0, goodSince := none }) s else s

/-- An attempt starts: from CAP, or from STEP3 in standard bring-up (R290) and where a retrain asks for it; the peer's
`sleep` is that of this bring-up (R298). -/
def State.startBringup (s : State) (p : Nat) (short : Bool) : State :=
  let std := s.rbit (pgFab (p / 8)) Off.FAB_PORT_CTRL 0 (p % 8)
  let s := s.modPort p fun x => { x with peerSleep := false }
  (s.enterState p (if std || short then .step3 else .cap)).bumpPort p Off.FAB_RETRAIN

/-- A retrain command that waits for the port completes (R296). -/
def State.endRetrain (s : State) (p status : Nat) (result : List Word) : State :=
  match (s.port p).retrain with
  | none => s
  | some c => (s.modPort p fun x => { x with retrain := none }).complete c status result

/-- The lowest figure of merit of a port's lanes. -/
def State.lowFom (s : State) (p : Nat) : Nat := (s.lanesOf p).foldl (fun n l => min n (s.lane l).fom.toNat) 255

/-- The port is UP (R287, R294, R296, R444). -/
def State.enterUp (s : State) (p : Nat) : State :=
  let s := s.endRetrain p 0 [word (s.lowFom p), word ((s.port p).attempts + 1)]
  let s := s.modPort p fun x => { x with st := .up, entered := s.now, attempts := 0, idleSince := s.now, retryAt := none, lastDisc := none, discNow := false }
  if (s.calWin p).exitPending then (s.modCal p fun w => { w with exitPending := false }).windowOver p else s

/-- PORT_ALIGNED. -/
def execPortAligned (port : Port) (s : State) : Out :=
  actIf ((s.port port).st == .align && !s.isFenced (portRegion port)) s (s.enterUp port)

/-- The mode and lane of a received status word fit this port (R289). -/
def State.wordFits (s : State) (l : Nat) (w : Nat) : Bool × Bool :=
  (bits w 19 2 == s.rfld (pgFab (l / 8)) Off.FAB_BLK_MODE 0 2, bits w 16 3 == l % s.portLanes l)

/-- A transmitter tap after a request: 1 increments it and 2 decrements it (R289). -/
def tapMove (t : Int) (req : Nat) : Int := if req = 1 then t + 1 else if req = 2 then t - 1 else t

/-- A word of lane `l` moves this end's taps, and the word of the port's lowest lane is kept (R289). -/
def State.noteWord (s : State) (l w : Nat) : State :=
  let p := s.lanePort l
  let s := s.modLane l fun x =>
    { x with tapM2 := tapMove x.tapM2 (bits w 32 2), tapM1 := tapMove x.tapM1 (bits w 34 2), tapP1 := tapMove x.tapP1 (bits w 36 2) }
  if l = p then s.setReg (pgFab (p / 8)) Off.FAB_PORT_PEER_CAP (word w) (p % 8) else s

/-- The status word that lane `l` sends in a state (R289): this end supports sleep; which taps the receiver asks the peer
to move is a free value (notes/assumptions/121.md). -/
def State.sendWord (s : State) (l : Nat) (st : PortState) (ready : Bool) : State :=
  let (n, s) := s.fresh
  s.emit (.statusWord l (st.code + ready.toNat * 2 ^ 4 + 2 ^ 6 + (s.lane l).fom.toNat * 2 ^ 8 + l % s.portLanes l * 2 ^ 16 +
    s.rfld (pgFab (l / 8)) Off.FAB_BLK_MODE 0 2 * 2 ^ 19 + 2 ^ 21 + (if st = .cap then 0xC else 0) * 2 ^ 24 +
    n % 3 * 2 ^ 32 + n / 3 % 3 * 2 ^ 34 + n / 9 % 3 * 2 ^ 36))

/-- A status word of lane `l` is recorded: the lane's own figure of merit, the peer's mode, lane and sleep. -/
def State.recordWord (s : State) (l w : Nat) (fom : Byte) : State :=
  let p := s.lanePort l
  let thr := s.fomThreshold p (s.port p).st
  let (modeOk, laneOk) := s.wordFits l w
  let good := decide (thr ≤ fom.toNat)
  let s := (s.modLane l fun x =>
    { x with fom := fom, everReady := x.everReady || good, wordBad := !laneOk,
             goodSince := if good then x.goodSince.or (some s.now) else none }).noteFom l fom
  (s.modPort p fun x => { x with gotWord := true, modeBad := !modeOk, peerSleep := w.testBit 21 }).noteWord l w

/-- The peer's lane differs from the receiving lane on some lane of the port (R289). -/
def State.laneBad (s : State) (p : Nat) : Bool := (s.lanesOf p).any fun l => (s.lane l).wordBad

/-- One word each way on the port's lowest lane: the counts of consecutive ready words, and the next state after
16 both ways (R288). -/
def State.countWord (s : State) (p w : Nat) : State :=
  let x := s.port p
  let own := s.portReady p
  let rx := if w.testBit 4 then x.rxReady + 1 else 0
  let tx := if own then x.txReady + 1 else 0
  let s := s.modPort p fun y => { y with rxReady := min 16 rx, txReady := min 16 tx }
  if 16 ≤ rx ∧ 16 ≤ tx ∧ !x.modeBad ∧ !s.laneBad p then s.enterState p x.st.next else s

/-- What STATUS_WORD does on a lane in bring-up: the word is recorded, one leaves the other way, and the port's lowest lane
counts both. -/
def State.takeWord (s : State) (l w : Nat) (fom : Byte) : State :=
  let s := s.recordWord l w fom
  let p := s.lanePort l
  let s := s.sendWord l (s.port p).st (s.portReady p)
  if l = p then s.countWord l w else s

/-- The port of a lane exchanges status words. -/
def State.training (s : State) (l : Nat) : Bool :=
  let x := s.port (s.lanePort l)
  x.st.training && x.retryAt.isNone && !s.rbit (pgFab (l / 8)) Off.FAB_PORT_CTRL 0 (s.lanePort l % 8)

/-- The tap renegotiation of lane `l` runs (R293). -/
def State.renegotiating (s : State) (l : Nat) : Bool :=
  match (s.calWin (s.lanePort l)).step with
  | some (.tapRenegotiation i, _) => s.lanePort l / 8 * 8 + i.val == l
  | _ => false

/-- What STATUS_WORD does on a lane whose taps are renegotiated: as in STEP3, but for the change of state (R293). -/
def State.renegotiate (s : State) (l w : Nat) (fom : Byte) : State :=
  let ready := decide (s.fomThreshold (s.lanePort l) .step3 ≤ fom.toNat)
  (((s.modLane l fun x => { x with fom := fom }).noteFom l fom).noteWord l w).sendWord l .step3 ready

/-- STATUS_WORD. -/
def execStatusWord (lane : Port) (word : BitVec 56) (fom : Byte) (s : State) : Out :=
  if s.training lane then done (s.takeWord lane word.toNat fom)
  else actIf (s.renegotiating lane) s (s.renegotiate lane word.toNat fom)

/-- The figures of merit that link training reached; the port enters ALIGN where every lane holds STEP3's
threshold (R290). -/
def State.trained (s : State) (p : Nat) (foms : List Byte) : State :=
  let thr := s.fomThreshold p .step3
  let s := ((s.lanesOf p).zip foms).foldl (fun s (l, f) =>
    (s.modLane l fun x => { x with fom := f, everReady := x.everReady || decide (thr ≤ f.toNat) }).noteFom l f) s
  if s.portMeets p then s.enterState p .align else s

/-- LINK_TRAINING_DONE. -/
def execLinkTrainingDone (port : Port) (foms : List Byte) (s : State) : Out :=
  actIf ((s.port port).st == .step3 && s.rbit (pgFab (port / 8)) Off.FAB_PORT_CTRL 0 (port % 8) &&
    (s.port port).retryAt.isNone) s (s.trained port foms)

/-- The limit of the port's state has expired; a port that a calibration window keeps down has 10 ms of its own
(R294). -/
def State.limitOver (s : State) (p : Nat) : Bool :=
  let x := s.port p
  let cal := x.st == .align && ((s.calWin p).isOpen || (s.calWin p).exitPending)
  !cal && x.retryAt.isNone && (match x.st.limit with | some n => decide (x.entered + n ≤ s.now) | none => false)

/-- Why an attempt ended (R289). -/
def State.failCause (s : State) (p : Nat) : Nat :=
  let x := s.port p
  if x.modeBad then 2 else if s.laneBad p then 3 else if x.st = .cap ∧ !x.gotWord then 4 else 1

/-- The lanes that stayed below the threshold in the last attempt are marked failed (R288). -/
def State.markLanes (s : State) (p : Nat) : State :=
  ((s.lanesOf p).filter fun l => !(s.lane l).everReady).foldl (fun s l =>
    (s.modLane l fun x => { x with failed := true }).raise { pg := pgFab (p / 8), ev := 0, unit := l % 8, access := 0xA }) s

/-- The port fails after its tries (R288, R296). -/
def State.portFails (s : State) (p : Nat) : State :=
  let s := s.markLanes p
  let s := (s.modPort p fun x => { x with st := .failed, entered := s.now }).raise
    { pg := pgFab (p / 8), ev := 5, unit := p % 8, access := 0xA }
  s.endRetrain p 0x0801 [s.portStateWord p]

/-- An attempt ends (R288). -/
def State.endAttempt (s : State) (p : Nat) : State :=
  let cause := s.failCause p
  let s := s.modPort p fun x => { x with attempts := x.attempts + 1, failStep := x.st.code, cause := cause }
  if s.rfld (pgFab (p / 8)) Off.FAB_PORT_CTRL 4 4 (p % 8) ≤ (s.port p).attempts then s.portFails p
  else s.modPort p fun x => { x with retryAt := some (s.now + 1000000) }

/-- BRINGUP_STATE_TIMEOUT. -/
def execBringupStateTimeout (port : Port) (s : State) : Out := actIf (s.limitOver port) s (s.endAttempt port)

/-- The wait of 1 ms is over. -/
def State.retryOver (s : State) (p : Nat) : Bool :=
  match (s.port p).retryAt with | some t => decide (t ≤ s.now) && s.portEnabled p && !s.isFenced (portRegion p) | none => false

/-- BRINGUP_RETRY. -/
def execBringupRetry (port : Port) (s : State) : Out := actIf (s.retryOver port) s (s.startBringup port false)

/-! ### A link that does not recover (R294) -/

/-- The port is not back in UP 10 ms after its window ended. -/
def State.recoveryOver (s : State) (p : Nat) : Bool :=
  let w := s.calWin p
  w.exitPending && (s.port p).st != .up && (match w.endedAt with | some t => decide (t + 10000000 ≤ s.now) | none => false)

/-- `cal_fail`, and the port returns to CAP. -/
def State.calFail (s : State) (p : Nat) : State :=
  let s := s.raise { pg := pgFab (p / 8), ev := 4, unit := p % 8, access := 0xA }
  ((s.portDown p .disabled).startBringup p false).watchFlow

/-- CAL_RECOVERY_TIMEOUT. -/
def execCalRecoveryTimeout (port : Port) (s : State) : Out := actIf (s.recoveryOver port) s (s.calFail port)

/-! ### Configuration of a block (R284, R297) -/

/-- A port that its block's new configuration leaves out goes down and forgets its failures. -/
def State.stopPort (s : State) (p : Nat) : State :=
  let s := (s.portDown p .disabled).modPort p fun x => { x with attempts := 0, failStep := 0, cause := 0, retryAt := none }
  s.endRetrain p 0x0802 []

/-- The lanes of a block named by a predicate lose their failure marks. -/
def State.clearMarks (s : State) (b : Nat) (which : Nat → Bool) : State :=
  ((List.range 8).filter which).foldl (fun s i => s.modLane (8 * b + i) fun x => { x with failed := false }) s

/-- `FAB_BLK_MODE` of block `b` takes a new value: every port goes down where the mode changes, else only the
ports whose bits change; what is enabled starts bring-up. -/
def State.configBlock (s : State) (b : Nat) (w : Word) : State :=
  let ports := (List.range 8).map (8 * b + ·)
  let old := ports.filter s.portEnabled
  let pg := pgFab b
  let before := s.poolLevel 0 (b / 16)
  let modes := s.rfld pg Off.FAB_BLK_MODE 0 2 != fld w 0 2
  let t := s.setReg pg Off.FAB_BLK_MODE (word (fld w 0 2 + fld w 8 8 * 256))
  let new := ports.filter t.portEnabled
  let down := old.filter fun p => modes || !new.contains p
  let s := down.foldl (fun s p => s.stopPort p) s
  let s := s.clearMarks b fun i => modes || (down.any fun p => (s.lanesOf p).contains (8 * b + i))
  let s := s.setReg pg Off.FAB_BLK_MODE (word (fld w 0 2 + fld w 8 8 * 256))
  let s := (new.filter fun p => modes || !old.contains p).foldl (fun s p => s.startBringup p false) s
  s.watchLevel 0 (b / 16) before

/-! ### Faults and figures of merit (R291, R293, R295) -/

/-- The orbit block leaves a source whose port is down at once (R295, R261). -/
def State.leaveSource (s : State) : State := if s.lossDue && s.followLost then s.sourceLoss else s

/-- A port in UP goes down: `link_down` is raised and counted (R295). -/
def State.leaveUp (s : State) (p : Nat) : State :=
  ((s.bumpPort p Off.FAB_LINK_DOWN).raise { pg := pgFab (p / 8), ev := 1, unit := p % 8, access := 0xA }).portDown p .disabled

/-- A link fault (R295). -/
def State.linkFault (s : State) (p : Nat) : State :=
  let s := s.leaveUp p
  let auto := s.rbit (pgFab (p / 8)) Off.FAB_PORT_CTRL 1 (p % 8)
  (s.modPort p fun x => { x with retryAt := if auto then some (s.now + 1000000) else none }).leaveSource

/-- The cause takes the port down: of uncorrected codewords more than `hiser`. -/
def State.faultCause (s : State) (p : Nat) : LinkFaultCause → Bool
  | .hiSer n => decide (s.rfld (pgFab (p / 8)) Off.FAB_HISER 0 16 < n)
  | _ => true

/-- `hi_ser` is raised by a fault of that cause; the codewords have been counted as they came (R300). -/
def State.raiseHiSer (s : State) (p : Nat) : LinkFaultCause → State
  | .hiSer _ => s.raise { pg := pgFab (p / 8), ev := 3, unit := p % 8, access := 0xA }
  | _ => s

/-- LINK_FAULT. -/
def execLinkFault (port : Port) (cause : LinkFaultCause) (s : State) : Out :=
  actIf (s.portUp port && s.faultCause port cause) s (((s.raiseHiSer port cause).linkFault port).watchFlow)

/-- A lane of a port in UP has a new figure of merit (R291, R293, R295). -/
def State.fomUpdate (s : State) (l : Nat) (fom : Byte) : State :=
  let pg := pgFab (l / 8)
  let low := decide (fom.toNat < s.rfld pg Off.FAB_FOM_LOW 0 8)
  let cal := decide (fom.toNat < s.rfld pg Off.FAB_FOM_LOW 8 8)
  let s := (s.modLane l fun x =>
    { x with fom := fom, lowDegrade := if low then min 17 (x.lowDegrade + 1) else 0, lowCal := if cal then min 17 (x.lowCal + 1) else 0 }).noteFom l fom
  let s := if (s.lane l).lowDegrade = 16 then s.raise { pg := pg, ev := 2, unit := l % 8, access := 0xA } else s
  if (s.lane l).lowCal = 16 then s.requestStep (s.lanePort l) (.dfeReseed (Fin.ofNat 8 l)) else s

/-- FOM_UPDATE. -/
def execFomUpdate (lane : Port) (fom : Byte) (s : State) : Out :=
  actIf (s.portUp (s.lanePort lane) && !(s.port (s.lanePort lane)).rxQuiet) s (s.fomUpdate lane fom)

/-! ### Per-direction sleep (R298, R299) -/

/-- The receive direction is quiet. -/
def State.takeQuiet (s : State) (p : Nat) : State :=
  (s.modPort p fun x => { x with rxQuiet := true }).bumpPort p Off.FAB_SLEEP_RX_N

/-- QUIET. -/
def execQuiet (port : Port) (s : State) : Out := actIf (s.portUp port && !(s.port port).rxQuiet) s (s.takeQuiet port)

/-- A frame waits to be built for port `p`. -/
def State.buildFor (s : State) (p : Nat) : Bool :=
  s.sw.builds.any fun b => b.targets.any fun t => match t with | .local q _ => q == p | .remote _ => false

/-- The conditions of R298 hold on port `p` for the idle time. -/
def State.quietDue (s : State) (p : Nat) : Bool :=
  let x := s.port p
  let idle := s.rfld (pgFab (p / 8)) Off.FAB_PORT_SLEEP 0 16 (p % 8)
  s.portUp p && !x.txQuiet && s.rbit (pgFab (p / 8)) Off.FAB_PORT_CTRL 2 (p % 8) && idle != 0 && x.peerSleep &&
  !s.rbit pgOrb (Off.ORB_BEACON_EN0 + 4 * (p / 32)) (p % 32) && x.descs.isEmpty && !s.buildFor p && x.stopsTx.isEmpty &&
  !(s.calWin p).lead && !(s.calWin p).isOpen && decide (x.idleSince + idle ≤ s.now)

/-- QUIET leaves, and the direction is quiet. -/
def State.enterQuiet (s : State) (p : Nat) : State :=
  ((s.modPort p fun x => { x with txQuiet := true }).bumpPort p Off.FAB_SLEEP_TX_N).emit (.quiet p)

/-- TX_QUIET_ENTER. -/
def execTxQuietEnter (port : Port) (s : State) : Out := actIf (s.quietDue port) s (s.enterQuiet port)

/-- A cause of R299 holds on port `p`. -/
def State.wakeCause (s : State) (p : Nat) : WakeCause → Bool
  | .frameEnqueued => !(s.port p).descs.isEmpty
  | .flowControlDue => !(s.port p).stopsTx.isEmpty
  | .calLead => (s.calWin p).lead
  | .linkRetrain => (s.port p).retrain.isSome
  | .registerWrite =>
    !s.rbit (pgFab (p / 8)) Off.FAB_PORT_CTRL 2 (p % 8) || s.rbit pgOrb (Off.ORB_BEACON_EN0 + 4 * (p / 32)) (p % 32)

/-- TX_WAKE. -/
def execTxWake (port : Port) (cause : WakeCause) (s : State) : Out :=
  actIf ((s.port port).txQuiet && s.wakeCause port cause) s (s.wakeTx port)

/-- RX_WAKE. -/
def execRxWake (port : Port) (s : State) : Out :=
  actIf (s.portUp port && (s.port port).rxQuiet) s (s.modPort port fun x => { x with rxQuiet := false })

/-- RX_WAKE_TIMEOUT. -/
def execRxWakeTimeout (port : Port) (s : State) : Out :=
  actIf (s.portUp port && (s.port port).rxQuiet) s (s.linkFault port).watchFlow

/-! ### Host ports (R286, R301, R303, R443) -/

/-- The IPv4 address of the network of host port `p`. -/
def State.netV4 (s : State) (p : Nat) : Word := s.reg pgHst Off.HST_NET_V4 (hostNet p)

/-- The IPv6 address of the network of host port `p`. -/
def State.netV6 (s : State) (p : Nat) : BitVec 128 :=
  let w (i : Nat) : Nat := (s.reg pgHst (Off.HST_NET_V6_0 + 4 * i) (hostNet p)).toNat
  BitVec.ofNat 128 (((w 0 * 2 ^ 32 + w 1) * 2 ^ 32 + w 2) * 2 ^ 32 + w 3)

/-- The MAC address of host port `p`. -/
def State.hostMac (s : State) (p : Nat) : Nat :=
  ((s.reg pgHst Off.HST_MAC_BASE_LO).toNat + s.rfld pgHst Off.HST_MAC_BASE_HI 0 16 * 2 ^ 32 + p) % 2 ^ 48

/-- The link-local address of host port `p`. -/
def State.hostLinkLocal (s : State) (p : Nat) : BitVec 128 := BitVec.ofNat 128 (0xFE80 * 2 ^ 112 + eui64 (s.hostMac p))

/-- An IPv6 address of host port `p`. -/
def State.ownV6 (s : State) (p : Nat) (a : BitVec 128) : Bool := a == s.hostLinkLocal p || (a != 0 && a == s.netV6 p)

/-- The multicast addresses that IPv6 requires: all nodes, and the solicited-node address of an own address. -/
def State.ownMulticast (s : State) (p : Nat) (a : BitVec 128) : Bool :=
  let sol (x : BitVec 128) : BitVec 128 := BitVec.ofNat 128 (0xFF02 * 2 ^ 112 + 0x1FF * 2 ^ 24 + x.toNat % 2 ^ 24)
  a == BitVec.ofNat 128 (0xFF02 * 2 ^ 112 + 1) || a == sol (s.hostLinkLocal p) || (s.netV6 p != 0 && a == sol (s.netV6 p))

/-- The host port answers the frame (R301). -/
def State.answers (s : State) (p : Nat) : HostFrame → Bool
  | .arpRequest t | .icmp4Echo t => t != 0 && t == s.netV4 p
  | .neighbourSolicitation t => s.ownV6 p t
  | .icmp6Echo d => s.ownV6 p d || s.ownMulticast p d
  | _ => false

/-- The counter of a frame that a host port does not answer. -/
def hostDropOff : HostFrame → Nat
  | .badFcs => Off.HST_FCS_ERR
  | .uncorrectable => Off.HST_FEC_UNCORR
  | _ => Off.HST_RX_DROP

/-- What a host port does with a frame that is neither Ralow nor PTP. -/
def State.hostFrame (s : State) (port : HostPort) (f : HostFrame) : State :=
  if s.answers port f then s.emit (.hostReply port f) else s.bump pgHst (hostDropOff f) port

/-- HOST_FRAME_RECEIVE. -/
def execHostFrameReceive (port : HostPort) (f : HostFrame) (s : State) : Out :=
  actIf ((s.hostPort port).state == 3) s (s.hostTake port fun s => s.hostFrame port f)

/-- A PAUSE holds the port's transmitter for its quanta; one of no quanta lets what it kept back leave (R286). -/
def State.hostPause (s : State) (p : HostPort) (quanta : BitVec 16) : State :=
  if quanta = 0 then (s.modHost p fun x => { x with pausedUntil := none }).releaseHeld p
  else s.modHost p fun x => { x with pausedUntil := some (s.now + quantaNs quanta.toNat 100) }

/-- HOST_PAUSE. -/
def execHostPause (port : HostPort) (quanta : BitVec 16) (s : State) : Out :=
  actIf ((s.hostPort port).state == 3) s (s.hostTake port fun s => s.hostPause port quanta)

/-- HOST_LINK_UP. -/
def execHostLinkUp (port : HostPort) (s : State) : Out :=
  actIf ((s.hostPort port).state == 1 || (s.hostPort port).state == 2) s
    (s.modHost port fun x => { x with state := 3, downAt := none, announced := 0, lastAnnounce := s.now })

/-- A network has no port up. -/
def State.netDown (s : State) (net : Fin 2) : Bool :=
  (List.range 8).all fun p => hostNet p != net || (s.hostPort p).state != 3

/-- A host port loses its link, and what a PAUSE kept back with it (R303, R304). -/
def State.hostDown (s : State) (p : Nat) : State :=
  let s := (s.modHost p fun x => { x with state := 0, downAt := some s.now, pausedUntil := none }).bump pgHst Off.HST_LINK_DOWN p
  let s := { s with held := s.held.filter fun e => match e.hostPort with | some q => q.val != p | none => true }
  let s := s.raise { pg := pgHst, ev := 0, unit := p, access := 0xA }
  if s.netDown (hostNet p) then s.raise { pg := pgHst, ev := 1, unit := p, access := 0xA } else s

/-- HOST_LINK_DOWN. -/
def execHostLinkDown (port : HostPort) (s : State) : Out := actIf ((s.hostPort port).state == 3) s (s.hostDown port)

/-- A host port has been down for 1 s. -/
def State.restartDue (s : State) (p : Nat) : Bool :=
  match (s.hostPort p).downAt with | some t => decide (t + 10 ^ 9 ≤ s.now) && (s.hostPort p).state == 0 | none => false

/-- HOST_AUTONEG_RESTART. -/
def execHostAutonegRestart (port : HostPort) (s : State) : Out :=
  actIf (s.restartDue port) s (s.modHost port fun x => { x with state := 1, downAt := none })

/-- An announcement of a host port is due (R443). -/
def State.announceDue (s : State) (p : Nat) : Bool :=
  let x := s.hostPort p
  let a := s.rfld pgMgt Off.MGT_NETCFG 8 8
  x.state == 3 && s.boot.fwRun &&
  (if x.announced = 0 then true
   else if x.announced < 3 then decide (x.lastAnnounce + 10 ^ 9 ≤ s.now)
   else a != 0 && decide (x.lastAnnounce + a * 10 ^ 9 ≤ s.now))

/-- The IPv6 addresses that a host port announces: the link-local one, and the one configured for its network (R443). -/
def State.announcedV6 (s : State) (p : Nat) : List (BitVec 128) :=
  s.hostLinkLocal p :: (if s.netV6 p = 0 then [] else [s.netV6 p])

/-- The announcement leaves: neighbour advertisements, and a gratuitous ARP where the network has an IPv4
address (R443). -/
def State.announce (s : State) (port : HostPort) : State :=
  (s.modHost port fun x => { x with announced := min 3 (x.announced + 1), lastAnnounce := s.now }).emit
    (.announce port (s.announcedV6 port) (if s.netV4 port = 0 then none else some (s.netV4 port)))

/-- ANNOUNCE. -/
def execAnnounce (port : HostPort) (s : State) : Out := actIf (s.announceDue port) s (s.announce port)

end Sys2Proof.Machine
end

