-- ==== Sys2Proof/Machine/Params.lean ====
section
/-!
DEFINITION. Parameter slices in motion: the feed's OPEN records and deliveries, the commit gate,
the distribution builder (spec/05_parameter_service.md R130 to R141), checkpoints (R142 to R145),
and the window messages of the context store (R146 to R149, spec/11_memory.md R321, R322).
-/

namespace Sys2Proof.Machine

/-! ### Access to windows -/

/-- The memory blocks and channels of a window serve requests: no block of its regions is quiesced, and no channel of
them retrains or holds 48 writes, which take precedence (R273, R324, R458). -/
def State.winReady (s : State) (w : Window) : Bool :=
  s.memReady &&
  (w.regions.all fun r => (List.range 8).all fun m => !s.quiesced (pgMem (8 * r + m))) &&
  !s.retrains w &&
  !(s.chans.any fun kv => w.regions.contains (kv.1 / 32) && decide (48 ≤ kv.2.queue.length))

/-- A region that holds part of a window is fenced (R16). -/
def State.winFenced (s : State) (w : Window) : Bool := w.regions.any s.isFenced

/-- The parts of a slice area that R129 protects while its job is ARMED or RUNNING. -/
def SliceCfg.guarded (x : SliceCfg) (len off n : Nat) : Bool :=
  meets x.off (x.staging len) off n || meets (x.off + x.mask len) (up4k ((x.n len + 7) / 8)) off n

/-- A write of `n` bytes at an offset of a space touches an area that R129 protects. -/
def JobCfg.guards (c : JobCfg) (st : JobState) (space off n : Nat) : Bool :=
  c.slices.any fun x => x.win == space &&
    (match st with
     | .armed | .running => x.guarded c.len off n
     | .draining => meets x.off 16 off n
     | _ => false)

/-- A write of `n` bytes at an offset of window table entry `i` touches a protected area of some job. -/
def State.guardedWrite (s : State) (i off n : Nat) : Bool :=
  s.jobs.any fun kv =>
    match kv.2.cfg with
    | some c => c.windows.any fun w => w.2.index == i && c.guards kv.2.st w.1 off n
    | none => false

/-! ### Feed (R130, R132, R143) -/

/-- A checkpoint of the job holds the OPEN of an instance that would write the area of an image not yet copied
(R143). -/
def State.openHeld (s : State) (slot : Nat) (c : JobCfg) (x : SliceCfg) : Bool :=
  s.ckpts.any fun k => k.slot == slot && decide (k.first + k.done ≤ x.index ∧ x.index < k.first + k.count) &&
    k.images.any fun i => i.1 == x.index && i.2.2.2 == !(s.commitWord c x).area

/-- The OPEN record that a slice can push now. -/
def State.openReady (s : State) (i : Nat) : Option (Nat × JobCfg × SliceCfg × (Word × Byte × OpenStatus)) :=
  match s.sliceOwner i with
  | none => none
  | some (slot, c, x) =>
    match (s.feed i).pendingOpen.head? with
    | none => none
    | some p => if (s.feed i).opened.isNone ∧ s.feedRoom x ∧ !s.openHeld slot c x then some (slot, c, x, p) else none

/-- The OPEN record of an instance is pushed; an instance abandoned in the meantime ends at once. -/
def State.feedOpen (s : State) (slot : Nat) (c : JobCfg) (x : SliceCfg) (p : Word × Byte × OpenStatus) : State :=
  let w := s.commitWord c x
  let s := (s.readsCommit slot c x).pushFeed x (feedRecord 1 x.index p.1 p.2.1 w.area w.gen 0 0 0)
  let s := s.modFeed x.index fun f =>
    { f with pendingOpen := f.pendingOpen.tail, opened := some (p.1, p.2.1), sealed := p.2.2 == .sealed }
  if p.2.2 = .abandoned then s.feedDrop x else s

/-- FEED_OPEN. -/
def execFeedOpen (slice : SliceIx) (s : State) : Out := actWith (s.openReady slice) s fun (slot, c, x, p) => s.feedOpen slot c x p

/-- A finished chunk that its slice can take now: the instance's OPEN is pushed and the unit's buffer is free. -/
def State.deliverable (s : State) (i ch : Nat) : Option (JobCfg × SliceCfg × Window × Chunk) :=
  match s.sliceOwner i with
  | none => none
  | some (slot, c, x) =>
    match (s.feed i).opened, c.window x.win with
    | some (step, attempt), some w =>
      if ch < x.first ∨ x.first + x.nchunk ≤ ch ∨ (s.feed i).last.isSome ∨ !s.winReady w ∨
          !(s.feed i).bufferFree x ((ch - x.first) / x.unit) then none
      else ((s.chunkOf slot step attempt ch).filter fun k => k.phase == .waitingFeed).map fun k => (c, x, w, k)
    | _, _ => none

/-- Every chunk of a unit has been delivered. -/
def Feed.unitFull (f : Feed) (x : SliceCfg) (u : Nat) : Bool :=
  (List.range x.unit).all fun i => f.delivered.contains (x.first + u * x.unit + i)

/-- A chunk is written into its unit buffer, and its entries return (R130, R76). -/
def State.feedDeliver (s : State) (c : JobCfg) (x : SliceCfg) (w : Window) (k : Chunk) : State :=
  let u := (k.index - x.first) / x.unit
  let at_ := x.off + x.unitBuf c.len u + (k.index - x.first) % x.unit * (4 * c.len)
  let (ok, s) := s.cross k.region x.region (some k.slot)
  let s := if ok then s.writeRange w at_ k.outBytes (some k.slot) else s
  let s := if k.ptr4.isNone then s.dropChunk k
    else (s.freeEntries k).putChunk { k with phase := .finished, ptr1 := none, entries := [], outBytes := [] }
  let s := s.modFeed x.index fun f => { f with delivered := insertOnce f.delivered k.index }
  let s := s.modFeed x.index fun f => if f.unitFull x u then { f with completed := f.completed ++ [u] } else f
  s.pump x.index

/-- FEED_DELIVER. -/
def execFeedDeliver (slice : SliceIx) (chunk : BitVec 24) (s : State) : Out :=
  actWith (s.deliverable slice chunk.toNat) s fun (c, x, w, k) => s.feedDeliver c x w k

/-! ### Commit (R135, R142) -/

/-- The stores that the commit request waits for have been written (R135). -/
def State.storesDone (s : State) (x : SliceCfg) : Bool :=
  !((s.cpb x.block).ags.any fun kv => match kv.2.cur with
    | some t => !t.isLoad && (s.feed x.index).requestWaits.contains t.id
    | none => false)

/-- The commit gate of a slice may write: request, seal and earlier stores (R135). -/
def State.commitReady (s : State) (i : Nat) : Option (Nat × JobCfg × SliceCfg × Window × (Word × Byte)) :=
  match s.sliceOwner i with
  | none => none
  | some (slot, c, x) =>
    match (s.feed i).opened, c.window x.win with
    | some inst, some w =>
      if (s.feed i).request ∧ (s.feed i).sealed ∧ (s.feed i).last.isNone ∧ s.storesDone x ∧ s.winReady w then
        some (slot, c, x, w, inst)
      else none
    | _, _ => none

/-- An image of each running checkpoint whose step is now committed is fixed (R142). -/
def State.noteImages (s : State) (slot slice : Nat) (v : CommitWord) : State :=
  { s with ckpts := s.ckpts.map fun k =>
    if k.slot = slot ∧ k.first ≤ slice ∧ slice < k.first + k.count ∧ k.step.toNat = v.step then
      { k with images := k.images ++ [(slice, v.gen, v.attempt, v.area)] }
    else k }

/-- The commit word of the instance is written, and COMMITTED follows. -/
def State.commit (s : State) (slot : Nat) (c : JobCfg) (x : SliceCfg) (w : Window) (inst : Word × Byte) : State :=
  let old := s.commitWord c x
  let new : CommitWord := { gen := (old.gen + 1) % 2 ^ 32, step := inst.1.toNat, attempt := inst.2.toNat, area := !old.area }
  let s := ((s.readsCommit slot c x).writeRange w x.off new.bytes (some slot)).noteImages slot x.index new
  (s.modFeed x.index fun f => { f with last := some true }).pump x.index

/-- COMMIT_WORD_WRITE. -/
def execCommitWordWrite (slice : SliceIx) (s : State) : Out :=
  actWith (s.commitReady slice) s fun (slot, c, x, w, inst) => s.commit slot c x w inst

/-! ### Distribution (R138 to R140) -/

/-- Elements of a full PARAM message (R139). -/
def paramCount (fmt : Nat) : Nat := match fmt with | 0x9 => 7936 | 0xA => 15360 | _ => 4096

/-- The header of the next PARAM message of a slice (R138, R139). -/
def paramHdr (c : JobCfg) (x : SliceCfg) (d : Dist) (n : Nat) : LfpHeader :=
  { version := 1, type := 4, tc := 3, flags := 0, job := c.id, group := x.dgroup, member := 0, format := c.distFmt x,
    cls := c.cgrp.classP.toNat, step := d.step.toNat, chunk := x.index, attempt := d.attempt.toNat, elemOffset := d.sent,
    count := n }

/-- A build with its cells of P0 claimed before its bytes are taken (R228, R140). -/
def State.claimBuild (s : State) (b : Build) : Option State :=
  match b.slot with
  | none => some (s.build b)
  | some j =>
    let n := cellsOf (s.lfpFrame b.region b.hdr.tc 0 b.hdr b.payload).length
    (s.poolTake 0 b.region (jobReq j) n).map fun (u, t) => t.build { b with held := some (u, n) }

/-- The bytes of the next PARAM message leave the distribution queue (R140). -/
def State.paramNext (s : State) (i : Nat) : Option State :=
  match s.sliceOwner i with
  | none => none
  | some (slot, c, x) =>
    match (s.feed i).dists with
    | [] => none
    | d :: rest =>
      let n := min (paramCount (c.distFmt x)) (x.n c.len - d.sent)
      let size := storedSize (c.distFmt x) n
      let q := (s.cpb x.block).queue x.distq
      if q.avail < size then none
      else
        let ts := ((c.group x.dgroup).getD noGroup).members.map Member.target
        let b : Build :=
          { region := x.region, slot := some slot, hdr := paramHdr c x d n, payload := q.peek size, targets := ts }
        (s.claimBuild b).map fun t =>
          let t := t.modCpb x.block fun k => k.modQueue x.distq fun q => (q.take size).2
          t.modFeed i fun f => { f with dists := if d.sent + n < x.n c.len then { d with sent := d.sent + n } :: rest else rest }

/-- PARAM. -/
def execParam (slice : SliceIx) (s : State) : Out :=
  actWith (s.paramNext slice) s fun t =>
    match s.sliceOwner slice.val with
    | some (slot, _, x) => s.readingQueues x.block slot 0 [x.distq] t
    | none => t

/-! ### Checkpoints (R142 to R145) -/

/-- The configuration of a slot: as armed while it holds, else as the tables stand. -/
def State.cfgNow (s : State) (slot : Nat) : JobCfg := (s.job slot).cfg.getD (s.jobCfg slot)

/-- A checkpoint ends with a status. -/
def State.ckptEnd (s : State) (chit : Word) (status : Nat) : State :=
  { (s.complete chit status []) with ckpts := (s.complete chit status []).ckpts.filter fun k => k.chit != chit }

/-- Bytes of the manifest, and of a slice image (R144). -/
def manifestBytes (count : Nat) : Nat := up4k (64 + 64 * count)

/-- Bytes of a slice image: k planes of 4N bytes, rounded up to 4 KiB. -/
def SliceCfg.imageBytes (x : SliceCfg) (len : Nat) : Nat := up4k (x.planes * (4 * x.n len))

/-- The slices that a checkpoint names, in order; none where one of them is not the job's. -/
def JobCfg.sliceRun (c : JobCfg) (first count : Nat) : Option (List SliceCfg) :=
  let l := (c.slices.filter fun x => decide (first ≤ x.index ∧ x.index < first + count))
  if l.length = count then some l else none

/-- A slice's commit word as a demand read finds it. -/
def State.readCommit (s : State) (c : JobCfg) (x : SliceCfg) : Option CommitWord :=
  match c.window x.win with
  | some w => ((s.readWord (w.addr x.off)).1).map CommitWord.parse
  | none => none

/-- Step `a` lies beyond step `b`. -/
def stepBeyond (a b : Nat) : Bool := decide (b < a)

/-- The image fits its window, which the command may write, outside every slice area of the job (R145, R321). -/
def JobCfg.imageOk (c : JobCfg) (xs : List SliceCfg) (space off : Nat) : Bool :=
  let total := manifestBytes xs.length + xs.foldl (fun n x => n + x.imageBytes c.len) 0
  match c.window space with
  | none => false
  | some w =>
    w.hostWrite && off % 4096 == 0 && decide (off + total ≤ w.bytes) &&
    c.slices.all fun x => x.win != space || !meets x.off (x.bytes c.len) off total

/-- The first word of a manifest (R144). -/
def manifestHead (state : Nat) (chit : Word) : List Byte := padTo 16 (leBytes 4 state ++ leBytes 4 chit.toNat)

/-- A checkpoint that passes its checks starts: the step is resolved, the manifest is incomplete. -/
def State.ckptBegin (s : State) (chit : Word) (slot first count : Nat) (step : Nat) (space off : Nat)
    (w : Window) (ws : List (SliceCfg × CommitWord)) : State :=
  let imgs := (ws.filter fun p => p.2.step == step).map fun p => (p.1.index, p.2.gen, p.2.attempt, p.2.area)
  let k : Ckpt :=
    { chit := chit, slot := slot, first := first, count := count, step := word step, win := space, off := off,
      images := imgs, imageOff := manifestBytes count }
  let s := s.writeRange w off (manifestHead 0 chit) (some slot)
  { s with ckpts := s.ckpts ++ [k] }

/-- The memory checkpoint command after its acceptance (R142, R145): a status, or the running command. -/
def State.ckptStart (s : State) (chit : Word) (slot first count step space off : Nat) : State :=
  let c := s.cfgNow slot
  match c.sliceRun first count, c.window space with
  | some xs, some w =>
    let words := xs.map fun x => (x, s.readCommit c x)
    let s := xs.foldl (fun s x => s.readsCommit slot c x) s
    if words.any fun p => p.2.isNone then s.complete chit 0x0504
    else
      let ws := words.map fun p => (p.1, p.2.getD (CommitWord.parse []))
      let at_ := if step = 0xFFFFFFFF then ws.foldl (fun n p => max n p.2.step) 0 else step
      if ws.any fun p => stepBeyond p.2.step at_ then s.complete chit 0x0501
      else if !c.imageOk xs space off then s.complete chit 0x0503
      else s.ckptBegin chit slot first count at_ space off w ws
  | _, _ => s.complete chit 0x0503

/-- The job can commit nothing more (R145). -/
def State.ckptOver (s : State) (slot : Nat) : Bool :=
  let j := s.job slot
  !j.st.holds || j.failure.isSome || (j.st == .draining && !j.isOpen && s.setsStopped slot)

/-- The planes of an area, one after another. -/
def State.readPlanes (s : State) (slot : Nat) (c : JobCfg) (x : SliceCfg) (w : Window) (area : Bool) : Nat → RangeRead × State
  | 0 => (.ok [], s)
  | n + 1 =>
    match s.readPlanes slot c x w area n with
    | (.ok b, t) =>
      match t.readRange w (x.off + x.area c.len area + n * x.plane c.len) (4 * x.n c.len) (some slot) with
      | (.ok d, u) => (.ok (b ++ d), u)
      | r => r
    | r => r

/-- The record of a slice image (R144). -/
def imageRecord (x : SliceCfg) (n gen step attempt off : Nat) (d : Digest) : List Byte :=
  leBytes 2 x.index ++ leBytes 1 x.planes ++ [0] ++ leBytes 4 n ++ leBytes 4 gen ++ leBytes 4 step ++ leBytes 1 attempt ++
    List.replicate 7 0 ++ leBytes 8 off ++ digestBytes d

/-- After the last slice: the records, then the complete manifest word, and OK. -/
def State.ckptFinish (s : State) (c : JobCfg) (w : Window) (k : Ckpt) : State :=
  let head := padTo 48 (leBytes 2 c.id ++ leBytes 2 k.count ++ leBytes 4 k.step.toNat)
  let job := some k.slot
  let s := (s.writeRange w (k.off + 16) (head ++ k.records.flatten) job).writeRange w k.off (manifestHead 1 k.chit) job
  s.ckptEnd k.chit 0

/-- One slice is copied into the image. -/
def State.ckptCopy (s : State) (c : JobCfg) (w : Window) (k : Ckpt) (x : SliceCfg) (img : Nat × Nat × Bool) : State :=
  match c.window x.win with
  | none => s.ckptEnd k.chit 0x0502
  | some src =>
    match s.readPlanes k.slot c x src img.2.2 x.planes with
    | (.ue _ _, t) => t.ckptEnd k.chit 0x0504
    | (.ok b, t) =>
      let t := t.writeRange w (k.off + k.imageOff) b (some k.slot)
      let r := imageRecord x (x.n c.len) img.1 k.step.toNat img.2.1 k.imageOff (Config.shake256 b)
      let k' : Ckpt := { k with done := k.done + 1, records := k.records ++ [r], imageOff := k.imageOff + x.imageBytes c.len }
      let t := { t with ckpts := t.ckpts.map fun q => if q.chit = k.chit then k' else q }
      if k'.done = k'.count then t.ckptFinish c w k' else t

/-- What CHECKPOINT_SLICE_COPY does with a running checkpoint: none while it waits. -/
def State.ckptStep (s : State) (k : Ckpt) : Option State :=
  let c := s.cfgNow k.slot
  match c.window k.win with
  | none => some (s.ckptEnd k.chit 0x0502)
  | some w =>
    if k.done = k.count then some (s.ckptFinish c w k)
    else
      let i := k.first + k.done
      match k.images.find? fun m => m.1 == i, c.slices.find? fun x => x.index == i with
      | some m, some x =>
        if s.winFenced w ∨ s.isFenced x.region then some (s.ckptEnd k.chit 0x0502)
        else if s.winReady w ∧ (c.window x.win).all s.winReady then some (s.ckptCopy c w k x m.2) else none
      | _, none => some (s.ckptEnd k.chit 0x0502)
      | none, some _ => if s.ckptOver k.slot then some (s.ckptEnd k.chit 0x0502) else none

/-- CHECKPOINT_SLICE_COPY. -/
def execCheckpointSliceCopy (chit : Word) (s : State) : Out :=
  actWith ((s.ckpts.find? fun k => k.chit == chit).bind s.ckptStep) s id

/-! ### Window messages (R146 to R149) -/

/-- The space that a window message names. -/
def winSpace (h : LfpHeader) : Nat := bits h.chunk 20 4

/-- The byte offset that a window message names. -/
def winOffset (h : LfpHeader) : Nat := bits h.chunk 0 20 * 2 ^ 32 + h.elemOffset

/-- The member entry of the sender, where it is one of the job's (R147). -/
def JobCfg.senderOf (c : JobCfg) (h : LfpHeader) : Option Member :=
  match c.group h.group with
  | some g => if h.member < g.size then g.members[h.member]?.filter (·.valid) else none
  | none => none

/-- The sender's group and index lie in the job (R147 check 3). -/
def JobCfg.senderOk (c : JobCfg) (h : LfpHeader) : Bool :=
  match c.group h.group with | some g => decide (h.member < g.size) | none => false

/-- The first check of R147 that a request fails, 0 for none. A write is as long as its payload, whatever format its
`count` is in (DESIGN CHOICE, notes/assumptions/111.md). -/
def JobCfg.winCheck (c : JobCfg) (st : JobState) (h : LfpHeader) (payload : List Byte) : Nat :=
  let wr := h.type == 8
  let len := if wr then payload.length else leAt payload 0 4
  let off := winOffset h
  if st ≠ .running then 1
  else
    match c.window (winSpace h) with
    | none => 2
    | some w =>
      if !c.senderOk h ∨ !(if wr then w.epWrite else w.epRead) then 3
      else if !w.holds off len ∨ len < 16 ∨ (if wr then h.count < 16 ∨ 8192 < h.count else h.count ≠ 16 ∨ 2 ^ 30 < len) then 4
      else if wr ∧ c.guards st (winSpace h) off len then 5
      else if !wr ∧ leAt payload 4 2 / 2 ^ 15 = 1 ∧ (c.group (leAt payload 4 2 % 4096)).isNone then 7
      else 0

/-- A WIN_REPLY header (R146). -/
def winReplyHdr (job group member space tag off status flags n : Nat) : LfpHeader :=
  { version := 1, type := 9, tc := 5, flags := flags, job := job, group := group, member := member, format := 6, cls := 0,
    step := tag, chunk := space * 2 ^ 20 + off / 2 ^ 32, attempt := status, elemOffset := off % 2 ^ 32, count := n }

/-- A request is refused with a status (R147). It is counted on the page of the region at which it arrived (DESIGN
CHOICE, notes/assumptions/35.md). -/
def State.winRefuse (s : State) (m : Msg) (r slot status : Nat) : State :=
  let s := s.bump (pgRgc (portRegion m.port)) Off.RGC_WIN_REFUSED slot
  let c := s.cfgNow slot
  match c.senderOf m.h with
  | none => s
  | some x =>
    s.build { region := r, slot := some slot, payload := [], targets := [x.target],
              hdr := winReplyHdr m.h.job m.h.group m.h.member (winSpace m.h) m.h.step (winOffset m.h) status flAbandon 0 }

/-- The region whose window engine serves a request (R322). -/
def engineOf (w : Window) (p : Nat) : Nat := if w.scopeRegion then w.region else portRegion p

/-- A request joins the queue of a window engine. -/
def State.winEnqueue (s : State) (r : Nat) (q : WinReq) : State := { s with winq := s.winq.upd [] r fun l => l ++ [q] }

/-- The request of an accepted message. -/
def winReqOf (c : JobCfg) (slot : Nat) (h : LfpHeader) (payload : List Byte) : WinReq :=
  let wr := h.type == 8
  let grp := !wr && leAt payload 4 2 / 2 ^ 15 == 1
  let g := leAt payload 4 2 % 4096
  let own := (c.senderOf h).toList.map Member.target
  { slot := slot, isWrite := wr, window := winSpace h, tag := word h.step, offset := winOffset h,
    len := if wr then payload.length else leAt payload 0 4,
    targets := if grp then ((c.group g).getD noGroup).members.map Member.target else own,
    group := if grp then g else h.group, member := if grp then 0 else h.member,
    sender := own.head?.map fun t => (t, h.group, h.member) }

/-- An accepted request: a write is posted to its channels, a read waits for the engine. -/
def State.winAccept (s : State) (r slot : Nat) (c : JobCfg) (w : Window) (m : Msg) : State :=
  let q := winReqOf c slot m.h m.payload
  if q.isWrite then
    let s := s.postRange w q.offset m.payload (some slot)
    if m.h.seal then s.winEnqueue r q else s
  else s.winEnqueue r q

/-- A window message of a job (R147, R322, R332). -/
def State.winRequest (s : State) (m : Msg) : State :=
  match s.slotOf m.h.job with
  | none => s
  | some slot =>
    let c := s.cfgNow slot
    let r := match c.window (winSpace m.h) with | some w => engineOf w m.port | none => portRegion m.port
    s.forUnit m slot r fun s =>
      if !s.memReady then s
      else
        match c.winCheck (s.job slot).st m.h m.payload, c.window (winSpace m.h) with
        | 0, some w => s.winAccept r slot c w m
        | n, _ => s.winRefuse m r slot n

/-- WIN_READ. -/
def execWinRead (a : Arrival) (s : State) : Out := onRx s (s.receive a fun m => m.h.type == 7) State.winRequest

/-- WIN_WRITE. -/
def execWinWrite (a : Arrival) (s : State) : Out := onRx s (s.receive a fun m => m.h.type == 8) State.winRequest

/-- The first read of a window engine's queue. -/
def State.winReadHead (s : State) (r : Nat) : Option WinReq := (s.winq.look [] r).find? fun q => !q.isWrite

/-- The first `q` of a list replaced by `x`. -/
def replaceFirst (q x : WinReq) : List WinReq → List WinReq
  | [] => []
  | y :: t => if y = q then x :: t else y :: replaceFirst q x t

/-- The first such request of an engine's queue replaced, or removed. -/
def State.winUpdate (s : State) (r : Nat) (q : WinReq) (n : Option WinReq) : State :=
  { s with winq := s.winq.upd [] r fun l =>
    match n with
    | some x => replaceFirst q x l
    | none => l.erase q }

/-- A read ends at an uncorrectable word: a refusal with status 0x06 at the piece's offset (R147). -/
def State.winUe (s : State) (r : Nat) (c : JobCfg) (q : WinReq) : State :=
  let s := s.winUpdate r q none
  match q.sender with
  | none => s
  | some (t, g, k) =>
    s.build { region := r, slot := some q.slot, payload := [], targets := [t],
              hdr := winReplyHdr c.id g k q.window q.tag.toNat (q.offset + q.pos) 6 flAbandon 0 }

/-- One piece of a read is sent (R149): its staging is claimed from P5 and the cells of its reply from P0 (R228), and
the staging returns once the piece is stored. -/
def State.winPiece (s : State) (r : Nat) (c : JobCfg) (w : Window) (q : WinReq) : Option State :=
  let n := min 8192 (q.len - q.pos)
  match s.poolTake 5 r q.slot ((n + 4095) / 4096) with
  | none => none
  | some (p5, s) =>
    match s.readRange w (q.offset + q.pos) n (some q.slot) with
    | (.ue _ _, t) => some ((t.poolGive 5 r q.slot p5).winUe r c q)
    | (.ok b, t) =>
      let last := decide (q.len ≤ q.pos + n)
      let h := winReplyHdr c.id q.group q.member q.window q.tag.toNat (q.offset + q.pos) 0 (if last then flSeal else 0) n
      (t.claimBuild { region := r, slot := some q.slot, hdr := h, payload := b, targets := q.targets }).map fun u =>
        (u.poolGive 5 r q.slot p5).winUpdate r q (if last then none else some { q with pos := q.pos + n })

/-- The next piece of region `r`'s engine. -/
def State.winNext (s : State) (r : Nat) : Option State :=
  match s.winReadHead r with
  | none => none
  | some q =>
    let c := s.cfgNow q.slot
    match c.window q.window with
    | none => some (s.winUpdate r q none)
    | some w =>
      if s.winFenced w then some (s.winUpdate r q none)
      else if s.winReady w ∧ !s.isFenced r then s.winPiece r c w q else none

/-- WIN_REPLY. -/
def execWinReply (region : Region) (s : State) : Out := actWith (s.winNext region) s id

/-- No word of a range of a window waits in a channel (R148). -/
def State.rangeWritten (s : State) (w : Window) (off len : Nat) : Bool :=
  (List.range (len / 16)).all fun i =>
    let a := w.addr (off + 16 * i)
    !((s.chan (addrChan a)).queue.any fun q => q.addr == addrLocal a / 64 * 64 && q.words.any fun x => x.1 == a / 16 % 4)

/-- The acknowledgement that an engine can send now. -/
def State.winAckNext (s : State) (r : Nat) : Option State :=
  if s.isFenced r then none
  else
    (s.winq.look [] r).findSome? fun q =>
      let c := s.cfgNow q.slot
      match c.window q.window with
      | none => none
      | some w =>
        if q.isWrite ∧ s.rangeWritten w q.offset q.len then
          let h := winReplyHdr c.id q.group q.member q.window q.tag.toNat q.offset 0 flSeal 0
          some ((s.winUpdate r q none).build { region := r, slot := some q.slot, hdr := h, payload := [], targets := q.targets })
        else none

/-- WIN_WRITE_ACK. -/
def execWinWriteAck (region : Region) (s : State) : Out := actWith (s.winAckNext region) s id

end Sys2Proof.Machine
end

