-- ==== Sys2Proof/Machine/Sessions.lean ====
section
/-!
DEFINITION. Ralow sessions and messages (spec/12_control_plane.md R336 to R345, R355, R359, R360): the
acceptance of a message, the kept replies, memory requests (R350 to R352), acknowledgements and closing.
-/

namespace Sys2Proof.Machine

/-! ### Acceptance (R336, R342, R343) -/

/-- Network of a host port: A for ports 0 to 3. -/
def netOf (p : HostPort) : Fin 2 := if p.val < 4 then 0 else 1

/-- A Ralow drop counter goes up, which raises `ralow_drop` (R370). -/
def State.dropRalow (s : State) (off : Nat) (slot : Nat) : State :=
  (s.bump pgMgt off).raise { pg := pgMgt, ev := 2, unit := slot, access := 7 }

/-- The message names an open session by slot and epoch, and its tag verifies (R342). -/
def State.authentic (s : State) (m : RalowIn) : Bool :=
  let x := s.sess m.slot.val
  x.st == .opened && x.epoch == m.epoch && m.tagOk

/-- The sequence number is new and within the window of 64 (R342). -/
def Session.fresh (x : Session) (seq : Word) : Bool :=
  !x.seen.contains seq && decide (x.rxMax.toNat < seq.toNat + 64)

/-- The session after a message that has passed R342: number, return address, network in use. -/
def Session.passed (x : Session) (m : RalowIn) (now : Nat) : Session :=
  let top := if x.rxMax.toNat < m.seq.toNat then m.seq else x.rxMax
  let net := netOf m.port
  { x with
    rxMax := top
    seen := (m.seq :: x.seen).filter fun q => decide (top.toNat < q.toNat + 64)
    retA := if net = 0 then some (m.port, m.src) else x.retA
    retB := if net = 1 then some (m.port, m.src) else x.retB
    lastNet := net
    lastMsg := now }

/-- What arrives at the management complex: the drop or the kept reply, or the session's message. -/
inductive Heard where
  | lost (s : State)
  | got (s : State)

/-- A repeated sequence number: the kept REPLY again, or a drop (R343). -/
def State.repeated (s : State) (m : RalowIn) : State :=
  match ((s.sess m.slot.val).kept.find? fun k => k.1 == m.seq) with
  | some k => s.emit (.ralow { k.2 with dest := some (m.port, m.src) })
  | none => s.dropRalow Off.MGT_RALOW_DROP_SEQ m.slot.val

/-- The acceptance of a message by its session (R342, R343). -/
def State.bySession (s : State) (m : RalowIn) : Heard :=
  if !s.authentic m then .lost (s.dropRalow Off.MGT_RALOW_DROP_TAG m.slot.val)
  else if !(s.sess m.slot.val).fresh m.seq then .lost (s.repeated m)
  else .got (s.modSess m.slot.val fun x => x.passed m s.now)

/-- The management and the key memory of a message's slot are read, without which it is not judged (R370, R388). -/
def State.recall (s : State) (m : RalowIn) : Heard :=
  let (a, s) := s.eccRead (.session m.slot.val)
  let (b, s) := s.eccRead (.keys m.slot.val)
  if a && b then s.bySession m else .lost s

/-- The acceptance of a message that has been read without errors (R301, R336). -/
def State.heed (s : State) (m : RalowIn) : Heard :=
  if m.dport.toNat ≠ s.ralowPort then .lost (s.bump pgHst Off.HST_RX_DROP m.port)
  else if !m.sizeOk then .lost (s.dropRalow Off.MGT_RALOW_DROP_FMT m.slot.val)
  else s.recall m

/-- The acceptance of a message. The host lanes are silent in reset and after a power failure; an uncorrectable word of the
ingress buffer drops the message (R14, R304). -/
def State.hear (s : State) (m : RalowIn) : Heard :=
  if !s.awake then .lost s
  else
    match (s.hostPort m.port).rxErr with
    | 0 => s.heed m
    | 1 => ((s.modHost m.port fun x => { x with rxErr := 0 }).countCe pgHst).heed m
    | _ => .lost (s.hostTake m.port id)

/-- A row that a message of a session starts. -/
def onMsg (m : RalowIn) (s : State) (f : State → State) : Out :=
  match s.hear m with
  | .lost t => done t
  | .got t => done (f t)

/-- The REPLY to an accepted request (R339), kept for its repetition (R343). -/
def State.reply (s : State) (m : RalowIn) (status index : Nat) (chit : Word) (data : List Byte) : State :=
  let i := m.slot.val
  let body := leBytes 2 status ++ leBytes 2 index ++ leBytes 4 chit.toNat ++ data
  let (r, s) := s.sendMsg i 0x5 m.seq (some (m.port, m.src)) body
  s.modSess i fun x => { x with kept := ((m.seq, r) :: x.kept).take 64 }

/-- The role of the session of a message: 0 OPERATOR, 1 FABRIC_MANAGER, 2 JOB_CONTROLLER, 3 MONITOR,
4 MAINTENANCE. -/
def State.roleOf (s : State) (m : RalowIn) : Nat := (s.sess m.slot.val).role.val

/-! ### Closing (R344) -/

/-- A session closes; with a reason CLOSE goes to its return addresses. The slot keeps its epoch and its
command counter (R340, R356). -/
def State.closeSession (s : State) (i : Nat) (reason : Option Nat) : State :=
  let x := s.sess i
  let s := match reason with | none => s | some r => s.sendClose i r
  let s := if x.st = .opened ∧ x.role = 4 then s.closeLock else s
  let s := s.modSess i fun y => { epoch := y.epoch, cmds := y.cmds }
  s.raise { pg := pgMgt, ev := 1, unit := i }

/-- CLOSE. -/
def execClose (m : RalowIn) (_body : List Byte) (s : State) : Out := onMsg m s fun s => s.closeSession m.slot.val none

/-- A session has heard nothing for its idle time. -/
def State.sessIdle (s : State) (i : Nat) : Bool :=
  let x := s.sess i
  x.st == .opened && decide (s.now - x.lastMsg ≥ s.rfld pgMgt Off.MGT_SESS_IDLE 0 16 * 1000000000)

/-- SESSION_IDLE_TIMEOUT. -/
def execSessionIdleTimeout (slot : Sess) (s : State) : Out := actIf (s.sessIdle slot.val) s (s.closeSession slot.val (some 1))

/-! ### Completion records (R359, R360) -/

/-- The entries of an ACK body. -/
def ackEntries (body : List Byte) : List (Word × Byte) :=
  (List.range (body.length / 8)).map fun i => (word (leAt body (8 * i) 4), body.getD (8 * i + 4) 0)

/-- ACK: never answered. A body that holds no 1 to 1,024 whole entries acknowledges nothing. -/
def execAck (m : RalowIn) (body : List Byte) (s : State) : Out :=
  onMsg m s fun s =>
    if body.length % 8 = 0 ∧ body.length ≤ 8192 then (ackEntries body).foldl (fun s e => s.ackChit e.1 e.2) s else s

/-- A delivery of a chit goes: its further unit returns. -/
def State.endDelivery (s : State) (x : ChitRec) (d : Delivery) : State :=
  let s := match d.unit with | some u => s.poolGive 3 d.region x.sess u | none => s
  s.modChit x.chit fun y => { y with deliveries := y.deliveries.filter fun e => e.rseq ≠ d.rseq }

/-- A delivery of a chit that is due for a resend, or whose resends have ended. -/
def State.resendDue (s : State) (c : Word) (rseq : Byte) : Option (ChitRec × Delivery) :=
  match s.chit c with
  | none => none
  | some x =>
    match x.deliveries.find? fun d => d.rseq == rseq with
    | none => none
    | some d =>
      if !s.chitSession x ∨ s.now - d.lastSent ≥ s.rfld pgMgt Off.MGT_CPL_RETRY 0 16 * 1000000 then some (x, d) else none

/-- A resend, or the end of the resends after the last (R359, R360). -/
def State.resend (s : State) (x : ChitRec) (d : Delivery) : State :=
  if !s.chitSession x ∨ d.resends ≥ s.rfld pgMgt Off.MGT_CPL_RETRY 16 4 then s.endDelivery x d
  else
    let s := s.sendRecord x d.bytes
    s.modChit x.chit fun y => { y with deliveries := y.deliveries.map fun e =>
      if e.rseq = d.rseq then { e with resends := e.resends + 1, lastSent := s.now } else e }

/-- COMPLETION_RESEND. -/
def execCompletionResend (chit : Word) (rseq : Byte) (s : State) : Out :=
  actWith (s.resendDue chit rseq) s fun x => s.resend x.1 x.2

/-- A final record has been held for its time. -/
def State.holdOver (s : State) (c : Word) : Bool :=
  match s.chit c with
  | some x => x.final && decide (s.now - x.finalAt ≥ s.rfld pgMgt Off.MGT_CPL_HOLD 0 16 * 1000000000)
  | none => false

/-- COMPLETION_HOLD_EXPIRY. -/
def execCompletionHoldExpiry (chit : Word) (s : State) : Out := actIf (s.holdOver chit) s (s.freeChit chit)

/-! ### Dropped and unknown messages (R338, R355) -/

/-- RESERVED_KIND_MESSAGE. -/
def execReservedKindMessage (m : RalowIn) (kind : BitVec 4) (_body : List Byte) (s : State) : Out :=
  if reservedKind kind then
    actIf s.awake s (s.udpTake m.port m.dport fun s => s.dropRalow Off.MGT_RALOW_DROP_FMT m.slot.val)
  else .refused .illFormed

/-! ### Long commands (R353, R355) -/

/-- The module takes no COMMAND but the attestation report: the chip is chip-fatal, closing or shut (R368, R452). -/
def State.turnsAway (s : State) : Bool := s.flt.chipFatal || s.boot.shutState != 0

/-- The answer to a COMMAND before its own checks: a code of R355, or a chit. -/
def State.chitFor (s : State) (m : RalowIn) (n : Nat) (ops : List Word) (roles : List Nat) (argc : Nat) (opsOk : Bool)
    (f : State → Word → State) : State :=
  if !m.reservedOk ∨ n ≠ ops.length ∨ n > 32 then s.reply m 0x0A02 0 0 []
  else if !roles.contains (s.roleOf m) then s.reply m 0x0A01 0 0 []
  else if n ≠ argc ∨ !opsOk then s.reply m 0x0A05 0 0 []
  else
    match s.claimChit m.slot.val (netOf m.port).val m.mirror with
    | none => s.reply m 0x0A04 0 0 []
    | some (chit, s) => f (s.reply m 0 0 chit []) chit

/-- The answer to a COMMAND, which a module that takes none answers with RALOW_FENCED. -/
def State.command (s : State) (m : RalowIn) (n : Nat) (ops : List Word) (roles : List Nat) (argc : Nat) (opsOk : Bool)
    (f : State → Word → State) : State :=
  if s.turnsAway then s.reply m 0x0A07 0 0 [] else s.chitFor m n ops roles argc opsOk f

/-- A row of a COMMAND (R355). -/
def onCommand (m : RalowIn) (n : Nat) (ops : List Word) (roles : List Nat) (argc : Nat) (opsOk : Bool) (s : State)
    (f : State → Word → State) : Out :=
  onMsg m s fun s => s.command m n ops roles argc opsOk f

/-- UNKNOWN_COMMAND: answered with RALOW_UNKNOWN, or with RALOW_FENCED while no command is taken. -/
def execUnknownCommand (m : RalowIn) (code : BitVec 16) (_n : Nat) (_ops : List Word) (s : State) : Out :=
  if knownCommand code then .refused .illFormed
  else onMsg m s fun s => s.reply m (if s.turnsAway then 0x0A07 else 0x0A03) 0 0 []

/-- A row of a COMMAND that needs memory: before every unfenced memory block is ready its chit completes with
MEM_FENCED (R332, R449). -/
def onMemCommand (m : RalowIn) (n : Nat) (ops : List Word) (roles : List Nat) (argc : Nat) (opsOk : Bool) (s : State)
    (f : State → Word → State) : Out :=
  onCommand m n ops roles argc opsOk s fun s chit => if s.memReady then f s chit else s.complete chit 0x0904

/-! ### Memory requests (R350 to R352) -/

/-- The window table entry of an index, where the index exists and the entry is valid. -/
def State.validWin (s : State) (i : Nat) : Option Window :=
  if i < 4096 ∧ (s.winEntry i).valid then some (s.winEntry i) else none

/-- The checks of R351 in order: a status, or the window. Memory that is not ready yet answers as fenced (R449). -/
def State.memCheck (s : State) (i off len : Nat) (write : Bool) : Except Nat Window :=
  match s.validWin i with
  | none => .error 0x0901
  | some w =>
    if !w.holds off len || !(if write then w.hostWrite else w.hostRead) then .error 0x0901
    else if write && s.guardedWrite i off len then .error 0x0902
    else if !s.memReady || s.winFenced w then .error 0x0904
    else .ok w

/-- A MEM_READ or MEM_WRITE body keeps its layout (R350, R351). -/
def memLayout (body : List Byte) (write : Bool) : Bool :=
  let len := leAt body 12 4
  decide (16 ≤ len ∧ len ≤ 8192) && bits (leAt body 0 2) 12 4 == 0 && leAt body 2 2 == 0 && bits (leAt body 4 8) 52 12 == 0 &&
  body.length == (if write then 16 + len else 16)

/-- A channel of window table entry `i` retrains, so that a request to its window waits (R327). -/
def State.memWaits (s : State) (i : Nat) : Bool :=
  match s.validWin i with | some w => s.retrains w | none => false

/-- The answer to a MEM_READ (R352). -/
def State.memReadReply (s : State) (m : RalowIn) (body : List Byte) : State :=
  if s.roleOf m ≠ 2 then s.reply m 0x0A01 0 0 []
  else if !m.reservedOk ∨ !memLayout body false then s.reply m 0x0A02 0 0 []
  else
    let off := bits (leAt body 4 8) 0 52
    match s.memCheck (bits (leAt body 0 2) 0 12) off (leAt body 12 4) false with
    | .error e => s.reply m e 0 0 []
    | .ok w =>
      match s.readRange w off (leAt body 12 4) with
      | (.ok b, s) => s.reply m 0 0 0 b
      | (.ue k b, s) => s.reply m 0x0903 (k / 16) 0 b

/-- The answer to a MEM_WRITE (R352). -/
def State.memWriteReply (s : State) (m : RalowIn) (body : List Byte) : State :=
  if s.roleOf m ≠ 2 then s.reply m 0x0A01 0 0 []
  else if !m.reservedOk ∨ !memLayout body true then s.reply m 0x0A02 0 0 []
  else
    let off := bits (leAt body 4 8) 0 52
    match s.memCheck (bits (leAt body 0 2) 0 12) off (leAt body 12 4) true with
    | .error e => s.reply m e 0 0 []
    | .ok w => (s.writeRange w off (body.drop 16)).reply m 0 0 0 []

/-- MEM_READ. -/
def execMemRead (m : RalowIn) (body : List Byte) (s : State) : Out :=
  if s.memWaits (bits (leAt body 0 2) 0 12) then .next s else onMsg m s fun s => s.memReadReply m body

/-- MEM_WRITE. -/
def execMemWrite (m : RalowIn) (body : List Byte) (s : State) : Out :=
  if s.memWaits (bits (leAt body 0 2) 0 12) then .next s else onMsg m s fun s => s.memWriteReply m body

end Sys2Proof.Machine
end

