-- ==== Sys2Proof/Machine/Tables.lean ====
section
/-!
DEFINITION. The writable bits of the tables behind the RGC windows, and the lock of R20 over their
entries (spec/04_collectives.md R84 to R87, R92; spec/02_number_formats.md R46; spec/05_parameter_service.md
R125; spec/07_program_loader.md R201; spec/11_memory.md R316, R319).
-/

namespace Sys2Proof.Machine

/-- The writable bits of word `w` of an entry of a table. -/
def tableMask : TKind → Nat → Word
  | .group, w => ([0xFFFFFFFF, 0x1FFFF, 0xFFFF] : List Word).getD w 0
  | .member, w => ([0xFFFFFFFF, 0x80000007] : List Word).getD w 0
  | .slice, w => ([0x80FFFFFF, 0xFFFFFFFF, 0x0FFFFFFF, 0x0FFFFFFF, 0xF, 0xFFFFF000, 0xFFFFF] : List Word).getD w 0
  | .window, w => ([0x80007FFF, 0x77FFF, 0x3F, 0xFFFF] : List Word).getD w 0
  | .plan, w =>
    if w = 0 then 0x3FFFF
    else if w = 1 then 0xFFFFFFFF
    else if w < 8 ∨ w ≥ 136 then 0
    else ([0xFFFFFF, 0x1FFFFFF, 0x1FFFF, 0xFFF, 0xFFFFFF, 0xFFFFFF, 0x1FFF] : List Word).getD ((w - 8) % 8) 0
  | .job, w =>
    if w ≥ 160 then 0
    else if w ≥ 32 then ([0x7F, 0xFFFFFFFF, 0xFFFFFFFF, 0xFFFFFFFF, 0xFFFFFFFF] : List Word).getD ((w - 32) % 8) 0
    else if w ≥ 27 then 0
    else if w ≥ 19 then 0x8FFF8FFF
    else
      ([0xFFFF, 0, 0xF, 0xFFF, 0x1FFFFFF, 0xFFFFFFFF, 0xFFFFFFFF, 0xFFFFFFFF, 0x3F, 0xFFFFFFFF, 0, 0x00FFFF00, 0x7FFFFF,
        0xFFFF, 0xFFFFFFFF, 0xFFFFFFFF, 0xFFFFF] : List Word).getD w 0

/-- Entries of a table. -/
def TKind.entries : TKind → Nat
  | .job | .plan => 1024
  | .member => 262144
  | _ => 4096

/-- The table with the writable bits of a word taken from `v`. -/
def State.writeTbl (s : State) (k : TKind) (i w : Nat) (v : Word) : State :=
  let m := tableMask k w
  s.setTbl k i w ((s.tbl k i w &&& ~~~m) ||| (v &&& m))

/-- Entry `i` of a table is bound to the job of identifier `id`: by its owner field as it stands, a member
by a group of the job that covers it (R84, R85, R125, R316). -/
def State.binds (s : State) (id : Nat) (k : TKind) (i : Nat) : Bool :=
  match k with
  | .group => fld (s.tbl .group i 2) 0 16 == id
  | .member => (s.groupsOf id).any fun g => decide (g.base ≤ i ∧ i < g.base + g.size)
  | .slice => (s.sliceAt i).owner == id
  | .window => (s.winEntry i).owner == id
  | .job | .plan => false

/-- The slots of ARMED and RUNNING jobs that hold entry `i` of a table locked (R92). -/
def State.lockers (s : State) (k : TKind) (i : Nat) : List Nat :=
  match k with
  | .job | .plan => if (s.job i).st.locked then [i] else []
  | _ => (s.slotsIn JobState.locked).filter fun j =>
      match (s.job j).cfg with | some c => s.binds c.id k i | none => false

end Sys2Proof.Machine
end

