-- ==== Sys2Proof/Machine/Commands.lean ====
section
/-!
DEFINITION. The long commands of jobs, tables, memory and links (spec/12_control_plane.md R353 to R355):
job arm and retire (spec/04_collectives.md R90 to R93), group load (R354), memory fill and copy
(spec/11_memory.md R323), checkpoint (spec/05_parameter_service.md R142), link retrain
(spec/10_links.md R296) and table swap (spec/08_switch_core.md R238).
-/

namespace Sys2Proof.Machine

/-! ### Jobs -/

/-- The job arm command after its acceptance (R90, R91). -/
def State.armCommand (s : State) (chit : Word) (ops : List Word) : State :=
  let slot := opw ops 0
  let c := s.jobCfg slot
  let check := s.armCheck slot c
  let s := s.readsIdentity slot c
  match check with
  | some code => s.complete chit code
  | none => (s.armJob slot chit (ops.getD 1 0) (ops.getD 2 0) c).record chit 0 false []

/-- JOB_ARM. -/
def execJobArm (m : RalowIn) (n : Nat) (ops : List Word) (s : State) : Out :=
  onMemCommand m n ops [2] 3 (opw ops 0 ≤ 1023) s fun s chit => s.armCommand chit ops

/-- Entry to DRAINING by a retire command (R93): `mode` 0 finish, 1 abort, which stops the program sets at once
(R205). -/
def State.retireLive (s : State) (slot mode : Nat) (c : JobCfg) : State :=
  if mode = 0 then s.modJob slot fun j => { j with st := .draining, startDue := false, openPending := none }
  else (s.abortJob slot c).failSets slot

/-- The job retire command after its acceptance (R90, R93). -/
def State.retireCommand (s : State) (chit : Word) (slot mode : Nat) : State :=
  match (s.job slot).st, (s.job slot).cfg with
  | .defined, _ => ((s.releaseSets slot).modJob slot fun j => { j with st := .retired }).complete chit 0x0003
  | .armed, some c | .running, some c => (s.modJob slot fun j => { j with retireChit := some chit }).retireLive slot mode c
  | _, _ => s.complete chit 0x0101

/-- JOB_RETIRE. -/
def execJobRetire (m : RalowIn) (n : Nat) (ops : List Word) (s : State) : Out :=
  onCommand m n ops [2, 0] 2 (opw ops 0 ≤ 1023 && opw ops 1 ≤ 1) s fun s chit => s.retireCommand chit (opw ops 0) (opw ops 1)

/-! ### Group load (R354) -/

/-- The operands of a group load. -/
structure GroupLoad where
  win : Nat
  off : Nat
  g : Nat
  ng : Nat
  m : Nat
  nm : Nat

/-- The operands in their order (R353). -/
def GroupLoad.of (ops : List Word) : GroupLoad :=
  { win := opw ops 0, off := opd ops 1, g := opw ops 3, ng := opw ops 4, m := opw ops 5, nm := opw ops 6 }

/-- Bytes of the image. -/
def GroupLoad.bytes (x : GroupLoad) : Nat := 16 * x.ng + 8 * x.nm

/-- A target lies under the lock of R20: a group that an ARMED or RUNNING job bound or owns, or a member entry that such a
group covers. -/
def State.groupLoadLocked (s : State) (x : GroupLoad) : Bool :=
  (s.slotsIn JobState.locked).any fun j =>
    match (s.job j).cfg with
    | some c =>
      (c.groups.any fun y => meets x.g x.ng y.index 1 || meets x.m x.nm y.base y.size) ||
      ((List.range x.ng).any fun i => s.binds c.id .group (x.g + i)) ||
      (s.groupsOf c.id).any fun y => meets x.m x.nm y.base y.size
    | none => false

/-- The image is written into the tables. -/
def State.groupLoadWrite (s : State) (x : GroupLoad) (img : List Byte) : State :=
  let ws := leWords img
  let s := (List.range x.ng).foldl (fun s i =>
    (List.range 4).foldl (fun s w => s.writeTbl .group (x.g + i) w (ws.getD (4 * i + w) 0)) s) s
  (List.range x.nm).foldl (fun s i =>
    (List.range 2).foldl (fun s w => s.writeTbl .member (x.m + i) w (ws.getD (4 * x.ng + 2 * i + w) 0)) s) s

/-- The group load command after its acceptance. The image is read in whole words. -/
def State.groupLoadCommand (s : State) (chit : Word) (x : GroupLoad) : State :=
  if s.groupLoadLocked x then s.complete chit 0x0101
  else
    match s.validWin x.win with
    | none => s.complete chit 0x010B
    | some w =>
      if x.off % 16 ≠ 0 ∨ x.off + x.bytes > w.bytes ∨ !w.hostRead then s.complete chit 0x010B
      else if x.g + x.ng > 4096 ∨ x.m + x.nm > 262144 then s.complete chit 0x0104
      else if s.winFenced w then s.complete chit 0x0904
      else
        match s.readBytes w x.off x.bytes with
        | (.ue _ _, s) => s.complete chit 0x0903
        | (.ok b, s) => (s.groupLoadWrite x b).complete chit 0 [word x.ng, word x.nm]

/-- GROUP_LOAD. -/
def execGroupLoad (m : RalowIn) (n : Nat) (ops : List Word) (s : State) : Out :=
  if s.memWaits (GroupLoad.of ops).win then .next s
  else onMemCommand m n ops [2] 7 true s fun s chit => s.groupLoadCommand chit (GroupLoad.of ops)

/-! ### Memory fill and copy (R323) -/

/-- `n` copies of a block of bytes. -/
def replBytes : Nat → List Byte → List Byte
  | 0, _ => []
  | n + 1, b => b ++ replBytes n b

/-- The memory fill command after its acceptance. -/
def State.fillCommand (s : State) (chit : Word) (win off len pattern : Nat) : State :=
  match s.memCheck win off len true with
  | .error e => s.complete chit e
  | .ok w => (s.writeRange w off (replBytes (len / 8) (leBytes 8 pattern))).complete chit 0 [word len]

/-- MEMORY_FILL. -/
def execMemoryFill (m : RalowIn) (n : Nat) (ops : List Word) (s : State) : Out :=
  if s.memWaits (opw ops 0) then .next s
  else onMemCommand m n ops [2] 7 true s fun s chit => s.fillCommand chit (opw ops 0) (opd ops 1) (opd ops 3) (opd ops 5)

/-- The memory copy command after its acceptance: the words below an uncorrectable source word are written. -/
def State.copyCommand (s : State) (chit : Word) (src soff dst doff len : Nat) : State :=
  match s.memCheck src soff len false with
  | .error x =>
    match s.memCheck dst doff len true with
    | .error y => s.complete chit (min x y)
    | .ok _ => s.complete chit x
  | .ok a =>
    match s.memCheck dst doff len true with
    | .error y => s.complete chit y
    | .ok b =>
      match s.readRange a soff len with
      | (.ok d, s) => (s.writeRange b doff d).complete chit 0 [word len]
      | (.ue k d, s) => (s.writeRange b doff d).complete chit 0x0903 [word k]

/-- MEMORY_COPY. -/
def execMemoryCopy (m : RalowIn) (n : Nat) (ops : List Word) (s : State) : Out :=
  if s.memWaits (opw ops 0) ∨ s.memWaits (opw ops 3) then .next s
  else onMemCommand m n ops [2] 8 true s fun s chit =>
    s.copyCommand chit (opw ops 0) (opd ops 1) (opw ops 3) (opd ops 4) (opd ops 6)

/-- MEMORY_CHECKPOINT. -/
def execMemoryCheckpoint (m : RalowIn) (n : Nat) (ops : List Word) (s : State) : Out :=
  onMemCommand m n ops [2] 7 (opw ops 0 ≤ 1023) s fun s chit =>
    s.ckptStart chit (opw ops 0) (opw ops 1) (opw ops 2) (opw ops 3) (opw ops 4) (opd ops 5)

/-! ### Link retrain (R296) and table swap (R238) -/

/-- The link retrain command after its acceptance: LINK_DISABLED, LINK_BUSY, or the port goes down as R295 states and bring-up
starts from CAP, or with `mode` 1 from STEP3. A port in FAILED stays there (R297). -/
def State.retrainCommand (s : State) (chit : Word) (p mode : Nat) : State :=
  if p ≥ 512 ∨ !s.portEnabled p ∨ s.isFenced (portRegion p) then s.complete chit 0x0802
  else if (s.port p).retrain.isSome then s.complete chit 0x0803
  else if (s.port p).st = .failed then s.complete chit 0x0801 [s.portStateWord p]
  else
    let s := if (s.port p).st = .up then s.leaveUp p else s.portDown p .disabled
    let s := s.modPort p fun x => { x with attempts := 0, retrain := some chit, retryAt := none }
    s.startBringup p (decide (mode = 1))

/-- LINK_RETRAIN. -/
def execLinkRetrain (m : RalowIn) (n : Nat) (ops : List Word) (s : State) : Out :=
  onCommand m n ops [1] 2 (opw ops 1 ≤ 1) s fun s chit => ((s.retrainCommand chit (opw ops 0) (opw ops 1)).leaveSource).watchFlow

/-- TABLE_SWAP. -/
def execTableSwap (m : RalowIn) (n : Nat) (ops : List Word) (s : State) : Out :=
  onCommand m n ops [1] 3 (opw ops 2 ≤ 1) s fun s chit => s.tableSwapCmd chit (opw ops 0) (opw ops 1) (opw ops 2)

end Sys2Proof.Machine
end

