-- ==== Sys2Proof/Machine/Isa.lean ====
section
/-!
DEFINITION. The Ivinduno instruction words (spec/06_engine_isa.md R164, R165): opcodes, the fields
that each uses, reserved values, the resources that a word names, and the scalar functions (R166, R167).
-/

namespace Sys2Proof.Machine

/-- The opcodes of R164. -/
inductive Opc where
  | nop | halt | jmp | br | loop | set | clear | wait | fence | mode
  | alu | alui | lidx | qrd | qpop | qclose | sld | sst16
  | agbase | agdim | ld | st
  | vop | vops | vred | vunpk | vcvt
  | mma | mmat | release | zacc | accld
  deriving DecidableEq, Repr

/-- The opcode with a code, none where R164 has none. -/
def Opc.ofCode : Nat → Option Opc
  | 0x00 => some .nop | 0x01 => some .halt | 0x02 => some .jmp | 0x03 => some .br | 0x04 => some .loop
  | 0x05 => some .set | 0x06 => some .clear | 0x07 => some .wait | 0x08 => some .fence | 0x09 => some .mode
  | 0x10 => some .alu | 0x11 => some .alui | 0x12 => some .lidx | 0x13 => some .qrd | 0x14 => some .qpop
  | 0x15 => some .qclose | 0x16 => some .sld | 0x17 => some .sst16
  | 0x20 => some .agbase | 0x21 => some .agdim | 0x22 => some .ld | 0x23 => some .st
  | 0x28 => some .vop | 0x29 => some .vops | 0x2A => some .vred | 0x2B => some .vunpk | 0x2C => some .vcvt
  | 0x38 => some .mma | 0x39 => some .mmat | 0x3A => some .release | 0x3B => some .zacc | 0x3C => some .accld
  | _ => none

/-- Bits [lo + n - 1 : lo] of an instruction word. -/
def iw (w : DWord) (lo n : Nat) : Nat := bits w.toNat lo n

/-- Bit `i` of an instruction word. -/
def ib (w : DWord) (i : Nat) : Bool := w.toNat.testBit i

/-- The opcode of a word. -/
def opcOf (w : DWord) : Option Opc := Opc.ofCode (iw w 58 6)

/-- The fields that an opcode uses, as lowest bit and width (R165). A non-block-scaled MMA uses no Qs, an LD or ST with
`s` set no n. -/
def Opc.fields (w : DWord) : Opc → List (Nat × Nat)
  | .nop | .halt | .fence => []
  | .jmp => [(0, 15)]
  | .br => [(48, 4), (47, 1), (42, 5), (37, 5), (17, 16), (0, 15)]
  | .loop => [(42, 5), (0, 15)]
  | .set | .clear => [(52, 6)]
  | .wait => [(52, 6), (36, 1)]
  | .mode => [(35, 1)]
  | .alu => [(53, 5), (48, 5), (43, 5), (38, 5)]
  | .alui => [(53, 5), (48, 5), (38, 5), (0, 32)]
  | .lidx => [(53, 5), (32, 2)]
  | .qrd => [(53, 5), (34, 4), (0, 7)]
  | .qpop | .qclose => [(34, 4)]
  | .sld => [(53, 5), (35, 3)]
  | .sst16 => [(48, 5), (43, 5), (35, 3)]
  | .agbase => [(55, 3), (48, 5), (38, 5), (35, 3), (0, 32)]
  | .agdim => [(55, 3), (53, 2), (33, 20), (0, 32)]
  | .ld | .st => [(55, 3), (44, 4), (43, 1), (38, 5)] ++ (if ib w 43 then [] else [(0, 20)])
  | .vop => [(54, 4), (50, 4), (46, 4), (42, 4), (38, 4), (37, 1), (34, 3), (29, 5)]
  | .vops => [(54, 4), (50, 4), (42, 4), (38, 4), (37, 1), (34, 3), (29, 5), (24, 5)]
  | .vred => [(54, 4), (50, 4), (34, 3)]
  | .vunpk => [(54, 4), (50, 4), (34, 3), (15, 4)]
  | .vcvt => [(54, 4), (50, 4), (38, 4), (37, 1), (34, 3), (24, 5), (19, 5), (15, 4), (14, 1), (13, 1)]
  | .mma => [(55, 3), (53, 2), (49, 4), (45, 4), (37, 4), (36, 1), (35, 1), (0, 16)] ++ (if blockScaled (iw w 37 4) then [(41, 4)] else [])
  | .mmat => [(55, 3), (53, 2), (49, 4), (45, 4), (37, 4), (36, 1), (35, 1), (34, 1), (33, 1), (0, 16)] ++
      (if blockScaled (iw w 37 4) then [(41, 4)] else [])
  | .release => [(55, 3), (53, 2), (49, 4), (37, 4), (36, 1), (32, 1), (24, 5), (19, 5)]
  | .zacc => [(55, 3), (53, 2), (36, 1)]
  | .accld => [(55, 3), (53, 2), (49, 4), (36, 1)]

/-- Every bit outside the opcode and the used fields is 0 (R164, R165). -/
def Opc.reservedOk (o : Opc) (w : DWord) : Bool :=
  (o.fields w).foldl (fun x f => x - (bits x f.1 f.2) <<< f.1) (w.toNat % 2 ^ 58) == 0

/-- No field holds a reserved value (R164, R174, R175, R181). -/
def Opc.valuesOk (o : Opc) (w : DWord) : Bool :=
  match o with
  | .br => iw w 48 4 ≤ 5
  | .alu | .alui => iw w 38 5 ≤ 0x11
  | .agbase => iw w 48 5 ≤ 0x10 && iw w 35 3 ≤ 6
  | .vop | .vops => iw w 29 5 ≤ 0x0E
  | .vunpk => iw w 15 4 ≤ 0xC
  | .vcvt => 2 ≤ iw w 15 4
  | .mma | .mmat => iw w 37 4 ≤ 0xC && iw w 37 4 != 8
  | .release => iw w 37 4 != 1
  | _ => true

/-- A word decodes by R164 and R165. -/
def decodes (w : DWord) : Bool :=
  match opcOf w with
  | some o => o.reservedOk w && o.valuesOk w
  | none => false

/-! ### Resources (R153) -/

/-- Whether a vector function reads b, and c (R171). -/
def vecReads (fn : Nat) : Bool × Bool :=
  if fn = 0 ∨ fn = 7 ∨ fn = 0xA ∨ fn = 0xB then (false, false)
  else if fn = 4 ∨ fn = 5 ∨ fn = 0xE then (true, true)
  else (true, false)

/-- What an instruction names: queues it pushes and takes from, generators, scalar registers,
accumulators (4 × cell + acc), flags. -/
structure Uses where
  prod : List Nat := []
  cons : List Nat := []
  ags : List Nat := []
  sregs : List Nat := []
  accs : List Nat := []
  flags : List Nat := []
  deriving DecidableEq, Repr

/-- A number in a list where a condition holds. -/
def listIf (c : Bool) (x : Nat) : List Nat := if c then [x] else []

/-- The function of an ALU word uses Sa: every one but MOV. -/
def aluReadsA (w : DWord) : Bool := iw w 38 5 != 0x10

/-- The accumulator of an M word. -/
def iwAcc (w : DWord) : Nat := 4 * iw w 55 3 + iw w 53 2

/-- The resources that a word names: the operands that its function uses (R153, R165). -/
def Opc.uses (o : Opc) (w : DWord) : Uses :=
  match o with
  | .nop | .halt | .fence | .jmp | .mode => {}
  | .br => { sregs := iw w 42 5 :: listIf (!ib w 47) (iw w 37 5) }
  | .loop => { sregs := [iw w 42 5] }
  | .set | .clear | .wait => { flags := [iw w 52 6] }
  | .alu => { sregs := [iw w 53 5, iw w 43 5] ++ listIf (aluReadsA w) (iw w 48 5) }
  | .alui => { sregs := iw w 53 5 :: listIf (aluReadsA w) (iw w 48 5) }
  | .lidx => { sregs := [iw w 53 5] }
  | .qrd => { sregs := [iw w 53 5], cons := [iw w 34 4] }
  | .qpop => { cons := [iw w 34 4] }
  | .qclose => { prod := [iw w 34 4] }
  | .sld => { sregs := [iw w 53 5], ags := [iw w 35 3] }
  | .sst16 => { sregs := [iw w 48 5, iw w 43 5], ags := [iw w 35 3] }
  | .agbase => { ags := [iw w 55 3], sregs := [iw w 38 5] }
  | .agdim => { ags := [iw w 55 3] }
  | .ld => { ags := [iw w 55 3], prod := [iw w 44 4], sregs := listIf (ib w 43) (iw w 38 5) }
  | .st => { ags := [iw w 55 3], cons := [iw w 44 4], sregs := listIf (ib w 43) (iw w 38 5) }
  | .vop =>
    let (b, c) := vecReads (iw w 29 5)
    { prod := iw w 54 4 :: listIf (ib w 37) (iw w 38 4), cons := iw w 50 4 :: (listIf b (iw w 46 4) ++ listIf c (iw w 42 4)) }
  | .vops =>
    let (b, c) := vecReads (iw w 29 5)
    { prod := iw w 54 4 :: listIf (ib w 37) (iw w 38 4), cons := iw w 50 4 :: listIf c (iw w 42 4), sregs := listIf b (iw w 24 5) }
  | .vred | .vunpk => { prod := [iw w 54 4], cons := [iw w 50 4] }
  | .vcvt => { prod := iw w 54 4 :: listIf (ib w 37) (iw w 38 4), cons := [iw w 50 4], sregs := [iw w 24 5, iw w 19 5] }
  | .mma | .mmat => { accs := [iwAcc w], cons := [iw w 49 4, iw w 45 4] ++ listIf (blockScaled (iw w 37 4)) (iw w 41 4) }
  | .release => { accs := [iwAcc w], prod := [iw w 49 4], sregs := [iw w 24 5, iw w 19 5] }
  | .zacc => { accs := [iwAcc w] }
  | .accld => { accs := [iwAcc w], cons := [iw w 49 4] }

/-- Every resource named is declared for the stream, and flags for the set (R153). -/
def Uses.within (u : Uses) (t : Placed) (flags : Nat) : Bool :=
  u.prod.all (t.qProd.testBit ·) && u.cons.all (t.qCons.testBit ·) && u.ags.all (t.ags.testBit ·) &&
  (u.sregs.all fun r => r == 0 || t.sregs.testBit r) && u.accs.all (t.accs.testBit ·) && u.flags.all (flags.testBit ·)

/-- A word is legal for a stream of a set (R153, R164). -/
def legal (w : DWord) (t : Placed) (flags : Nat) : Bool :=
  decodes w && (match opcOf w with | some o => (o.uses w).within t flags | none => false)

/-! ### Scalar functions (R166, R167) -/

/-- An integer as a 64-bit scalar. -/
def sx64 (n x : Nat) : DWord := BitVec.ofInt 64 (sext n x)

/-- A truth value as a scalar. -/
def ofBool64 (b : Bool) : DWord := if b then 1 else 0

/-- The ALU functions (R166). -/
def aluFn (fn : Nat) (a b : DWord) : DWord :=
  let k := bits b.toNat 0 6
  match fn with
  | 0x00 => a + b
  | 0x01 => a - b
  | 0x02 => a &&& b
  | 0x03 => a ||| b
  | 0x04 => a ^^^ b
  | 0x05 => a <<< k
  | 0x06 => a >>> k
  | 0x07 => a.sshiftRight k
  | 0x08 => a * b
  | 0x09 => if a.slt b then a else b
  | 0x0A => if a.slt b then b else a
  | 0x0B => if a.ult b then a else b
  | 0x0C => if a.ult b then b else a
  | 0x0D => ofBool64 (a == b)
  | 0x0E => ofBool64 (a.slt b)
  | 0x0F => ofBool64 (a.ult b)
  | 0x10 => b
  | _ => (a &&& 0xFFFFFFFF#64) ||| (b <<< 32)

/-- The branch conditions (R167). -/
def brCond (cond : Nat) (a b : DWord) : Bool :=
  match cond with
  | 0 => a == b
  | 1 => a != b
  | 2 => a.slt b
  | 3 => !a.slt b
  | 4 => a.ult b
  | _ => !a.ult b

end Sys2Proof.Machine
end

