-- ==== Sys2Proof/Machine/Engine.lean ====
section
/-!
DEFINITION. The instruction streams: issue, waits and exceptions (spec/06_engine_isa.md R152 to R159,
R184), the scalar and control instructions (R166 to R170), and the wait timeout and stop of program sets
(spec/07_program_loader.md R204, R205).
-/

namespace Sys2Proof.Machine

/-! ### Streams at work -/

/-- A stream that can issue: block, stream, job slot and configuration, set and placement, the stream, and
the word at its program counter. -/
structure Thread where
  b : Nat
  i : Nat
  slot : Nat
  cfg : JobCfg
  set : ProgSet
  place : Placed
  st : Stream
  w : DWord

/-- The word at an index of a code section. -/
def CpbSt.code (c : CpbSt) (t : Placed) (k : Nat) : DWord := c.store.look 0 (t.base + k)

/-- A placed stream with its job's configuration as armed. -/
def State.placedOn (s : State) (b i : Nat) : Option (ProgSet × Placed × JobCfg) :=
  match (s.cpb b).placed i with
  | none => none
  | some (p, t) => (s.job p.slot).cfg.map fun c => (p, t, c)

/-- Stream `i` of block `b`, where it runs or waits. -/
def State.thread (s : State) (b i : Nat) : Option Thread :=
  let x := (s.cpb b).stream i
  if s.isFenced (b / 8) ∨ (x.st ≠ .running ∧ x.st ≠ .waiting) then none
  else
    match s.placedOn b i with
    | none => none
    | some (p, t, c) =>
      some { b := b, i := i, slot := p.slot, cfg := c, set := p, place := t, st := x, w := (s.cpb b).code t x.pc }

/-- A scalar register; S0 reads 0 (R151). -/
def CpbSt.sreg (c : CpbSt) (r : Nat) : DWord := if r = 0 then 0 else c.sregs.look 0 r

/-- A scalar register written; S0 ignores writes (R151). -/
def CpbSt.setSreg (c : CpbSt) (r : Nat) (v : DWord) : CpbSt := if r = 0 then c else { c with sregs := c.sregs.put 0 r v }

/-- A stream of a block changed by `f`. -/
def State.modStream (s : State) (b i : Nat) (f : Stream → Stream) : State := s.modCpb b fun c => c.modStream i f

/-! ### Loops and the program counter (R168) -/

/-- The loops and the program counter after index `k` has run in sequence. -/
def loopNext : List LoopFrame → Nat → List LoopFrame × Nat
  | [], k => ([], k + 1)
  | l :: t, k =>
    if l.last ≠ k then (l :: t, k + 1)
    else if l.iter + 1 < l.count then ({ l with iter := l.iter + 1 } :: t, l.start)
    else loopNext t k

/-- The stream goes on after index `k`. -/
def Stream.after (k : Nat) (x : Stream) : Stream :=
  { x with loops := (loopNext x.loops k).1, pc := (loopNext x.loops k).2 }

/-- The stream goes on after the instruction it has issued. -/
def Stream.next (x : Stream) : Stream := Stream.after x.pc x

/-- The stream goes on at another index. -/
def Stream.jump (k : Nat) (x : Stream) : Stream := { x with pc := k }

/-- Index `k` lies in the body of some LOOP of a code section (R167). -/
def CpbSt.inLoop (c : CpbSt) (t : Placed) (k : Nat) : Bool :=
  (List.range (min k t.len)).any fun j =>
    opcOf (c.code t j) == some .loop && decide (k ≤ iw (c.code t j) 0 15)

/-- A target of JMP or BR lies in scope (R167). -/
def State.inScope (s : State) (t : Thread) (k : Nat) : Bool :=
  decide (k < t.place.len) &&
    (match t.st.loops with
     | l :: _ => decide (l.start ≤ k ∧ k ≤ l.last)
     | [] => !(s.cpb t.b).inLoop t.place k)

/-! ### Exceptions (R184, R185) -/

/-- Where an exception was raised: the address and space of codes 0x04 to 0x06 and 0x08. -/
structure ExcAt where
  addr : Nat := 0
  space : Nat := 0
  access : Nat := 8
  deriving DecidableEq, Repr

/-- A stream raises an exception: the set's first is captured, the stream is faulted, and the event fails the
job, which stops every stream of the job on every block (R184, R185). -/
def State.trap (s : State) (b i pc code : Nat) (at_ : ExcAt := {}) : State :=
  match (s.cpb b).placed i with
  | none => s
  | some (p, _) =>
    let x : ExcCap := { code := code, stream := i, pc := pc, addr := at_.addr % 2 ^ 52, space := at_.space }
    let s := s.modCpb b fun c =>
      (c.modStream i fun y => { y with st := .faulted, cause := 0 }).modSet p.slot fun q =>
        { q with exc := match q.exc with | some e => some e | none => some x }
    let job := if code = 0x0A then 0x0307 else 0x0306
    s.raise
      { pg := pgCpb b, ev := if code = 0x0A then 1 else 0, unit := i, access := at_.access,
        akind := if at_.access = 8 then 7 else if at_.space = 0x10 then 4 else 2,
        addr := if at_.access = 8 then pc else at_.addr % 2 ^ 52, job := some p.slot, act := [.failJob p.slot job] }

/-! ### Order of a queue's bytes (R159) -/

/-- The long instructions of a block that are handed over and not complete: number, queues they take from,
queues they push. -/
def CpbSt.pendingOps (c : CpbSt) : List (Nat × List Nat × List Nat) :=
  let unit (u : UnitOp) : Nat × List Nat × List Nat :=
    match opcOf u.word with
    | some o => (u.id, (o.uses u.word).cons, (o.uses u.word).prod)
    | none => (u.id, [], [])
  (c.streams.flatMap fun kv => kv.2.vec.map unit) ++ (c.accs.flatMap fun kv => kv.2.buffer.map unit) ++
  c.ags.filterMap fun kv => kv.2.cur.map fun t => if t.isLoad then (t.id, [], [t.queue]) else (t.id, [t.queue], [])

/-- No long instruction issued before number `id` has still to take from a queue of `cons`, or to push into
one of `prod`. -/
def CpbSt.inOrder (c : CpbSt) (id : Nat) (cons prod : List Nat) : Bool :=
  c.pendingOps.all fun (k, cs, ps) =>
    decide (id ≤ k) || (!(cs.any fun q => cons.contains q) && !(ps.any fun q => prod.contains q))

/-- Popped entries of a queue reach the feed hardware where the queue is a feed queue (R130, R159). -/
def State.popped (s : State) (b q : Nat) (es : List (List Byte)) : State := es.foldl (fun s e => s.feedPop b q e) s

/-! ### Issue (R152) -/

/-- What issuing an instruction comes to: the stream waits for a cause of `CPB_STR_WAIT`, raises an
exception, or the instruction has its effect and the stream goes on. -/
inductive Issued where
  | wait (cause : Nat)
  | trap (code : Nat) (at_ : ExcAt)
  | go (s : State) (f : Stream → Stream)

/-- The stream takes what the issue of its instruction came to (R152, R184, R204). -/
def State.issued (s : State) (t : Thread) : Issued → State
  | .wait c => s.modStream t.b t.i fun x => { x with st := .waiting, cause := c }
  | .trap code at_ => s.trap t.b t.i t.st.pc code at_
  | .go u f => u.modStream t.b t.i fun x =>
      { f x with st := if (f x).st = .waiting then .running else (f x).st, cause := 0, waitMarks := 0, issuedMark := u.orb.marks }

/-- Symbols in error of the instruction word of a thread. -/
def State.fetchErr (s : State) (t : Thread) : Nat := (s.cpb t.b).storeErr.look 0 (t.place.base + t.st.pc)

/-- What the fetch of a thread's word comes to, where it comes to `u` without errors: a corrected word is counted and
stands corrected; an uncorrectable one raises `store_ue` in place of all else (R14, R185). -/
def State.fetching (s : State) (t : Thread) (u : State) : State :=
  match s.fetchErr t with
  | 0 => u
  | 1 => (u.countCe (pgCpb t.b)).modCpb t.b fun c => { c with storeErr := c.storeErr.put 0 (t.place.base + t.st.pc) 0 }
  | _ => s.storeUe t.b t.slot t.i 7 t.st.pc

/-- Stream `i` of block `b` issues its next instruction where that is one of opcode `o`: ILLEGAL where R153
or R164 excludes it, else what `f` gives. -/
def issue (b : Cpb) (i : StreamIx) (o : Opc) (s : State) (f : Thread → Issued) : Out :=
  match s.thread b.val i.val with
  | none => .next s
  | some t =>
    if opcOf t.w = some o then
      done (s.fetching t (s.issued t (if legal t.w t.place t.set.flags then f t else .trap 1 {})))
    else .next s

/-- The block of a thread changed by `f`, and the stream goes on. -/
def goCpb (s : State) (t : Thread) (f : CpbSt → CpbSt) : Issued := .go (s.modCpb t.b f) Stream.next

/-! ### Control (R166 to R170) -/

/-- NOP. A word whose opcode R164 does not have raises ILLEGAL when it is issued. -/
def execNop (cpb : Cpb) (stream : StreamIx) (s : State) : Out :=
  match s.thread cpb.val stream.val with
  | none => .next s
  | some t =>
    match opcOf t.w with
    | none => done (s.fetching t (s.trap t.b t.i t.st.pc 1))
    | some _ => issue cpb stream .nop s fun _ => .go s Stream.next

/-- Every stream of a set has halted. -/
def CpbSt.allHalted (c : CpbSt) (p : ProgSet) : Bool := p.streams.all fun t => (c.stream t.stream).st == .halted

/-- HALT: the last stream of a set to halt stops the set (R205). -/
def State.haltStream (s : State) (t : Thread) : State :=
  let s := s.modStream t.b t.i fun x => { x with st := .halted }
  if (s.cpb t.b).allHalted t.set then s.stopSet t.b t.slot 0x0610 false else s

/-- HALT. -/
def execHalt (cpb : Cpb) (stream : StreamIx) (s : State) : Out :=
  issue cpb stream .halt s fun t => .go (s.haltStream t) fun x => { x with st := .halted }

/-- A jump within the scope of R167, or BRANCH_SCOPE. -/
def State.jumpTo (s : State) (t : Thread) (k : Nat) : Issued :=
  if s.inScope t k then .go s (Stream.jump k) else .trap 3 {}

/-- JMP. -/
def execJmp (cpb : Cpb) (stream : StreamIx) (s : State) : Out :=
  issue cpb stream .jmp s fun t => s.jumpTo t (iw t.w 0 15)

/-- The second operand of BR. -/
def brOperand (c : CpbSt) (w : DWord) : DWord := if ib w 47 then sx64 16 (iw w 17 16) else c.sreg (iw w 37 5)

/-- BR. -/
def execBr (cpb : Cpb) (stream : StreamIx) (s : State) : Out :=
  issue cpb stream .br s fun t =>
    let c := s.cpb t.b
    if brCond (iw t.w 48 4) (c.sreg (iw t.w 42 5)) (brOperand c t.w) then s.jumpTo t (iw t.w 0 15) else .go s Stream.next

/-- LOOP (R168): the body is skipped for a count of 0; a fifth active loop raises LOOP_DEPTH. -/
def loopIssue (s : State) (t : Thread) : Issued :=
  let last := iw t.w 0 15
  let count := bits ((s.cpb t.b).sreg (iw t.w 42 5)).toNat 0 32
  if last ≤ t.st.pc then .trap 1 {}
  else if count = 0 then .go s (Stream.after last)
  else if t.st.loops.length ≥ 4 then .trap 2 {}
  else .go s fun x =>
    { x with loops := { start := x.pc + 1, last := last, count := count, iter := 0 } :: x.loops, pc := x.pc + 1 }

/-- LOOP. -/
def execLoop (cpb : Cpb) (stream : StreamIx) (s : State) : Out := issue cpb stream .loop s (loopIssue s)

/-- A flag of a block. -/
def CpbSt.flag (c : CpbSt) (f : Nat) : Bool := c.flags.getLsbD f

/-- A flag of a block written. -/
def CpbSt.setFlag (c : CpbSt) (f : Nat) (v : Bool) : CpbSt :=
  { c with flags := if v then c.flags ||| (1#64 <<< f) else c.flags &&& ~~~(1#64 <<< f) }

/-- Stream `i` waits at a WAIT for flag `f`: whether it clears the flag when it wakes. -/
def CpbSt.waitsOn (c : CpbSt) (f i : Nat) : Option Bool :=
  let x := c.stream i
  match c.placed i with
  | none => none
  | some (_, t) =>
    let w := c.code t x.pc
    if x.st = .waiting ∧ x.cause = 3 ∧ opcOf w = some .wait ∧ iw w 52 6 = f then some (ib w 36) else none

/-- A stream that waits for a flag wakes. -/
def Stream.wake (marks : Nat) (x : Stream) : Stream :=
  { Stream.next x with st := .running, cause := 0, waitMarks := 0, issuedMark := marks }

/-- A flag is set: every stream that waits for it without clearing it wakes, and of those that clear it the
one of lowest number, which clears it (R169). -/
def CpbSt.raiseFlag (c : CpbSt) (f marks : Nat) : CpbSt :=
  let c := c.setFlag f true
  let keepers := (List.range 4).filter fun i => c.waitsOn f i == some false
  let taker := leastBelow 4 fun i => c.waitsOn f i == some true
  let c := keepers.foldl (fun c i => c.modStream i (Stream.wake marks)) c
  match taker with
  | some i => (c.modStream i (Stream.wake marks)).setFlag f false
  | none => c

/-- The transfers of stream `i` that are not complete. -/
def CpbSt.transfersOf (c : CpbSt) (i : Nat) : List Nat :=
  c.ags.filterMap fun kv => match kv.2.cur with
    | some t => if t.stream = i then some t.id else none
    | none => none

/-- SET: at once where no transfer of the stream is under way, else when the last of them is complete (R169). -/
def CpbSt.setAfter (c : CpbSt) (i f marks : Nat) : CpbSt :=
  match c.transfersOf i with
  | [] => c.raiseFlag f marks
  | ids => c.modStream i fun x => { x with sets := x.sets ++ [(f, ids)] }

/-- SET. The stream goes on; its flag follows its transfers. -/
def execSet (cpb : Cpb) (stream : StreamIx) (s : State) : Out :=
  issue cpb stream .set s fun t => goCpb s t fun c => c.setAfter t.i (iw t.w 52 6) s.orb.marks

/-- CLEAR. -/
def execClear (cpb : Cpb) (stream : StreamIx) (s : State) : Out :=
  issue cpb stream .clear s fun t => goCpb s t fun c => c.setFlag (iw t.w 52 6) false

/-- WAIT: the stream goes on where the flag is set, and waits for it otherwise (R169). -/
def execWait (cpb : Cpb) (stream : StreamIx) (s : State) : Out :=
  issue cpb stream .wait s fun t =>
    let f := iw t.w 52 6
    if (s.cpb t.b).flag f then goCpb s t fun c => if ib t.w 36 then c.setFlag f false else c else .wait 3

/-- FENCE. -/
def execFence (cpb : Cpb) (stream : StreamIx) (s : State) : Out :=
  issue cpb stream .fence s fun t => if ((s.cpb t.b).transfersOf t.i).isEmpty then .go s Stream.next else .wait 5

/-- MODE. -/
def execMode (cpb : Cpb) (stream : StreamIx) (s : State) : Out :=
  issue cpb stream .mode s fun t => .go s fun x => { Stream.next x with ftz := ib t.w 35 }

/-! ### Scalars (R166, R168) -/

/-- ALU. -/
def execAlu (cpb : Cpb) (stream : StreamIx) (s : State) : Out :=
  issue cpb stream .alu s fun t => goCpb s t fun c =>
    c.setSreg (iw t.w 53 5) (aluFn (iw t.w 38 5) (c.sreg (iw t.w 48 5)) (c.sreg (iw t.w 43 5)))

/-- ALUI. -/
def execAlui (cpb : Cpb) (stream : StreamIx) (s : State) : Out :=
  issue cpb stream .alui s fun t => goCpb s t fun c =>
    c.setSreg (iw t.w 53 5) (aluFn (iw t.w 38 5) (c.sreg (iw t.w 48 5)) (sx64 32 (iw t.w 0 32)))

/-- LIDX. Where fewer loops are active, the value is open (notes/assumptions/57.md). -/
def lidxIssue (s : State) (t : Thread) : Issued :=
  match t.st.loops[iw t.w 32 2]? with
  | some l => goCpb s t fun c => c.setSreg (iw t.w 53 5) (BitVec.ofNat 64 l.iter)
  | none => let (v, s) := s.fresh; goCpb s t fun c => c.setSreg (iw t.w 53 5) (BitVec.ofNat 64 v)

/-- LIDX. -/
def execLidx (cpb : Cpb) (stream : StreamIx) (s : State) : Out := issue cpb stream .lidx s (lidxIssue s)

/-- An instruction that reads the head entry of queue `q` and comes to `r` where the words have no errors (R14, R185). -/
def takes (s : State) (t : Thread) (q : Nat) (r : Issued) : Issued :=
  match r with
  | .go u f =>
    if 2 ≤ ((s.cpb t.b).queue q).err then .go (s.storeUe t.b t.slot t.i 6 q) id
    else .go (s.readingQueues t.b t.slot t.i [q] u) f
  | r => r

/-- QRD (R166). Bytes behind the end of a short entry are open (notes/assumptions/57.md). -/
def qrdIssue (s : State) (t : Thread) : Issued :=
  let q := iw t.w 34 4
  let off := 8 * iw t.w 0 7
  let c := s.cpb t.b
  match (c.queue q).entries with
  | [] => .wait 1
  | e :: _ =>
    if !c.inOrder c.issued [q] [] then .wait 1
    else if off + 8 ≤ e.length then
      takes s t q (goCpb s t fun c => c.setSreg (iw t.w 53 5) (BitVec.ofNat 64 (leAt e off 8)))
    else
      let (v, u) := s.fresh
      takes s t q (goCpb u t fun c => c.setSreg (iw t.w 53 5) (BitVec.ofNat 64 (leNat ((slice e off 8 ++ leBytes 8 v).take 8))))

/-- QRD. -/
def execQrd (cpb : Cpb) (stream : StreamIx) (s : State) : Out := issue cpb stream .qrd s (qrdIssue s)

/-- QPOP: the head entry goes whole, whatever its cursor. -/
def qpopIssue (s : State) (t : Thread) : Issued :=
  let q := iw t.w 34 4
  let c := s.cpb t.b
  match (c.queue q).entries with
  | [] => .wait 1
  | e :: rest =>
    if !c.inOrder c.issued [q] [] then .wait 1
    else takes s t q
      (.go ((s.modCpb t.b fun c => c.modQueue q fun x => { x with entries := rest, cursor := 0 }).popped t.b q [e]) Stream.next)

/-- QPOP. -/
def execQpop (cpb : Cpb) (stream : StreamIx) (s : State) : Out := issue cpb stream .qpop s (qpopIssue s)

/-- QCLOSE (R157): after the pushes that the stream issued before it. -/
def qcloseIssue (s : State) (t : Thread) : Issued :=
  let q := iw t.w 34 4
  let c := s.cpb t.b
  let x := c.queue q
  if !c.inOrder c.issued [] [q] then .wait 2
  else if x.tail.isEmpty then .go s Stream.next
  else if x.room = 0 then .wait 2
  else goCpb s t fun c => c.modQueue q fun x => { x with entries := x.entries ++ [x.tail], tail := [] }

/-- QCLOSE. -/
def execQclose (cpb : Cpb) (stream : StreamIx) (s : State) : Out := issue cpb stream .qclose s (qcloseIssue s)

/-! ### Wait timeout and stop (R204, R205) -/

/-- Stream `i` of block `b` has waited for `wait_tmo` marks. -/
def State.expired (s : State) (b i : Nat) : Bool :=
  let x := (s.cpb b).stream i
  match s.placedOn b i with
  | some (_, _, c) => x.st == .waiting && c.waitTmo ≠ 0 && decide (c.waitTmo ≤ x.waitMarks) && !s.isFenced (b / 8)
  | none => false

/-- No stream of the same set with a lower number has expired too. -/
def State.firstExpired (s : State) (b i : Nat) : Bool :=
  s.expired b i && (List.range i).all fun j =>
    !(s.expired b j && ((s.cpb b).placed j).map (·.1.slot) == ((s.cpb b).placed i).map (·.1.slot))

/-- WAIT_TIMEOUT. -/
def execWaitTimeout (cpb : Cpb) (stream : StreamIx) (s : State) : Out :=
  actIf (s.firstExpired cpb.val stream.val) s
    (s.trap cpb.val stream.val ((s.cpb cpb.val).stream stream.val).pc 0x0A)

/-- A job that drains in finish mode has nothing left to feed or to distribute, and no stream of its set on
the block has issued for a whole mark (R205). -/
def State.setFinishes (s : State) (b slot : Nat) : Bool :=
  let j := s.job slot
  match j.cfg, (s.cpb b).setOf slot with
  | some c, some p =>
    j.st == .draining && !j.aborting && !j.isOpen && !p.stopped && p.started &&
    (c.slices.all fun x => (s.feed x.index).dists.isEmpty) &&
    (p.streams.all fun t => decide (((s.cpb b).stream t.stream).issuedMark + 2 ≤ s.orb.marks)) && !s.isFenced (b / 8)
  | _, _ => false

/-- PROGRAM_SET_FINISH. -/
def execProgramSetFinish (cpb : Cpb) (slot : JobSlot) (s : State) : Out :=
  actIf (s.setFinishes cpb.val slot.val) s (s.stopSet cpb.val slot.val 0x0611 false)

end Sys2Proof.Machine
end

