-- ==== Sys2Proof/Machine/Faults.lean ====
section
/-!
DEFINITION. The chip fault aggregator (spec/14_faults.md): region links, FAULT_N, fault injection, and
the fault log in flash.
-/

namespace Sys2Proof.Machine

/-! ### Region links (R411) -/

/-- REGION_LINK_DOWN: the higher-numbered region of the pair fences. The links of a fenced region are closed. -/
def execRegionLinkDown (a b : Region) (s : State) : Out :=
  if a = b then .refused .illFormed
  else
    actIf (!s.isFenced a && !s.isFenced b) s
      (s.raise { pg := pgRgc (max a.val b.val), ev := 0, access := 0xA, addr := min a.val b.val })

/-! ### The flash fault log (R406 to R408) -/

/-- Records in a sector and sectors of the log, of which the two ahead of the write point are erased. -/
def logSector : Nat := 128

/-- The records that the ring still holds once record `n` is being written. -/
def logKept (n : Nat) (l : List LogRec) : List LogRec :=
  l.filter fun r => decide (n / logSector < r.seq / logSector + 30)

/-- The bytes of a record up to its tag (R406). The first release of a module's reset counts as `boot` 0 (DEDUCED,
notes/assumptions/74.md). -/
def LogReq.bytes (r : LogReq) (seq boots lost : Nat) (interrupted : Bool) : List Byte :=
  leBytes 4 0x464C5452 ++ leBytes 4 seq ++ leBytes 4 (boots - 1) ++ leBytes 2 r.kind ++ leBytes 1 r.region ++
  leBytes 1 (r.forced.toNat + interrupted.toNat * 2) ++ leBytes 8 r.time ++ leBytes 4 r.angle.toNat ++
  leBytes 4 r.turn.toNat ++ leBytes 8 r.at_ ++ leBytes 4 r.fltState.toNat ++ leBytes 4 lost ++
  padTo 16 [] ++ padTo 32 r.capture ++ padTo 288 (r.others.take 288) ++ padTo 96 (r.detail.take 96)

/-- "FAULT-LOG". -/
def faultLogName : List Byte := [0x46, 0x41, 0x55, 0x4C, 0x54, 0x2D, 0x4C, 0x4F, 0x47]

/-- A record is committed with its tag: the log continues after it. `ok` is what its read-back finds; a record that fails
it does not verify. -/
def State.commitRecord (s : State) (r : LogReq) (interrupted : Bool) (ok : Bool := true) : State :=
  let n := s.flt.nextSeq
  let b := r.bytes n s.flt.boots s.flt.lostSince interrupted
  let rec_ : LogRec := { seq := n, bytes := b ++ digestBytes (Config.kmac Config.flashKey faultLogName b), valid := ok }
  { s with flt := { s.flt with
    log := logKept n s.flt.log ++ [rec_]
    nextSeq := n + 1
    lostSince := 0
    writing := none } }

/-- `n` records are not written: they count in the next record and in `FLT_LOG_STAT.lost`. -/
def State.loseRecords (s : State) (n : Nat) : State :=
  let s := s.setRfld pgFlt Off.FLT_LOG_STAT 16 16 (min 0xFFFF (s.rfld pgFlt Off.FLT_LOG_STAT 16 16 + n))
  { s with flt := { s.flt with lostSince := s.flt.lostSince + n } }

/-- The records that waited 1 s or more are not written (R408). -/
def State.dropOldRecords (s : State) : State :=
  let old := s.flt.queue.filter fun r => decide (r.at_ + 10 ^ 9 < s.now)
  ({ s with flt := { s.flt with queue := s.flt.queue.filter fun r => decide (s.now ≤ r.at_ + 10 ^ 9) } }).loseRecords old.length

/-- The record being written ends, and is read back: what the flash holds is free (notes/assumptions/127.md), and
`log_fail` is raised where it does not verify (R407, R411). -/
def State.endRecord (s : State) (r : LogReq) : State :=
  let (k, s) := s.fresh
  let ok := k % 2 == 0
  let s := s.commitRecord r false ok
  if ok then s else s.raise { pg := pgFlt, ev := 3 }

/-- One page program: the second page of the record being written, or the first page of the next one (R407). -/
def State.logPage (s : State) : State :=
  match s.flt.writing with
  | some r => s.endRecord r
  | none =>
    let s := s.dropOldRecords
    match s.flt.queue with
    | [] => s
    | r :: t => { s with flt := { s.flt with queue := t, writing := some r } }

/-- FAULT_LOG_WRITE. -/
def execFaultLogWrite (s : State) : Out := actIf (s.flt.writing.isSome || !s.flt.queue.isEmpty) s s.logPage

/-- The number after the highest of the records that verify: where the log continues at start-up (R407). -/
def Flt.continuesAt (x : Flt) : Nat := x.log.foldl (fun n r => if r.valid then max n (r.seq + 1) else n) 0

/-- `FLT_LOG_OLDEST`: the oldest record that verifies, 0 where none does. -/
def State.oldestLog (s : State) : Nat := match s.flt.log.find? (·.valid) with | some r => r.seq | none => 0

/-- Word of record `seq` at byte `off`; 0 where no such record verifies (R410). -/
def State.logWord (s : State) (seq off : Nat) : Word :=
  match s.flt.log.find? fun r => r.seq == seq && r.valid with
  | some r => word (leAt r.bytes off 4)
  | none => 0

/-! ### FAULT_N (R403) -/

/-- FAULT_N is deasserted. -/
def State.deassertFaultn (s : State) : State :=
  { s with flt := { s.flt with faultn := false, pulseEnd := none, testPulse := false, releasePending := false } }

/-- `FLT_FAULTN.hold`. -/
def State.faultnHold (s : State) : Bool := s.rbit pgFlt Off.FLT_FAULTN 0

/-- The minimum pulse is over. -/
def State.pulseOver (s : State) : Bool := match s.flt.pulseEnd with | some t => decide (t ≤ s.now) | none => false

/-- The pin after the minimum pulse: held, released, or deasserted. -/
def State.endPulse (s : State) : State :=
  if s.flt.testPulse ∨ s.flt.releasePending ∨ !s.faultnHold then s.deassertFaultn
  else { s with flt := { s.flt with pulseEnd := none } }

/-- FAULTN_PULSE_END. -/
def execFaultnPulseEnd (s : State) : Out := actIf s.pulseOver s s.endPulse

/-- A write of 1 to `release`. -/
def State.releaseFaultn (s : State) : State :=
  if !s.flt.faultn then s
  else if s.flt.pulseEnd.isSome then { s with flt := { s.flt with releasePending := true } }
  else s.deassertFaultn

/-- A write of 1 to `test`: a pulse where the pin is deasserted; logged in both cases. -/
def State.testFaultn (s : State) : State :=
  let s := if s.flt.faultn then s
    else { s with flt := { s.flt with faultn := true, pulseEnd := some (s.now + 10000), testPulse := true } }
  s.raise { pg := pgFlt, ev := 4 }

/-- A write of `hold`. -/
def State.holdFaultn (s : State) (hold : Bool) : State :=
  let s := s.setRfld pgFlt Off.FLT_FAULTN 0 1 hold.toNat
  if !hold ∧ s.flt.faultn ∧ s.flt.pulseEnd.isNone then s.deassertFaultn else s

/-! ### Fault injection (R404, R405) -/

/-- The code with which event `e` of a block of prefix `p` fails a job or abandons its step. -/
def eventCode : Pfx → Nat → Nat
  | .RDX, 4 => 0x0309
  | .RDX, e => 0x0204 + e
  | .RST, 2 => 0x0301
  | .SWC, 3 => 0x0301
  | .SWC, 6 => 0x0308
  | .RGC, 1 => 0x0308
  | .CPB, 1 => 0x0307
  | .CPB, _ => 0x0306
  | _, _ => 0x030A

/-- What a forced contained event does for job slot `j` (R405), beyond the Comet block's rounds. -/
def forcedAct (p : Pfx) (e j : Nat) : List Reaction :=
  match p, e with
  | .RDX, 4 => [.failJob j 0x0309]
  | .RDX, _ => [.abandon j (eventCode .RDX e)]
  | .CMT, _ => []
  | .MEM, _ => []
  | .ORB, _ => []
  | _, _ => [.failJob j (eventCode p e)]

/-- The open Comet round of a job with the lowest slot. -/
def State.openRound (s : State) (c : JobCfg) : Option Nat :=
  leastBelow c.cmtCount fun i => (s.cometSlot c.cmtRegion (c.cmtBase + i)).isOpen

/-- The lowest open Comet round of job slot `j` is abandoned. -/
def State.abandonLowRound (s : State) (j : Nat) : State :=
  match (s.job j).cfg with
  | none => s
  | some c => match s.openRound c with | some i => s.abandonRound j c i | none => s

/-- Event `e` of page `pg` is raised as though by its source, marked forced (R404, R405). -/
def State.forceEvent (s : State) (pg e : Nat) : State :=
  match pfxOf pg with
  | none => s
  | some (p, _) =>
    let cls := s.classOf pg e
    let j := if cls = 1 ∧ s.rbit pgFlt Off.FLT_INJECT 31 then some (s.rfld pgFlt Off.FLT_INJECT 0 10) else none
    let dflt := defaultClass pg e
    let act := match j with | some j => if dflt = 1 then forcedAct p e j else [] | none => []
    let s := s.raise { pg := pg, ev := e, job := j, forced := true, act := act }
    match p, j with
    | .CMT, some j => if dflt = 1 then s.abandonLowRound j else s
    | _, _ => s

/-- A write of `BLK_EVENT_FORCE`: the events of the block that it names, which arise in one cycle (R396); each counts and is
logged. -/
def State.forceEvents (s : State) (pg : Nat) (w : Word) : State :=
  match pfxOf pg with
  | none => s
  | some (p, _) =>
    (s.oneCycle pg ((List.range p.events.length).filter fun e => bit w e)).foldl (fun s e =>
      ((s.bump pgSec Off.SEC_INJECT_N).attest .maint (leBytes 4 (pg * 16 + e))).forceEvent pg e) s

end Sys2Proof.Machine
end

