-- ==== Sys2Proof/Machine/Loader.lean ====
section
/-!
DEFINITION. Gliel: program images, the verifier's rules and placement (spec/07_program_loader.md R187 to
R200, R207).
-/

namespace Sys2Proof.Machine

/-! ### Images (R188, R189) -/

/-- A stream of an image: what R189 declares, with the offset of its code section. -/
structure ImgStream where
  place : Placed
  codeOff : Nat
  deriving DecidableEq, Repr

/-- An image as its header and descriptors spell it (R188). -/
structure Image where
  magic : Nat
  version : Nat
  nstreams : Nat
  length : Nat
  job : Nat
  qFeed : Nat
  qDist : Nat
  flags : Nat
  streams : List ImgStream
  deriving DecidableEq, Repr

/-- The extents that a descriptor declares for the generators of its mask (R189). -/
def parseExtents (d : List Byte) (ags : Nat) : List Extent :=
  ((List.range 8).filter ags.testBit).map fun a =>
    let lo := leAt d (0x20 + 16 * a) 8
    { ag := a, lo := bits lo 0 52, hi := bits (leAt d (0x28 + 16 * a) 8) 0 52, space := bits lo 56 5, ld := lo.testBit 62, st := lo.testBit 63 }

/-- A stream descriptor of 256 bytes (R189). -/
def parseStream (d : List Byte) : ImgStream :=
  let ags := leAt d 0x0E 1
  { codeOff := leAt d 4 4
    place :=
      { stream := bits (leAt d 0 1) 0 2, entry := bits (leAt d 2 2) 0 15, base := 0, len := leAt d 8 2, qProd := leAt d 0x0A 2,
        qCons := leAt d 0x0C 2, ags := ags, sregs := leAt d 0x10 4, accs := leAt d 0x14 4, localBase := leAt d 0x18 4,
        localSize := leAt d 0x1C 4, extents := parseExtents d ags } }

/-- The image that bytes spell. -/
def parseImage (b : List Byte) : Image :=
  let n := leAt b 6 1
  { magic := leAt b 0 4, version := leAt b 4 2, nstreams := n, length := leAt b 8 4, job := leAt b 12 2,
    qFeed := leAt b 0x10 2, qDist := leAt b 0x12 2, flags := leAt b 0x18 8,
    streams := (List.range (min n 4)).map fun i => parseStream (slice b (0x40 + 256 * i) 256) }

/-- The instruction words of a stream. -/
def Image.code (b : List Byte) (x : ImgStream) : List DWord :=
  (List.range x.place.len).map fun i => BitVec.ofNat 64 (leAt b (x.codeOff + 8 * i) 8)

/-- Bytes that are all zero. -/
def zeroBytes (b : List Byte) : Bool := b.all (· == 0)

/-- The reserved bits of a descriptor are 0, as are the extents of generators it does not name (R189, R191). -/
def descriptorReserved (d : List Byte) : Bool :=
  bits (leAt d 0 1) 2 6 == 0 && leAt d 1 1 == 0 && bits (leAt d 2 2) 15 1 == 0 && leAt d 0x0F 1 == 0 &&
  bits (leAt d 0x10 4) 0 1 == 0 && zeroBytes (slice d 0xA0 0x60) &&
  (List.range 8).all fun a =>
    let lo := leAt d (0x20 + 16 * a) 8
    let hi := leAt d (0x28 + 16 * a) 8
    if (leAt d 0x0E 1).testBit a then bits lo 52 4 == 0 && bits lo 61 1 == 0 && bits hi 52 12 == 0 else lo == 0 && hi == 0

/-- No two numbers of a list are equal. -/
def distinct : List Nat → Bool
  | [] => true
  | x :: t => !t.contains x && distinct t

/-- No two ranges, given by start and length, meet. -/
def rangesApart : List (Nat × Nat) → Bool
  | [] => true
  | x :: t => (t.all fun y => !meets x.1 x.2 y.1 y.2) && rangesApart t

/-- Rule 1 of R191. -/
def imgFormatOk (b : List Byte) (g : Image) : Bool :=
  let head := 0x40 + 256 * g.nstreams
  b.length ≥ 0x40 && g.magic == 0x47494C31 && g.version == 1 && decide (1 ≤ g.nstreams ∧ g.nstreams ≤ 4) && g.length % 8 == 0 &&
  decide (g.length ≤ 0x44400) && g.length == b.length && decide (head ≤ g.length) &&
  leAt b 7 1 == 0 && leAt b 0x0E 2 == 0 && leAt b 0x14 4 == 0 && zeroBytes (slice b 0x20 0x20) &&
  ((List.range g.nstreams).all fun i => descriptorReserved (slice b (0x40 + 256 * i) 256)) &&
  distinct (g.streams.map (·.place.stream)) &&
  (g.streams.all fun x =>
    decide (x.place.entry < x.place.len ∧ 1 ≤ x.place.len ∧ x.place.len ≤ 32768 ∧ head ≤ x.codeOff ∧
      x.codeOff + 8 * x.place.len ≤ g.length) && x.codeOff % 8 == 0 && x.place.localBase % 4096 == 0 && x.place.localSize % 4096 == 0) &&
  rangesApart (g.streams.map fun x => (x.codeOff, 8 * x.place.len))

/-- A stream with its words. -/
abbrev Section := ImgStream × List DWord

/-- Word `k` of a section. -/
def Section.at_ (x : Section) (k : Nat) : DWord := x.2.getD k 0

/-- Where a rule fails: the stream, and the instruction index where one is named. -/
abbrev Spot := Option (Nat × Option Nat)

/-- The first word of the sections that a test refuses, in the order of stream number and index. -/
def firstBad (xs : List Section) (ok : Section → Nat → Bool) : Option (Nat × Option Nat) :=
  (List.range 4).findSome? fun i =>
    match xs.find? fun x => x.1.place.stream == i with
    | none => none
    | some x => (leastBelow x.2.length fun k => !ok x k).map fun k => (i, some k)

/-! ### Rules 5 and 6: conflicts and queue balance (R191, R192) -/

/-- The queues of a set. -/
def ProgSet.queues (p : ProgSet) : Nat := Nat.lor (Nat.lor (p.ors (·.qProd)) (p.ors (·.qCons))) (Nat.lor p.qFeed p.qDist)

/-- Two placements of streams share a resource other than a queue end. -/
def Placed.clash (a b : Placed) : Bool :=
  Nat.land a.ags b.ags != 0 || Nat.land a.sregs b.sregs != 0 || Nat.land a.accs b.accs != 0 || a.stream == b.stream ||
  (a.localSize != 0 && b.localSize != 0 && meets a.localBase a.localSize b.localBase b.localSize)

/-- No two streams of a list clash. -/
def placedApart : List Placed → Bool
  | [] => true
  | x :: t => (t.all fun y => !x.clash y) && placedApart t

/-- Rule 5 of R191: `others` are the other placements on the block. -/
def noConflict (p : ProgSet) (others : List ProgSet) : Bool :=
  placedApart p.streams &&
  (p.streams.all fun t => decide (t.localBase + t.localSize ≤ 4194304)) &&
  others.all fun o =>
    (p.streams.all fun t => o.streams.all fun u => !t.clash u) && Nat.land p.queues o.queues == 0 && Nat.land p.flags o.flags == 0

/-- How many streams of a set hold bit `q` of a mask. -/
def ProgSet.holders (p : ProgSet) (f : Placed → Nat) (q : Nat) : Nat := (p.streams.filter fun t => (f t).testBit q).length

/-- Rule 6: every queue of the set has exactly one producer and one consumer (R192). -/
def queuesBalanced (p : ProgSet) : Bool :=
  (List.range 16).all fun q =>
    !p.queues.testBit q ||
    (p.holders (·.qProd) q + (p.qFeed.testBit q).toNat == 1 && p.holders (·.qCons) q + (p.qDist.testBit q).toNat == 1)

/-! ### Rules 7 and 8: control flow (R193, R194) -/

/-- The LOOPs of a section with the last index of their bodies. -/
def Section.loops (x : Section) : List (Nat × Nat) :=
  (List.range x.2.length).filterMap fun k => if opcOf (x.at_ k) = some .loop then some (k, iw (x.at_ k) 0 15) else none

/-- Index `k` lies in the body of a loop. -/
def inBody (l : Nat × Nat) (k : Nat) : Bool := decide (l.1 < k ∧ k ≤ l.2)

/-- A target keeps the scope of R167 for an instruction with these enclosing loops: the innermost body, or outside
every loop of `all`. -/
def scopeOk (all enclosing : List (Nat × Nat)) (target : Nat) : Bool :=
  match enclosing.getLast? with
  | some l => inBody l target
  | none => !all.any fun l => inBody l target

/-- Bodies nest (R168). -/
def nests (ls : List (Nat × Nat)) : Bool :=
  ls.all fun a => ls.all fun b => !(a.1 < b.1 && b.1 ≤ a.2) || b.2 ≤ a.2

/-- The test of one word by R193: targets and loop ends. -/
def Section.flowOk (x : Section) (ls : List (Nat × Nat)) (k : Nat) : Bool :=
  let w := x.at_ k
  let t := iw w 0 15
  match opcOf w with
  | some .loop => decide (k < t ∧ t < x.2.length)
  | some .jmp | some .br => decide (t < x.2.length) && scopeOk ls (ls.filter fun l => inBody l k) t
  | _ => true

/-- A point of a walk through a section: the index, and the active loops, innermost first. -/
abbrev Walk := Nat × List (Nat × Nat)

/-- Where a walk can go after index `k` has run in sequence: back into a body that ends there, or past it. -/
def walkOn (k : Nat) : List (Nat × Nat) → List Walk
  | [] => [(k + 1, [])]
  | l :: t => if l.2 = k then (l.1 + 1, l :: t) :: walkOn k t else [(k + 1, l :: t)]

/-- Where a walk can go next (R196). A fifth active loop ends a walk. -/
def Section.walks (x : Section) (p : Walk) : List Walk :=
  let k := p.1
  let w := x.at_ k
  let t := iw w 0 15
  match opcOf w with
  | some .halt => []
  | some .jmp => [(t, p.2)]
  | some .br => (t, p.2) :: walkOn k p.2
  | some .loop => (if p.2.length < 4 then [(k + 1, (k, t) :: p.2)] else []) ++ walkOn t p.2
  | _ => walkOn k p.2

/-- The points that walks reach, an index of `avoid` ending a walk. -/
def Section.explore (x : Section) (avoid : Nat → Bool) : Nat → List Walk → List Walk → List Walk
  | 0, _, seen => seen
  | _, [], seen => seen
  | n + 1, p :: todo, seen =>
    if seen.contains p ∨ avoid p.1 ∨ x.2.length ≤ p.1 then x.explore avoid n todo seen
    else x.explore avoid n (x.walks p ++ todo) (p :: seen)

/-- The points that walks from the entry reach. -/
def Section.reached (x : Section) (avoid : Nat → Bool) : List Walk :=
  x.explore avoid (256 * x.2.length + 256) [(x.1.place.entry, [])] []

/-- Index `k` is reached from the entry. -/
def Section.reaches (x : Section) (avoid : Nat → Bool) (k : Nat) : Bool := (x.reached avoid).any fun p => p.1 == k

/-- A LOOP that a path reaches with four loops active (R193). -/
def Section.tooDeep (x : Section) : Option Nat :=
  ((x.reached fun _ => false).filter fun p => opcOf (x.at_ p.1) == some .loop && p.2.length ≥ 4).foldl
    (fun m p => match m with | some k => some (min k p.1) | none => some p.1) none

/-- The last word is HALT or JMP. -/
def Section.endsOk (x : Section) : Bool :=
  match opcOf (x.at_ (x.2.length - 1)) with
  | some .halt | some .jmp => true
  | _ => false

/-- Where rule 7 fails. -/
def flowFault (xs : List Section) : Option (Nat × Option Nat) :=
  let word := firstBad xs fun x k =>
    let ls := x.loops
    x.flowOk ls k && (k + 1 < x.2.length || x.endsOk) &&
    (opcOf (x.at_ k) != some .loop || ls.all fun a => !(a.1 < k && k ≤ a.2) || iw (x.at_ k) 0 15 ≤ a.2)
  match word with
  | some f => some f
  | none => xs.findSome? fun x => x.tooDeep.map fun k => (x.1.place.stream, some k)

/-- The scalar register that a word writes (R194). -/
def writesSreg (w : DWord) : Option Nat :=
  match opcOf w with
  | some .alu | some .alui | some .lidx | some .qrd | some .sld => some (iw w 53 5)
  | _ => none

/-- Rule 8 for one word: it writes no count register of a loop whose body holds it. -/
def Section.countOk (x : Section) (k : Nat) : Bool :=
  match writesSreg (x.at_ k) with
  | none => true
  | some r => x.loops.all fun l => !inBody l k || iw (x.at_ l.1) 42 5 != r

/-! ### Rules 9 and 10: addresses and flags (R195, R196) -/

/-- The extent that a placement declares for a generator. -/
def Placed.extentOf (t : Placed) (a : Nat) : Option Extent := t.extents.find? fun e => e.ag == a

/-- Rule 9 for one word. -/
def Section.addressOk (x : Section) (k : Nat) : Bool :=
  let w := x.at_ k
  let ext (a : Nat) (p : Extent → Bool) : Bool := match x.1.place.extentOf a with | some e => p e | none => false
  match opcOf w with
  | some .agbase => ext (iw w 55 3) fun e => e.space == iw w 48 5
  | some .ld => ext (iw w 55 3) (·.ld)
  | some .st => ext (iw w 55 3) (·.st)
  | some .sld => ext (iw w 35 3) (·.ld)
  | some .sst16 => ext (iw w 35 3) (·.st)
  | _ => true

/-- Where rule 9 fails: an extent, or a word. -/
def addressFault (xs : List Section) (ws : List (Nat × Window)) : Option (Nat × Option Nat) :=
  match xs.find? fun x => !(x.1.place.extents.all fun e => e.ok x.1.place.localBase x.1.place.localSize ws) with
  | some x => some (x.1.place.stream, none)
  | none => firstBad xs fun x k => x.addressOk k

/-- A WAIT or SET of a set: stream, index, flag. -/
abbrev FlagOp := Nat × Nat × Nat

/-- The reachable instructions of an opcode with their flags. -/
def flagOps (xs : List Section) (o : Opc) : List FlagOp :=
  xs.flatMap fun x =>
    let r := x.reached fun _ => false
    ((List.range x.2.length).filter fun k => opcOf (x.at_ k) == some o && r.any fun p => p.1 == k).map fun k =>
      (x.1.place.stream, k, iw (x.at_ k) 52 6)

/-- A SET is dominated by no WAIT of `ws` in its own stream (R196). -/
def freeSet (xs : List Section) (ws : List FlagOp) (t : FlagOp) : Bool :=
  match xs.find? fun x => x.1.place.stream == t.1 with
  | none => false
  | some x => ws.all fun w => w.1 != t.1 || x.reaches (fun k => k == w.2.1) t.2.1

/-- One pass of R196 over the WAITs `todo`, where `ws` still stand. -/
def flagPass (xs : List Section) (sets : List FlagOp) : List FlagOp → List FlagOp → List FlagOp
  | [], ws => ws
  | w :: todo, ws =>
    if sets.any fun t => t.2.2 == w.2.2 && freeSet xs ws t then flagPass xs sets todo (ws.erase w)
    else flagPass xs sets todo ws

/-- The passes of R196, at most `n`. -/
def flagPasses (xs : List Section) (sets : List FlagOp) : Nat → List FlagOp → List FlagOp
  | 0, ws => ws
  | n + 1, ws =>
    let ws' := flagPass xs sets ws ws
    if ws'.length = ws.length then ws else flagPasses xs sets n ws'

/-- The WAIT that rule 10 names: lowest stream, then lowest index. -/
def flagFault (xs : List Section) : Option (Nat × Option Nat) :=
  let waits := flagOps xs .wait
  let left := flagPasses xs (flagOps xs .set) waits.length waits
  (left.foldl (fun (m : Option (Nat × Nat)) w =>
    match m with
    | some x => if w.1 < x.1 ∨ (w.1 = x.1 ∧ w.2.1 < x.2) then some (w.1, w.2.1) else m
    | none => some (w.1, w.2.1)) none).map fun x => (x.1, some x.2)

/-! ### Rule 11 and placement (R191, R198) -/

/-- The lowest free run of `n` words of the store that the ranges `used` leave. -/
def lowestRun (used : List (Nat × Nat)) (n : Nat) : Option Nat :=
  let fits (b : Nat) : Bool := decide (b + n ≤ 32768) && used.all fun u => !meets b n u.1 u.2
  ((0 :: used.map fun u => u.1 + u.2).filter fits).foldl (fun m b => match m with | some x => some (min x b) | none => some b) none

/-- The store words that the sets of a block hold. -/
def CpbSt.usedRuns (c : CpbSt) : List (Nat × Nat) := c.sets.flatMap fun p => p.streams.map fun t => (t.base, t.len)

/-- Longest free run of the store: it begins at 0 or behind a held run. -/
def CpbSt.freeRun (c : CpbSt) : Nat :=
  let used := c.usedRuns
  (0 :: used.map fun u => u.1 + u.2).foldl (fun m b =>
    if used.any fun u => u.1 ≤ b && b < u.1 + u.2 then m
    else
      let next := (used.filter fun u => b ≤ u.1 && u.2 != 0).foldl (fun e u => min e u.1) 32768
      max m (next - b)) 0

/-- The sections with their bases, or the stream whose section finds no run. -/
def placeAll (used : List (Nat × Nat)) : List Section → Except Nat (List (Placed × List DWord))
  | [] => .ok []
  | x :: t =>
    match lowestRun used x.2.length with
    | none => .error x.1.place.stream
    | some b =>
      match placeAll ((b, x.2.length) :: used) t with
      | .ok r => .ok (({ x.1.place with base := b }, x.2) :: r)
      | .error e => .error e

/-- What verification comes to: a code with the place that result words 0 and 1 name, or the placed sections. -/
inductive Verdict where
  | reject (code : Nat) (spot : Option (Nat × Option Nat))
  | accept (set : ProgSet) (code : List (Placed × List DWord))

/-- The set that an image describes. -/
def Image.set (g : Image) (l : Load) (hash : Digest) (places : List Placed) : ProgSet :=
  { slot := l.slot, jobId := g.job, chit := l.chit, hash := hash, qFeed := g.qFeed, qDist := g.qDist, flags := g.flags,
    streams := places }

/-- The rules of R191 in order. -/
def State.verify (s : State) (l : Load) (b : List Byte) : Verdict :=
  let g := parseImage b
  let xs : List Section := g.streams.map fun x => (x, Image.code b x)
  let c := s.cpb l.cpb
  let hash := Config.shake256 b
  let p := g.set l hash (g.streams.map (·.place))
  if !imgFormatOk b g then .reject 0x0601 none
  else if g.job ≠ fld (s.tbl .job l.slot 0) 0 16 then .reject 0x0602 none
  else
    match firstBad xs fun x k => decodes (x.at_ k) with
    | some f => .reject 0x0603 (some f)
    | none =>
    match firstBad xs fun x k => legal (x.at_ k) x.1.place g.flags with
    | some f => .reject 0x0604 (some f)
    | none =>
    if !noConflict p (c.sets.filter fun q => q.slot != l.slot) then .reject 0x0605 none
    else if !queuesBalanced p then .reject 0x0606 none
    else
      match flowFault xs with
      | some f => .reject 0x0607 (some f)
      | none =>
      match firstBad xs fun x k => x.countOk k with
      | some f => .reject 0x0608 (some f)
      | none =>
      match addressFault xs (s.windowsOf l.slot) with
      | some f => .reject 0x0609 (some f)
      | none =>
      match flagFault xs with
      | some f => .reject 0x060A (some f)
      | none =>
      match placeAll c.usedRuns xs with
      | .error i => .reject 0x060B (some (i, none))
      | .ok ps => .accept (g.set l hash (ps.map (·.1))) ps

/-- Result words 0 and 1 of a rejection (R191). -/
def spotWords : Option (Nat × Option Nat) → List Word
  | none => [0, 0]
  | some (i, none) => [word (i + 4), 0]
  | some (i, some k) => [word (i + 4), word (k + 2 ^ 15)]

/-- The set is placed (R187, R198): one that the job holds on the block goes. -/
def State.placeSet (s : State) (b : Nat) (p : ProgSet) (code : List (Placed × List DWord)) : State :=
  let s := match (s.cpb b).setOf p.slot with
    | some old => if old.stopped then s else s.stopSet b p.slot 0x0611 true
    | none => s
  s.modCpb b fun c =>
    let c := c.release p.slot
    let store := code.foldl (fun (st : Tbl DWord) x => (x.2.zipIdx).foldl (fun (st : Tbl DWord) y => st.put 0 (x.1.base + y.2) y.1) st) c.store
    { c with
      store := store
      storeErr := (code.flatMap fun x => (List.range x.1.len).map (x.1.base + ·)).foldl (fun t k => t.put 0 k 0) c.storeErr
      sets := c.sets ++ [p] }

/-- An accepted load: the set, its record, which is not final, and the attestation record (R198, R199, R207). -/
def State.acceptLoad (s : State) (l : Load) (p : ProgSet) (code : List (Placed × List DWord)) : State :=
  let s := s.placeSet l.cpb p code
  let content := leBytes 2 p.jobId ++ leBytes 1 (l.cpb / 8) ++ leBytes 1 (l.cpb % 8) ++ digestBytes p.hash ++ leBytes 4 l.chit.toNat ++
    leBytes 8 s.time
  (s.record l.chit 0 false [word p.hash.toNat, word (p.hash.toNat / 2 ^ 32)]).attest .load content

/-! ### Rows -/

/-- The window of a space of a slot as the tables hold it. -/
def State.spaceWin (s : State) (slot space : Nat) : Option Window :=
  if space < 16 then (s.winBound slot space).map s.winEntry else none

/-- The image window of a load permits it and holds it (R197, R321). -/
def State.loadWin (s : State) (slot space off len : Nat) : Option Window :=
  match s.spaceWin slot space with
  | none => none
  | some w =>
    if w.valid ∧ w.owner = fld (s.tbl .job slot 0) 0 16 ∧ (w.progLd ∨ w.hostRead) ∧ off + len ≤ w.bytes then some w else none

/-- The program load command after its acceptance (R197). -/
def State.loadCommand (s : State) (chit : Word) (slot region cpb space off len : Nat) : State :=
  let st := (s.job slot).st
  if st ≠ .defined ∧ st ≠ .retired then s.complete chit 0x0101
  else if (s.loadWin slot space off len).isNone then s.complete chit 0x010B
  else if region > 3 ∨ cpb > 7 ∨ s.isFenced region then s.complete chit 0x0304
  else
    let l : Load := { chit := chit, slot := slot, cpb := 8 * region + cpb, space := space, off := off, len := len }
    { s with loads := s.loads ++ [l] }

/-- PROGRAM_LOAD. -/
def execProgramLoad (m : RalowIn) (n : Nat) (ops : List Word) (s : State) : Out :=
  onMemCommand m n ops [2] 7 (opw ops 0 ≤ 1023) s fun s chit =>
    s.loadCommand chit (opw ops 0) (opw ops 1) (opw ops 2) (opw ops 3) (opd ops 4) (opw ops 6)

/-- Gliel takes the first load: the image is read once and judged (R198, R199). A rejected load leaves no attestation
record; no block's table names a bit for the event of R207 (notes/assumptions/114.md). -/
def State.verifyLoad (s : State) (l : Load) : State :=
  let s := { s with loads := s.loads.drop 1 }
  if s.isFenced (l.cpb / 8) then s.complete l.chit 0x0304
  else
    match s.loadWin l.slot l.space l.off l.len with
    | none => s.complete l.chit 0x010B
    | some w =>
      match s.readBytes w l.off l.len with
      | (.ue _ _, s) => s.complete l.chit 0x0903
      | (.ok b, s) =>
        match s.verify l b with
        | .reject code spot => s.complete l.chit code (spotWords spot)
        | .accept p code => s.acceptLoad l p code

/-- The load that Gliel can take now: the first, for a block that accepts work. -/
def State.nextLoad (s : State) (b : Nat) : Option Load :=
  match s.loads with
  | l :: _ => if l.cpb = b ∧ !s.quiesced (pgCpb b) then some l else none
  | [] => none

/-- PROGRAM_VERIFY. -/
def execProgramVerify (cpb : Cpb) (s : State) : Out := actWith (s.nextLoad cpb.val) s fun l => s.verifyLoad l

end Sys2Proof.Machine
end

