-- ==== Sys2Proof/Machine/Transfer.lean ====
section
/-!
DEFINITION. Address generators and their transfer engines (spec/06_engine_isa.md R160 to R163,
spec/07_program_loader.md R190), the freeze mask (spec/05_parameter_service.md R137) and the commit
request (R134).
-/

namespace Sys2Proof.Machine

/-! ### Addresses -/

/-- A generator of a block changed by `f`. -/
def CpbSt.modAg (c : CpbSt) (a : Nat) (f : Ag → Ag) : CpbSt := { c with ags := c.ags.upd {} a f }

/-- The address that a generator stands at (R160). -/
def Ag.address (g : Ag) : Int :=
  (g.idx.zip g.strides).foldl (fun x p => x + p.1 * p.2) (g.base : Int)

/-- The counters one granule further (R160). -/
def stepIdx : List Nat → List Nat → List Nat
  | i :: is, c :: cs => if i + 1 < c then (i + 1) :: is else 0 :: stepIdx is cs
  | is, _ => is

/-- The generator one granule further. -/
def Ag.advance (g : Ag) : Ag := { g with idx := stepIdx g.idx g.counts }

/-- Bytes of a granule. -/
def Ag.granule (g : Ag) : Nat := 16 * 2 ^ g.glog

/-- An access through a generator: block, job slot, configuration, placement, generator, space, address,
bytes, alignment, direction. -/
structure Access where
  b : Nat
  slot : Nat
  cfg : JobCfg
  place : Placed
  ag : Nat
  space : Nat
  addr : Int
  n : Nat
  align : Nat
  store : Bool

/-- The access lies within its window or within the stream's local range (R162). -/
def Access.inSpace (a : Access) : Bool :=
  if a.space = 0x10 then
    decide ((a.place.localBase : Int) ≤ a.addr ∧ a.addr + a.n ≤ (a.place.localBase + a.place.localSize : Nat))
  else match a.cfg.window a.space with
    | some w => decide (0 ≤ a.addr ∧ a.addr + a.n ≤ (w.bytes : Nat))
    | none => false

/-- The declared extent of the generator. -/
def Access.extent (a : Access) : Option Extent := a.place.extents.find? fun e => e.ag == a.ag

/-- The access lies within the extent (R190). -/
def Access.inExtent (a : Access) : Bool :=
  match a.extent with
  | some e => e.space == a.space && decide ((e.lo : Int) ≤ a.addr ∧ a.addr + a.n ≤ (e.hi : Nat))
  | none => false

/-- The extent and the window permit the access (R162, R190). -/
def Access.permitted (a : Access) : Bool :=
  (match a.extent with | some e => if a.store then e.st else e.ld | none => false) &&
  (a.space == 0x10 ||
    match a.cfg.window a.space with
    | some w => if a.store then w.progSt else w.progLd
    | none => false)

/-- The slice of this block whose commit request the access stores (R134). -/
def Access.request (a : Access) : Option SliceCfg :=
  if a.store ∧ a.n = 16 then
    a.cfg.slices.find? fun x => x.win == a.space && x.block == a.b && a.addr == ((x.off + 0x10 : Nat) : Int)
  else none

/-- The access stores into a slice header other than at the commit request (R129). -/
def Access.header (a : Access) : Bool :=
  a.store && a.request.isNone && a.cfg.slices.any fun x => x.win == a.space && meets x.off 0x1000 a.addr.toNat a.n

/-- The code of the check that an access fails (R162, R190): ALIGN, ADDR_RANGE, ACCESS. -/
def Access.check (a : Access) : Option Nat :=
  if a.addr % a.align ≠ 0 then some 5
  else if !a.inSpace || !a.inExtent then some 4
  else if !a.permitted || a.header then some 6
  else none

/-- Where an access that raises an exception stands. -/
def Access.at_ (a : Access) : ExcAt :=
  { addr := (a.addr % (2 ^ 52 : Nat)).toNat, space := a.space, access := if a.store then 2 else 1 }

/-- The memory behind the access serves requests. -/
def State.accessReady (s : State) (a : Access) : Bool :=
  a.space == 0x10 ||
    match a.cfg.window a.space with
    | some w => s.winReady w
    | none => true

/-- The 16-byte words of local memory that bytes from `o` on lie in. -/
def localWords (o n : Nat) : List Nat := (List.range ((o % 16 + n + 15) / 16)).map fun i => o / 16 + i

/-- A read of local memory: corrected words are counted and stand corrected, and an uncorrectable one gives its offset
from the first word (R14, R184). -/
def State.loadLocal (s : State) (b o n : Nat) : Except Nat (List Byte) × State :=
  let c := s.cpb b
  match (localWords o n).find? fun w => 2 ≤ c.memErr.look 0 w with
  | some w => (.error (16 * (w - o / 16)), s.countUe (pgCpb b))
  | none =>
    let bad := (localWords o n).filter fun w => c.memErr.look 0 w == 1
    (.ok (c.mem.bytes o n),
     bad.foldl (fun s w => (s.countCe (pgCpb b)).modCpb b fun c => { c with memErr := c.memErr.put 0 w 0 }) s)

/-- What a read for a stream gives: its bytes, or the offset of an uncorrectable word (code 0x08). -/
def State.loadFor (s : State) (a : Access) : Except Nat (List Byte) × State :=
  if a.space = 0x10 then s.loadLocal a.b a.addr.toNat a.n
  else
    match a.cfg.window a.space with
    | none => (.error 0, s)
    | some w =>
      match s.readBytes w a.addr.toNat a.n (some a.slot) with
      | (.ok b, t) => (.ok b, t)
      | (.ue k _, t) => (.error k, t)

/-! ### The freeze mask (R137) -/

/-- Element of plane of the inactive area that a byte offset of the window addresses: offset of the same word
in the active area, and the element's index. -/
def SliceCfg.inactive (x : SliceCfg) (len : Nat) (active : Bool) (o : Nat) : Option (Nat × Nat) :=
  let base := x.off + x.area len (!active)
  let p := x.plane len
  if base ≤ o ∧ o < base + x.planes * p ∧ (o - base) % p < 4 * x.n len then
    some (x.off + x.area len active + (o - base), (o - base) % p / 4)
  else none

/-- One stored 32-bit word after the merge: the active area's word where the element's mask bit is set. -/
def State.mergeWord (s : State) (a : Access) (x : SliceCfg) (w : Window) (o : Nat) (b : List Byte) : Option (List Byte) × State :=
  match x.inactive a.cfg.len (s.commitWord a.cfg x).area o with
  | none => (some b, s)
  | some (act, i) =>
    match s.readBytes w (x.off + x.mask a.cfg.len + i / 8) 1 (some a.slot) with
    | (.ue _ _, s) => (none, s)
    | (.ok m, s) =>
      if (m.getD 0 0).toNat.testBit (i % 8) then
        match s.readBytes w act 4 (some a.slot) with
        | (.ok v, s) => (some v, s)
        | (.ue _ _, s) => (none, s)
      else (some b, s)

/-- The stored words after the merge, none where a word it reads is uncorrectable. -/
def State.mergeWords (s : State) (a : Access) (x : SliceCfg) (w : Window) (o : Nat) (b : List Byte) : Nat → Option (List Byte) × State
  | 0 => (some [], s)
  | n + 1 =>
    match s.mergeWord a x w o (b.take 4) with
    | (none, s) => (none, s)
    | (some v, s) =>
      match s.mergeWords a x w (o + 4) (b.drop 4) n with
      | (some r, s) => (some (v ++ r), s)
      | (none, s) => (none, s)

/-- The slice of the block with `freeze_en` whose area the store meets. -/
def Access.frozenSlice (a : Access) : Option SliceCfg :=
  a.cfg.slices.find? fun x => x.freezeEn && x.win == a.space && x.block == a.b && meets x.off (x.bytes a.cfg.len) a.addr.toNat a.n

/-! ### Stores and the commit request (R134) -/

/-- The bytes of an accepted store are written; not so, with code 8, where a word that the merge reads is
uncorrectable. -/
def State.storeFor (s : State) (a : Access) (b : List Byte) : Option Nat × State :=
  if a.space = 0x10 then
    (none, s.modCpb a.b fun c =>
      { c with
        mem := c.mem.write a.addr.toNat b
        memErr := (localWords a.addr.toNat a.n).foldl (fun t w => t.put 0 w 0) c.memErr })
  else
    match a.cfg.window a.space with
    | none => (none, s)
    | some w =>
      match a.frozenSlice with
      | none => (none, s.writeRange w a.addr.toNat b (some a.slot))
      | some x =>
        match s.mergeWords a x w a.addr.toNat b (b.length / 4) with
        | (some v, t) => (none, t.writeRange w a.addr.toNat v (some a.slot))
        | (none, t) => (some 8, t)

/-- The store transfers of a job on a block that are under way. -/
def CpbSt.storesUnderWay (c : CpbSt) (slot : Nat) : List Nat :=
  c.ags.filterMap fun kv => match kv.2.cur with
    | some t => if !t.isLoad ∧ (c.placed t.stream).map (·.1.slot) = some slot then some t.id else none
    | none => none

/-- A commit request is checked against the slice's feed (R134): the state with the request taken or ignored,
or none for COMMIT. -/
def State.commitRequest (s : State) (a : Access) (x : SliceCfg) (b : List Byte) : Option State :=
  let inst : Word × Byte := (word (leAt b 0 4), BitVec.ofNat 8 (leAt b 4 1))
  let f := s.feed x.index
  let slice := bits (leAt b 5 2) 0 12
  if slice = x.index ∧ (f.ended.contains inst ∨ (f.opened = some inst ∧ f.last = some false)) then some s
  else if slice ≠ x.index ∨ f.opened ≠ some inst ∨ f.popped.length < x.units then none
  else
    let waits := (s.cpb a.b).storesUnderWay a.slot
    some (s.modFeed x.index fun f => { f with request := true, requestWaits := waits })

/-- What a store that has passed its checks comes to: the code of an exception that it meets, and the state. -/
def State.storeChecked (s : State) (a : Access) (b : List Byte) : Option Nat × State :=
  match a.request with
  | none => s.storeFor a b
  | some x =>
    match s.commitRequest a x b with
    | some u => u.storeFor a b
    | none => (some 9, s)

/-! ### The rows -/

/-- An access of a thread through generator `a` at its current address. -/
def Thread.access (t : Thread) (c : CpbSt) (a n align : Nat) (store : Bool) : Access :=
  { b := t.b, slot := t.slot, cfg := t.cfg, place := t.place, ag := a, space := (c.ag a).space, addr := (c.ag a).address,
    n := n, align := align, store := store }

/-- SLD (R161). -/
def sldIssue (s : State) (t : Thread) : Issued :=
  let a := t.access (s.cpb t.b) (iw t.w 35 3) 8 8 false
  match a.check with
  | some code => .trap code a.at_
  | none =>
    if !s.accessReady a then .wait 6
    else
      match s.loadFor a with
      | (.ok b, u) => .go (u.modCpb t.b fun c => c.setSreg (iw t.w 53 5) (BitVec.ofNat 64 (leNat b))) Stream.next
      | (.error _, u) => .go (u.trap t.b t.i t.st.pc 8 a.at_) fun x => { x with st := .faulted }

/-- SLD. -/
def execSld (cpb : Cpb) (stream : StreamIx) (s : State) : Out := issue cpb stream .sld s (sldIssue s)

/-- SST16 (R161): two scalars as one word. -/
def sst16Issue (s : State) (t : Thread) : Issued :=
  let c := s.cpb t.b
  let a := t.access c (iw t.w 35 3) 16 16 true
  let b := leBytes 8 (c.sreg (iw t.w 48 5)).toNat ++ leBytes 8 (c.sreg (iw t.w 43 5)).toNat
  match a.check with
  | some code => .trap code a.at_
  | none =>
    if !s.accessReady a then .wait 6
    else
      match s.storeChecked a b with
      | (none, u) => .go u Stream.next
      | (some code, u) => .go (u.trap t.b t.i t.st.pc code a.at_) fun x => { x with st := .faulted }

/-- SST16. -/
def execSst16 (cpb : Cpb) (stream : StreamIx) (s : State) : Out := issue cpb stream .sst16 s (sst16Issue s)

/-- AGBASE (R160): waits while the generator's engine is busy. -/
def execAgbase (cpb : Cpb) (stream : StreamIx) (s : State) : Out :=
  issue cpb stream .agbase s fun t =>
    let c := s.cpb t.b
    let a := iw t.w 55 3
    if (c.ag a).cur.isSome then .wait 6
    else goCpb s t fun c => c.modAg a fun g =>
      { g with space := iw t.w 48 5, base := ((c.sreg (iw t.w 38 5)).toNat + iw t.w 0 32) % 2 ^ 52, glog := iw t.w 35 3,
               idx := [0, 0, 0, 0] }

/-- A list with entry `i` replaced. -/
def setAt {α : Type} (l : List α) (i : Nat) (x : α) : List α := l.mapIdx fun j y => if j = i then x else y

/-- AGDIM (R160): a count of 0 stands for 2^20. -/
def execAgdim (cpb : Cpb) (stream : StreamIx) (s : State) : Out :=
  issue cpb stream .agdim s fun t =>
    let a := iw t.w 55 3
    let d := iw t.w 53 2
    let n := iw t.w 33 20
    if ((s.cpb t.b).ag a).cur.isSome then .wait 6
    else goCpb s t fun c => c.modAg a fun g =>
      { g with counts := setAt g.counts d (if n = 0 then 2 ^ 20 else n), strides := setAt g.strides d (sext 32 (iw t.w 0 32)),
               idx := [0, 0, 0, 0] }

/-- LD and ST hand a transfer to a generator's engine (R161, R163). -/
def transferIssue (isLoad : Bool) (s : State) (t : Thread) : Issued :=
  let c := s.cpb t.b
  let a := iw t.w 55 3
  let n := if ib t.w 43 then bits (c.sreg (iw t.w 38 5)).toNat 0 32 else iw t.w 0 20
  if (c.ag a).cur.isSome then .wait 6
  else if n = 0 then .go s Stream.next
  else goCpb s t fun c =>
    let x : Transfer := { isLoad := isLoad, queue := iw t.w 44 4, left := n, stream := t.i, pc := t.st.pc, id := c.issued }
    { c.modAg a (fun g => { g with cur := some x }) with issued := c.issued + 1 }

/-- LD. -/
def execLd (cpb : Cpb) (stream : StreamIx) (s : State) : Out := issue cpb stream .ld s (transferIssue true s)

/-- ST. -/
def execSt (cpb : Cpb) (stream : StreamIx) (s : State) : Out := issue cpb stream .st s (transferIssue false s)

/-- The SETs of a stream that waited for a transfer, now complete: its number goes from each, and the flags
of those that wait for none are set in order (R169). -/
def CpbSt.transferDone (c : CpbSt) (id marks : Nat) : CpbSt :=
  let strip (x : Stream) : Stream := { x with sets := x.sets.map fun p => (p.1, p.2.filter (· ≠ id)) }
  let c := (List.range 4).foldl (fun c i => c.modStream i strip) c
  let due := (List.range 4).flatMap fun i => (c.stream i).sets.filterMap fun p => if p.2.isEmpty then some p.1 else none
  let c := (List.range 4).foldl (fun c i => c.modStream i fun x => { x with sets := x.sets.filter fun p => !p.2.isEmpty }) c
  due.foldl (fun c f => c.raiseFlag f marks) c

/-- A transfer is complete: its generator is idle, SETs and commit requests wait for it no more (R135, R169). -/
def State.endTransfer (s : State) (b a id : Nat) : State :=
  let marks := s.orb.marks
  let s := s.modCpb b fun c => (c.modAg a fun g => { g with cur := none }).transferDone id marks
  (s.feeds.map (·.1)).foldl (fun s i =>
    match s.sliceOwner i with
    | some (_, _, x) =>
      if x.block = b then s.modFeed i fun f => { f with requestWaits := f.requestWaits.filter (· ≠ id) } else s
    | none => s) s

/-- One granule of a transfer has moved: the counters step, and the last granule ends it (R160, R161). -/
def State.granuleMoved (s : State) (b a : Nat) (x : Transfer) (rest : List Byte) : State :=
  let s := s.modCpb b fun c => c.modAg a fun g => { g.advance with cur := some { x with left := x.left - 1, partialEntry := rest } }
  if x.left ≤ 1 then s.endTransfer b a x.id else s

/-- A granule is loaded: it joins the entry being filled, which is pushed when it is full or the last (R157). -/
def State.granuleLoad (s : State) (b a : Nat) (x : Transfer) (acc : Access) : State :=
  let q := (s.cpb b).queue x.queue
  let last := x.left ≤ 1
  let fills := x.partialEntry.length + acc.n ≥ 1024
  if (fills ∨ last) ∧ q.room < (if q.tail.isEmpty then 1 else 2) then s
  else
    match s.loadFor acc with
    | (.error k, u) => u.trap b x.stream x.pc 8 { acc.at_ with addr := acc.at_.addr / 16 * 16 + k }
    | (.ok bytes, u) =>
      let e := x.partialEntry ++ bytes
      if fills ∨ last then
        (u.modCpb b fun c => c.modQueue x.queue fun q => q.pushWhole e).granuleMoved b a x []
      else u.granuleMoved b a x e

/-- A granule is stored: its bytes leave the queue (R161). -/
def State.granuleStore (s : State) (b a : Nat) (x : Transfer) (acc : Access) : State :=
  let q := (s.cpb b).queue x.queue
  if q.avail < acc.n then s
  else
    match s.storeChecked acc (q.peek acc.n) with
    | (some code, u) => s.readingQueues b acc.slot x.stream [x.queue] (u.trap b x.stream x.pc code acc.at_)
    | (none, u) =>
      let (gone, _) := q.take acc.n
      s.readingQueues b acc.slot x.stream [x.queue]
        (((u.modCpb b fun c => c.modQueue x.queue fun q => (q.take acc.n).2).popped b x.queue gone).granuleMoved b a x [])

/-- The engine of generator `a` checks and moves one granule (R162). -/
def State.granule (s : State) (b a : Nat) (x : Transfer) : State :=
  match s.placedOn b x.stream with
  | none => s
  | some (p, t, c) =>
    let g := (s.cpb b).ag a
    let acc : Access :=
      { b := b, slot := p.slot, cfg := c, place := t, ag := a, space := g.space, addr := g.address, n := g.granule, align := 16,
        store := !x.isLoad }
    let ordered := if x.isLoad then (s.cpb b).inOrder x.id [] [x.queue] else (s.cpb b).inOrder x.id [x.queue] []
    match acc.check with
    | some code => s.trap b x.stream x.pc code acc.at_
    | none =>
      if !s.accessReady acc || !ordered then s
      else if x.isLoad then s.granuleLoad b a x acc
      else s.granuleStore b a x acc

/-- AG_GRANULE_TRANSFER. -/
def execAgGranuleTransfer (cpb : Cpb) (ag : Fin 8) (s : State) : Out :=
  if s.isFenced (cpb.val / 8) then .next s
  else actWith ((s.cpb cpb.val).ag ag.val).cur s fun x => s.granule cpb.val ag.val x

end Sys2Proof.Machine
end

