-- ==== Sys2Proof/Machine/Vector.lean ====
section
/-!
DEFINITION. The vector unit (spec/06_engine_isa.md R155, R170 to R174).
-/

namespace Sys2Proof.Machine

/-! ### Lanes (R171) -/

/-- A result of the vector unit's arithmetic: rounded once, and flushed to a signed zero where `ftz` is set and
it is subnormal (R170, R171). -/
def vecRound (ftz : Bool) (inv : Bool) (x : Num) : Nat × Cond :=
  let (c, k) := fp32.roundNum .rne x
  let c := if ftz ∧ bits c 23 8 = 0 then bits c 31 1 * 2 ^ 31 else c
  (c, { k with invalid := k.invalid || inv })

/-- The canonical FP32 NaN in place of any NaN. -/
def canonNan (c : Nat) : Nat := if isNan32 c then 0x7FC00000 else c

/-- A sum is infinity minus infinity. -/
def addInvalid : Num → Num → Bool
  | .inf a, .inf b => a != b
  | _, _ => false

/-- A product is zero times an infinity. -/
def mulInvalid : Num → Num → Bool
  | .inf _, y => y.isZero
  | x, .inf _ => x.isZero
  | _, _ => false

/-- The quotient with 40 bits more than a significand and a sticky bit, and whether it is 0 / 0 or ∞ / ∞. -/
def divNum : Num → Num → Num × Bool
  | .nan, _ => (.nan, false)
  | _, .nan => (.nan, false)
  | .inf _, .inf _ => (.nan, true)
  | .inf a, .fin b _ _ => (.inf (a != b), false)
  | .fin a _ _, .inf b => (.fin (a != b) 0 0, false)
  | .fin n1 m1 e1, .fin n2 m2 e2 =>
    if m2 = 0 then (if m1 = 0 then (.nan, true) else (.inf (n1 != n2), false))
    else
      let q := m1 * 2 ^ 64 / m2
      let sticky := if m1 * 2 ^ 64 % m2 = 0 then 0 else 1
      (.fin (n1 != n2) (2 * q + sticky) (e1 - e2 - 65), false)

/-- The integer square root, bit `i` and below still to decide. -/
def isqrtBits (n : Nat) : Nat → Nat → Nat
  | 0, r => r
  | i + 1, r => if (r + 2 ^ i) * (r + 2 ^ i) ≤ n then isqrtBits n i (r + 2 ^ i) else isqrtBits n i r

/-- The square root with a sticky bit, and whether the operand lies below zero. -/
def sqrtNum : Num → Num × Bool
  | .nan => (.nan, false)
  | .inf a => if a then (.nan, true) else (.inf false, false)
  | .fin n m e =>
    if m = 0 then (.fin n 0 0, false)
    else if n then (.nan, true)
    else
      let odd := e % 2 ≠ 0
      let v := (if odd then 2 * m else m) * 2 ^ 64
      let e := if odd then e - 1 else e
      let r := isqrtBits v 48 0
      (.fin false (2 * r + if r * r = v then 0 else 1) (e / 2 - 33), false)

/-- The vector functions of R171 on FP32 codes. -/
def vecLane (fn : Nat) (ftz : Bool) (a b c : Nat) : Nat × Cond :=
  let x := fp32.decode a
  let y := fp32.decode b
  let z := fp32.decode c
  match fn with
  | 0x00 => (canonNan a, {})
  | 0x01 => vecRound ftz (addInvalid x y) (x.add y)
  | 0x02 => vecRound ftz (addInvalid x y.neg) (x.add y.neg)
  | 0x03 => vecRound ftz (mulInvalid x y) (x.mul y)
  | 0x04 => vecRound ftz (mulInvalid x y || addInvalid (x.mul y) z) ((x.mul y).add z)
  | 0x05 => vecRound ftz (mulInvalid x y || addInvalid (x.mul y).neg z) ((x.mul y).neg.add z)
  | 0x06 => vecRound ftz (divNum x y).2 (divNum x y).1
  | 0x07 => vecRound ftz (sqrtNum x).2 (sqrtNum x).1
  | 0x08 =>
    if x.isNan || y.isNan then (0x7FC00000, {})
    else (if x.lt y then a else if y.lt x then b else if x.sign then a else b, {})
  | 0x09 =>
    if x.isNan || y.isNan then (0x7FC00000, {})
    else (if x.lt y then b else if y.lt x then a else if x.sign then b else a, {})
  | 0x0A => (if x.isNan then 0x7FC00000 else a % 2 ^ 31, {})
  | 0x0B => (if x.isNan then 0x7FC00000 else (a + 2 ^ 31) % 2 ^ 32, {})
  | 0x0C => (if x.lt y then 0x3F800000 else 0, {})
  | 0x0D => (if !x.isNan && !y.isNan && !x.lt y && !y.lt x then 0x3F800000 else 0, {})
  | _ => (canonNan (if z.isZero then b else a), {})

/-- One level of the tree of R172: adjacent results are added. -/
def vredLevel (ftz : Bool) : List Nat → List Nat × Cond
  | a :: b :: t =>
    let (c, k) := vecLane 0x01 ftz a b 0
    let (r, q) := vredLevel ftz t
    (c :: r, k.or q)
  | l => (l, {})

/-- The levels of the tree of R172. -/
def vredTree (ftz : Bool) : Nat → List Nat → List Nat × Cond
  | 0, l => (l, {})
  | n + 1, l =>
    let (r, k) := vredLevel ftz l
    let (t, q) := vredTree ftz n r
    (t, k.or q)

/-- The FP32 lanes of bytes. -/
def lanes32 (b : List Byte) : List Nat := (List.range (b.length / 4)).map fun i => leAt b (4 * i) 4

/-- Lanes as bytes. -/
def laneBytes (l : List Nat) : List Byte := l.flatMap (leBytes 4)

/-! ### Sources and destinations (R155 to R157) -/

/-- A source of an operation: queue, bytes, and whether it is kept. -/
structure Source where
  q : Nat
  n : Nat
  keep : Bool

/-- Takes the sources in order: their bytes, the block after, and the popped entries by queue. None where a
queue holds too few bytes. -/
def CpbSt.takeAll (c : CpbSt) : List Source → Option (List (List Byte) × CpbSt × List (Nat × List (List Byte)))
  | [] => some ([], c, [])
  | x :: t =>
    let q := c.queue x.q
    if q.avail < x.n then none
    else
      let b := q.peek x.n
      let (gone, rest) := q.take x.n
      let c := if x.keep then c else c.modQueue x.q fun _ => rest
      match CpbSt.takeAll c t with
      | none => none
      | some (bs, c, ps) => some (b :: bs, c, if x.keep then ps else (x.q, gone) :: ps)

/-- An output of an operation: queue, whether it is packed, bytes. -/
structure Output where
  q : Nat
  pack : Bool
  bytes : List Byte

/-- Pushes the outputs, none where a queue has no room for the whole of one. -/
def CpbSt.pushAll (c : CpbSt) : List Output → Option CpbSt
  | [] => some c
  | o :: t =>
    let q := c.queue o.q
    if q.room < q.needs o.pack o.bytes.length then none
    else (c.modQueue o.q fun q => if o.pack then q.pushPacked o.bytes else q.pushWhole o.bytes).pushAll t

/-- The condition bits of a stream and the summary of its set take conditions: bit 0 `vec_invalid`,
1 `vec_overflow`, 2 `cvt_invalid`, 3 `cvt_overflow` (R183, R186). -/
def CpbSt.addCond (c : CpbSt) (i : Nat) (m : BitVec 4) : CpbSt :=
  let c := c.modStream i fun x => { x with cond := x.cond ||| m }
  match c.placed i with
  | some (p, _) => c.modSet p.slot fun q => { q with cond := q.cond ||| (m.zeroExtend 6 <<< 2) }
  | none => c

/-- Conditions of the vector unit's arithmetic, and of a conversion, as condition bits. -/
def condBits (cvt : Bool) (k : Cond) : BitVec 4 :=
  let m := k.invalid.toNat + 2 * k.overflow.toNat
  BitVec.ofNat 4 (if cvt then 4 * m else m)

/-- A fused conversion of a run with element indices from `base` (R37 to R45, R174, R181). -/
def convertAt (d : Descriptor) (seed : DWord) (base : Nat) (step : Word) (xs : List Num) : List Byte × Cond :=
  let (b, ks) := convertRun d (fun i => rndOf d.rnd seed d.tensor (base + i) step) false xs
  (b, ks.foldl Cond.or {})

/-- Scale bytes and element bytes of a run of quads (R35, R174). -/
def splitQuads (w : Nat) (b : List Byte) : List Byte × List Byte :=
  let n := 4 + 16 * w
  let qs := (List.range (b.length / n)).map fun i => slice b (n * i) n
  (qs.flatMap (·.take 4), qs.flatMap (·.drop 4))

/-- The descriptor that an instruction names. -/
def JobCfg.desc (c : JobCfg) (d : Nat) : Descriptor := c.descs.getD d ⟨0, 0, false, 0, 0, 0, 0⟩

/-! ### Operations -/

/-- The sources of a vector operation (R171 to R174). -/
def vecSources (o : Opc) (w : DWord) : List Source :=
  let a (n : Nat) : Source := { q := iw w 50 4, n := n, keep := ib w 36 }
  let (b, c) := vecReads (iw w 29 5)
  let sc : List Source := if c then [{ q := iw w 42 4, n := 1024, keep := ib w 34 }] else []
  match o with
  | .vop => a 1024 :: ((if b then [{ q := iw w 46 4, n := 1024, keep := ib w 35 }] else []) ++ sc)
  | .vops => a 1024 :: sc
  | .vunpk => [a (storedSize (iw w 15 4) 256)]
  | _ => [a 1024]

/-- The output bytes of a vector operation to Qd and to Qe, with the conditions it sets. A VUNPK of format 0x0 copies
its source as R173 says, NaN codes too (DESIGN CHOICE beside R31 and R50, notes/assumptions/116.md). -/
def vecResult (o : Opc) (cfg : JobCfg) (u : UnitOp) (src : List (List Byte)) : List Byte × List Byte × BitVec 4 :=
  let w := u.word
  let fn := iw w 29 5
  let a := lanes32 (src.getD 0 [])
  let scalar := List.replicate 256 (bits u.s1.toNat 0 32)
  let run (b c : List Nat) : List Byte × List Byte × BitVec 4 :=
    let r := (List.range 256).map fun i => vecLane fn u.ftz (a.getD i 0) (b.getD i 0) (c.getD i 0)
    let out := laneBytes (r.map (·.1))
    (out, out, condBits false (r.foldl (fun k x => k.or x.2) {}))
  let (rb, rc) := vecReads fn
  match o with
  | .vop => run (if rb then lanes32 (src.getD 1 []) else []) (if rc then lanes32 (src.getD 2 []) else [])
  | .vops => run scalar (if rc then lanes32 (src.getD 1 []) else [])
  | .vred =>
    let (t, k) := vredTree u.ftz 8 a
    let out := laneBytes (t ++ List.replicate 255 0)
    (out, out, condBits false k)
  | .vunpk =>
    let b := src.getD 0 []
    let fmt := iw w 15 4
    if fmt = 0 then (b, b, 0)
    else
      let r := (List.range 256).map fun i => fp32.roundNum .rne (tensorNum fmt b i)
      let out := laneBytes (r.map (·.1))
      (out, out, condBits false (r.foldl (fun k x => k.or x.2) {}))
  | _ =>
    let d := cfg.desc (iw w 15 4)
    let (out, k) := convertAt d cfg.seed u.s1.toNat (word (u.s2.toNat % 2 ^ 32)) (a.map fun x => fp32.decode x)
    if ib w 13 ∧ ib w 37 ∧ blockScaled d.fmt then
      let (sc, el) := splitQuads (fmtBits d.fmt) out
      (el, sc, condBits true k)
    else (out, out, condBits true k)

/-- The outputs of a vector operation. -/
def vecOutputs (o : Opc) (w : DWord) (d e : List Byte) : List Output :=
  let pack := o == .vcvt && ib w 14
  let also := (o == .vop || o == .vops || o == .vcvt) && ib w 37
  { q := iw w 54 4, pack := pack, bytes := d } :: (if also then [{ q := iw w 38 4, pack := pack, bytes := e }] else [])

/-- The operation that the vector unit holds for a stream runs, where its sources and destinations are
ready (R155). -/
def State.vectorOp (s : State) (b i : Nat) (u : UnitOp) : State :=
  match s.placedOn b i, opcOf u.word with
  | some (p, _, cfg), some o =>
    let c := s.cpb b
    if !c.inOrder u.id (o.uses u.word).cons (o.uses u.word).prod then s
    else
      match c.takeAll (vecSources o u.word) with
      | none => s
      | some (src, c, gone) =>
        let (d, e, k) := vecResult o cfg u src
        match c.pushAll (vecOutputs o u.word d e) with
        | none => s
        | some c =>
          let c := { ((c.modStream i fun x => { x with vec := x.vec.drop 1 }).addCond i k) with vecLast := i }
          s.readingQueues b p.slot i ((vecSources o u.word).map (·.q))
            (gone.foldl (fun s p => s.popped b p.1 p.2) (s.modCpb b fun _ => c))
  | _, _ => s

/-- The vector unit holds an operation of stream `i` whose sources and destinations are ready (R155). -/
def State.vecReady (s : State) (b i : Nat) : Bool :=
  match ((s.cpb b).stream i).vec, s.placedOn b i with
  | u :: _, some (_, _, cfg) =>
    match opcOf u.word with
    | some o =>
      (s.cpb b).inOrder u.id (o.uses u.word).cons (o.uses u.word).prod &&
      (match (s.cpb b).takeAll (vecSources o u.word) with
       | some (src, c, _) =>
         (c.pushAll (vecOutputs o u.word (vecResult o cfg u src).1 (vecResult o cfg u src).2.1)).isSome
       | none => false)
    | none => false
  | _, _ => false

/-- It is the turn of stream `i` in the round robin of the vector unit (R155). -/
def State.vecTurn (s : State) (b i : Nat) : Bool := roundRobin 4 (s.cpb b).vecLast i (s.vecReady b)

/-- VECTOR_OPERATION. -/
def execVectorOperation (cpb : Cpb) (stream : StreamIx) (s : State) : Out :=
  if s.isFenced (cpb.val / 8) || !s.vecTurn cpb.val stream.val then .next s
  else actWith ((s.cpb cpb.val).stream stream.val).vec.head? s fun u => s.vectorOp cpb.val stream.val u

/-! ### Issue -/

/-- Why the operation that the vector unit holds for a stream does not run: 1 a source lacks bytes, 2 a
destination lacks room. -/
def CpbSt.vecCause (c : CpbSt) (u : UnitOp) : Nat :=
  match opcOf u.word with
  | some o => if (vecSources o u.word).all fun x => x.n ≤ (c.queue x.q).avail then 2 else 1
  | none => 1

/-- A vector instruction is handed to the vector unit, which holds one operation of each stream: with one held
the stream waits for it (notes/assumptions/58.md). Scalars and `ftz` are read at issue. -/
def vecIssue (s : State) (t : Thread) : Issued :=
  let c := s.cpb t.b
  match t.st.vec with
  | u :: _ => .wait (c.vecCause u)
  | [] =>
    let u : UnitOp := { word := t.w, stream := t.i, pc := t.st.pc, id := c.issued, s1 := c.sreg (iw t.w 24 5),
                        s2 := c.sreg (iw t.w 19 5), ftz := t.st.ftz }
    .go (s.modCpb t.b fun c => { c with issued := c.issued + 1 }) fun x => { Stream.next x with vec := [u] }

/-- VOP. -/
def execVop (cpb : Cpb) (stream : StreamIx) (s : State) : Out := issue cpb stream .vop s (vecIssue s)

/-- VOPS. -/
def execVops (cpb : Cpb) (stream : StreamIx) (s : State) : Out := issue cpb stream .vops s (vecIssue s)

/-- VRED. -/
def execVred (cpb : Cpb) (stream : StreamIx) (s : State) : Out := issue cpb stream .vred s (vecIssue s)

/-- VUNPK. -/
def execVunpk (cpb : Cpb) (stream : StreamIx) (s : State) : Out := issue cpb stream .vunpk s (vecIssue s)

/-- VCVT. -/
def execVcvt (cpb : Cpb) (stream : StreamIx) (s : State) : Out := issue cpb stream .vcvt s (vecIssue s)

end Sys2Proof.Machine
end

