-- ==== Sys2Proof/Machine/Matrix.lean ====
section
/-!
DEFINITION. The matrix cells (spec/06_engine_isa.md R175 to R183).
-/

namespace Sys2Proof.Machine

/-! ### Group sums (R177, R179) -/

/-- The window of a format in bits, none where products are summed exactly. -/
def groupWindow (fmt : Nat) : Option Nat :=
  if fmt = 1 ∨ fmt = 2 then some 96 else if fmt = 0 then some 112 else none

/-- A finite value truncated toward zero to a multiple of 2^u. -/
def Num.truncTo (u : Int) : Num → Num
  | .fin n m e => if e ≥ u then .fin n m e else .fin n (m / 2 ^ (u - e).toNat) u
  | x => x

/-- The exact sum of finite values. -/
def sumNums (l : List Num) : Num := l.foldl Num.add (.fin false 0 0)

/-- The group sum of the pairs of operands of one element, exact or special, with invalid (R177). -/
def groupSum (fmt : Nat) (scale : Int) (pairs : List (Num × Num)) : Num × Bool :=
  let ps := pairs.map fun p => p.1.mul p.2
  if pairs.any fun p => p.1.isNan || p.2.isNan then (.nan, false)
  else if pairs.any fun p => mulInvalid p.1 p.2 then (.nan, true)
  else if ps.contains (.inf false) ∧ ps.contains (.inf true) then (.nan, true)
  else if ps.contains (.inf false) then (.inf false, false)
  else if ps.contains (.inf true) then (.inf true, false)
  else
    let ps := ps.map fun
      | .fin n m e => .fin n m (e + scale)
      | x => x
    let ps := match groupWindow fmt, maxExponent ps with
      | some w, some e => ps.map (Num.truncTo (e - w + 1))
      | _, _ => ps
    (sumNums ps, false)

/-- A group sum rounded to ACC40: a zero result is +0 (R50, R177). -/
def groupCode (x : Num) : Nat × Bool :=
  let (c, k) := acc40.roundNum .rne x
  (if c % 2 ^ 39 = 0 then 0 else c, k.overflow)

/-- An ACC40 element after a float-mode step: the code, invalid, overflow (R177). -/
def accStep (acc : BitVec 40) (g : Num) (inv : Bool) : BitVec 40 × Bool × Bool :=
  let x := acc40.decode acc.toNat
  let (gc, o1) := groupCode g
  let y := acc40.decode gc
  let (c, k) := acc40.roundNum .rne (x.add y)
  (BitVec.ofNat 40 c, inv || addInvalid x y, o1 || k.overflow)

/-- An integer-mode element after a step: the sum saturates, and saturation is overflow (R178). -/
def accStepInt (acc : BitVec 40) (g : Int) : BitVec 40 × Bool :=
  let v := acc.toInt + g
  let lim : Int := 2 ^ 39
  if v < -lim then (BitVec.ofInt 40 (-lim), true)
  else if v ≥ lim then (BitVec.ofInt 40 (lim - 1), true)
  else (BitVec.ofInt 40 v, false)

/-- The integer value of a group sum of integer operands. -/
def Num.toInt : Num → Int
  | .fin n m e => let v : Int := if e ≥ 0 then m * 2 ^ e.toNat else m / 2 ^ (-e).toNat; if n then -v else v
  | _ => 0

/-! ### Panels (R175, R176, R179) -/

/-- Bytes of a panel. -/
def panelBytes (fmt : Nat) : Nat := 1024 * fmtBits fmt / 8

/-- A panel's values by element position. -/
def panel (fmt : Nat) (b : List Byte) : List Num := (List.range 1024).map fun i => elemNum fmt (elemCode (fmtBits fmt) b i)

/-- The operands of element (i, j) (R175, R176). -/
def pairsOf (a b : List Num) (ta tb : Bool) (i j : Nat) : List (Num × Num) :=
  (List.range 32).map fun k =>
    (a.getD (if ta then 32 * k + i else 32 * i + k) .nan, b.getD (if tb then 32 * j + k else 32 * k + j) .nan)

/-- The scale of element (i, j): none where a scale is NaN (R179). -/
def pairScale (fmt : Nat) (s : List Byte) (i j : Nat) : Option Int :=
  if blockScaled fmt then
    let x := s.getD i 0
    let y := s.getD (32 + j) 0
    if x = 0xFF ∨ y = 0xFF then none else some ((x.toNat : Int) - 127 + ((y.toNat : Int) - 127))
  else some 0

/-- The group sum of element (i, j) of a step. -/
def elementSum (fmt : Nat) (a b : List Num) (s : List Byte) (ta tb : Bool) (i j : Nat) : Num × Bool :=
  match pairScale fmt s i j with
  | none => (.nan, false)
  | some x => groupSum fmt x (pairsOf a b ta tb i j)

/-- What a step does to an accumulator: the elements, the lowest element that raised invalid, overflow. -/
structure StepResult where
  vals : Tbl (BitVec 40)
  inv : Option Nat
  ovf : Bool

/-- One K-group step over the 1,024 elements, in row-major order (R177, R178, R182). -/
def stepAcc (intMode : Bool) (fmt : Nat) (a b : List Num) (s : List Byte) (ta tb : Bool) (vals : Tbl (BitVec 40)) : StepResult :=
  (List.range 1024).foldl (fun r e =>
    let (g, inv) := elementSum fmt a b s ta tb (e / 32) (e % 32)
    let old := vals.look 0 e
    if intMode then
      let (v, o) := accStepInt old g.toInt
      { r with vals := r.vals.put 0 e v, ovf := r.ovf || o }
    else
      let (v, i, o) := accStep old g inv
      { vals := r.vals.put 0 e v, inv := if i then (r.inv.or (some e)) else r.inv, ovf := r.ovf || o })
    { vals := vals, inv := none, ovf := false }

/-! ### Rows -/

/-- The accumulator with number 4 × cell + acc. -/
def CpbSt.accAt (c : CpbSt) (n : Nat) : Acc := c.accs.look {} n

/-- An accumulator changed by `f`. -/
def CpbSt.modAcc (c : CpbSt) (n : Nat) (f : Acc → Acc) : CpbSt := { c with accs := c.accs.upd {} n f }

/-- An instruction is handed to a cell, whose buffer holds four for each accumulator (R155). -/
def cellIssue (s : State) (t : Thread) (left : Nat) : Issued :=
  let c := s.cpb t.b
  let n := iwAcc t.w
  if (c.accAt n).buffer.length ≥ 4 then .wait 4
  else
    let u : UnitOp := { word := t.w, stream := t.i, pc := t.st.pc, id := c.issued, s1 := c.sreg (iw t.w 24 5),
                        s2 := c.sreg (iw t.w 19 5), left := left }
    goCpb s t fun c => { c.modAcc n (fun a => { a with buffer := a.buffer ++ [u] }) with issued := c.issued + 1 }

/-- MMA and MMAT: a repeat of 0 performs no step. -/
def mmaIssue (s : State) (t : Thread) : Issued :=
  if iw t.w 0 16 = 0 then .go s Stream.next else cellIssue s t (iw t.w 0 16)

/-- MMA. -/
def execMma (cpb : Cpb) (stream : StreamIx) (s : State) : Out := issue cpb stream .mma s (mmaIssue s)

/-- MMAT. -/
def execMmat (cpb : Cpb) (stream : StreamIx) (s : State) : Out := issue cpb stream .mmat s (mmaIssue s)

/-- The operation at the head of an accumulator's buffer where it is one of `os`. -/
def CpbSt.accHead (c : CpbSt) (n : Nat) (os : List Opc) : Option (UnitOp × Opc) :=
  match (c.accAt n).buffer with
  | u :: _ =>
    match opcOf u.word with
    | some o => if os.contains o then some (u, o) else none
    | none => none
  | [] => none

/-- The sources of a K-group step (R175, R179). -/
def stepSources (w : DWord) : List Source :=
  let fmt := iw w 37 4
  [{ q := iw w 49 4, n := panelBytes fmt, keep := ib w 36 }, { q := iw w 45 4, n := panelBytes fmt, keep := ib w 35 }] ++
  (if blockScaled fmt then [{ q := iw w 41 4, n := 64, keep := false }] else [])

/-- The step's head of the buffer has one step less, or is complete. -/
def steppedAcc (a : Acc) : Acc :=
  { a with
    ksteps := a.ksteps + 1
    buffer := match a.buffer with
      | u :: t => if u.left ≤ 1 then t else { u with left := u.left - 1 } :: t
      | [] => [] }

/-- The conditions of a step in the set's summary, and its first invalid (R182, R183). -/
def ProgSet.noteStep (p : ProgSet) (inv : Option InvCap) (ovf : Bool) : ProgSet :=
  let m := inv.isSome.toNat + 2 * ovf.toNat
  { p with cond := p.cond ||| BitVec.ofNat 6 m, inv := match p.inv with | some x => some x | none => inv }

/-- One K-group step of the instruction at the head of accumulator `n` (R155, R175 to R179, R182). -/
def State.kgroup (s : State) (b n : Nat) (u : UnitOp) (o : Opc) : State :=
  let s0 := s
  let w := u.word
  let fmt := iw w 37 4
  match s.placedOn b u.stream with
  | none => s
  | some (p, _, _) =>
    let c := s.cpb b
    let a := c.accAt n
    if a.intMode ∧ fmt ≠ 6 ∧ fmt ≠ 7 then s.trap b u.stream u.pc 7
    else if !c.inOrder u.id (o.uses w).cons [] then s
    else
      match c.takeAll (stepSources w) with
      | none => s
      | some (src, c, gone) =>
        let t := o == .mmat
        let r := stepAcc a.intMode fmt (panel fmt (src.getD 0 [])) (panel fmt (src.getD 1 [])) (src.getD 2 [])
          (t && ib w 34) (t && ib w 33) a.vals
        let cap := r.inv.map fun e =>
          { cell := n / 4, acc := n % 4, row := e / 32, col := e % 32, stream := u.stream, kstep := a.ksteps, pc := u.pc : InvCap }
        let c := c.modAcc n fun a => { steppedAcc a with vals := r.vals, inv := a.inv || r.inv.isSome, ovf := a.ovf || r.ovf }
        let c := c.modSet p.slot fun q => q.noteStep cap r.ovf
        let s := s.modCpb b fun _ => c
        let s := if cap.isSome ∧ p.inv.isNone then
            s.raise { pg := pgCpb b, ev := 3, unit := u.stream, access := 0, akind := 7, addr := u.pc, job := some p.slot }
          else s
        s0.readingQueues b p.slot u.stream ((stepSources w).map (·.q)) (gone.foldl (fun s x => s.popped b x.1 x.2) s)

/-- An accumulator with every element +0 and its flags clear (R180). -/
def Acc.zero (intMode : Bool) (a : Acc) : Acc :=
  { a with intMode := intMode, vals := [], inv := false, ovf := false, ksteps := 0 }

/-- The elements of an accumulator in row-major order. -/
def Acc.elems (a : Acc) : List (BitVec 40) := (List.range 1024).map fun i => a.vals.look 0 i

/-- The output of RELEASE (R181): raw containers of R33, or the elements through a descriptor. -/
def releaseBytes (cfg : JobCfg) (a : Acc) (u : UnitOp) : List Byte × Cond :=
  let d := iw u.word 37 4
  if d = 0 then (a.elems.flatMap fun x => leBytes 8 x.toNat, {})
  else
    let xs := a.elems.map fun x => if a.intMode then Num.ofInt x.toInt else acc40.decode x.toNat
    convertAt (cfg.desc d) cfg.seed u.s1.toNat (word (u.s2.toNat % 2 ^ 32)) xs

/-- The head of an accumulator's buffer is complete. -/
def Acc.popHead (a : Acc) : Acc := { a with buffer := a.buffer.drop 1 }

/-- A cell runs a RELEASE (R181). -/
def State.releaseRun (s : State) (b n : Nat) (u : UnitOp) : State :=
  match s.placedOn b u.stream with
  | none => s
  | some (_, _, cfg) =>
    let c := s.cpb b
    let a := c.accAt n
    if !c.inOrder u.id [] [iw u.word 49 4] then s
    else
      let (out, k) := releaseBytes cfg a u
      match c.pushAll [{ q := iw u.word 49 4, pack := ib u.word 32, bytes := out }] with
      | none => s
      | some c =>
        let c := c.modAcc n fun a => (if ib u.word 36 then a.zero a.intMode else a).popHead
        s.modCpb b fun _ => c.addCond u.stream (condBits true k)

/-- A cell runs a ZACC (R180). -/
def State.zaccRun (s : State) (b n : Nat) (u : UnitOp) : State :=
  s.modCpb b fun c => c.modAcc n fun a => (a.zero (ib u.word 36)).popHead

/-- Elements of an accumulator from containers (R33, R180). -/
def loadVals (b : List Byte) : Tbl (BitVec 40) :=
  (List.range 1024).foldl (fun (t : Tbl (BitVec 40)) i => t.put 0 i (BitVec.ofNat 40 (leAt b (8 * i) 8))) ([] : List (Nat × BitVec 40))

/-- A cell runs an ACCLD (R180). -/
def State.accldRun (s : State) (b n : Nat) (u : UnitOp) : State :=
  let c := s.cpb b
  let slot := match c.placed u.stream with | some (p, _) => p.slot | none => 0
  let q := iw u.word 49 4
  if !c.inOrder u.id [q] [] then s
  else
    match c.takeAll [{ q := q, n := 8192, keep := false }] with
    | none => s
    | some (src, c, gone) =>
      let c := c.modAcc n fun a => { a.zero (ib u.word 36) with vals := loadVals (src.getD 0 []) }.popHead
      s.readingQueues b slot u.stream [q] (gone.foldl (fun s x => s.popped b x.1 x.2) (s.modCpb b fun _ => c))

/-- The instruction at the head of accumulator `n`'s buffer is ready: its sources hold what it takes, and its
destination has room (R155). -/
def State.accReady (s : State) (b n : Nat) : Bool :=
  let c := s.cpb b
  match (c.accAt n).buffer with
  | [] => false
  | u :: _ =>
    match opcOf u.word, s.placedOn b u.stream with
    | some .zacc, _ => true
    | some .release, some (_, _, cfg) =>
      c.inOrder u.id [] [iw u.word 49 4] &&
      (c.pushAll [{ q := iw u.word 49 4, pack := ib u.word 32, bytes := (releaseBytes cfg (c.accAt n) u).1 }]).isSome
    | some .accld, _ => c.inOrder u.id [iw u.word 49 4] [] && (c.takeAll [{ q := iw u.word 49 4, n := 8192, keep := false }]).isSome
    | some o, some _ =>
      ((c.accAt n).intMode && iw u.word 37 4 != 6 && iw u.word 37 4 != 7) ||
      (c.inOrder u.id (o.uses u.word).cons [] && (c.takeAll (stepSources u.word)).isSome)
    | _, _ => false

/-- It is the turn of accumulator `acc` in the round robin of a cell (R155). -/
def State.cellTurn (s : State) (b cell acc : Nat) : Bool :=
  roundRobin 4 ((s.cpb b).cellLast.look 3 cell) acc fun a => s.accReady b (4 * cell + a)

/-- A cell has served an accumulator. -/
def State.cellServed (s : State) (b cell acc : Nat) : State :=
  s.modCpb b fun c => { c with cellLast := c.cellLast.put 3 cell acc }

/-- A cell serves an accumulator whose turn it is and whose buffer one of `os` heads, by `run`. -/
def cellRun (cpb : Cpb) (cell : Fin 8) (acc : Fin 4) (os : List Opc) (s : State) (run : Nat → UnitOp × Opc → State) : Out :=
  let n := 4 * cell.val + acc.val
  if s.isFenced (cpb.val / 8) || !s.cellTurn cpb.val cell.val acc.val then .next s
  else actWith ((s.cpb cpb.val).accHead n os) s fun x => (run n x).cellServed cpb.val cell.val acc.val

/-- KGROUP_STEP. -/
def execKgroupStep (cpb : Cpb) (cell : Fin 8) (acc : Fin 4) (s : State) : Out :=
  cellRun cpb cell acc [.mma, .mmat] s fun n x => s.kgroup cpb.val n x.1 x.2

/-- A row of a cell: an issue by a stream, or the run of the head of an accumulator's buffer by `run`. -/
def cellRow (cpb : Cpb) (phase : CellPhase) (o : Opc) (s : State) (run : Nat → UnitOp → State) : Out :=
  match phase with
  | .issue i => issue cpb i o s fun t => cellIssue s t 0
  | .run cell acc => cellRun cpb cell acc [o] s fun n x => run n x.1

/-- RELEASE. -/
def execRelease (cpb : Cpb) (phase : CellPhase) (s : State) : Out :=
  cellRow cpb phase .release s fun n u => s.releaseRun cpb.val n u

/-- ZACC. -/
def execZacc (cpb : Cpb) (phase : CellPhase) (s : State) : Out := cellRow cpb phase .zacc s fun n u => s.zaccRun cpb.val n u

/-- ACCLD. -/
def execAccld (cpb : Cpb) (phase : CellPhase) (s : State) : Out := cellRow cpb phase .accld s fun n u => s.accldRun cpb.val n u

end Sys2Proof.Machine
end

