-- ==== Sys2Proof/Machine/Power.lean ====
section
/-!
DEFINITION. The power and clock blocks (spec/15_module_hardware.md): the power sequence and its
failures (spec/14_faults.md R409), the sensors, the step level of the clocks, and the load governor.
-/

namespace Sys2Proof.Machine

/-! ### Chip reset and the power sequence (R424 to R426) -/

/-- A chip reset closes the open sessions; which of the reasons of R344 its CLOSE gives is free (notes/assumptions/125.md). -/
def State.resetCloses (s : State) : State :=
  if !s.awake then s
  else s.openSessions.foldl (fun s i => let (n, s) := s.fresh; s.sendClose i (1 + n % 3)) s

/-- The state at a chip reset, after its CLOSE messages: what flash, the pins and the always-on domain hold stays; a record cut short is torn;
`CLK_CTRL.ref_src` is taken (R419, R421, R425). -/
def State.chipReset (s : State) : State :=
  let s := s.resetCloses
  { State.reset with
    free := s.free
    out := s.out
    pending := s.pending
    sec :=
      { bank0 := s.sec.bank0, bank1 := s.sec.bank1, active := s.sec.active, anchors := s.sec.anchors,
        anchorPair := s.sec.anchorPair, fwPair := s.sec.fwPair, netRecord := s.sec.netRecord,
        netOk := s.sec.netOk }
    flt :=
      { log := s.flt.log, nextSeq := s.flt.continuesAt, boots := s.flt.boots, torn := s.flt.torn || s.flt.writing.isSome }
    pwr :=
      { vin := s.pwr.vin, aux := s.pwr.aux, pwrEn := s.pwr.pwrEn, rails := s.pwr.rails, railBad := s.pwr.railBad,
        pgood := s.pwr.pgood, hot := s.pwr.hot, temps := s.pwr.temps, tempValid := s.pwr.tempValid,
        refInUse := s.rbit pgClk Off.CLK_CTRL 0 } }

/-- The main stages start where PWR_EN is high and the input has reached 46 V: the rails come up and PWR_GOOD is
released, with the chip in reset (R424). With the rails still up, PWR_GOOD is released again (R426). -/
def State.startStages (s : State) : State :=
  if s.pwr.aux ∧ s.pwr.pwrEn ∧ 4600 ≤ s.pwr.vin.toNat ∧ !s.pwr.railBad then
    if !s.pwr.rails then
      let s := s.chipReset
      { s with pwr := { s.pwr with rails := true, pgood := true } }
    else if s.pwr.inReset then { s with pwr := { s.pwr with pgood := true } }
    else s
  else s

/-- The input of a module that no power failure holds in the shed state may start its stages (R424, R426). -/
def State.inputSeen (s : State) : State := if s.pwr.powerFailed then s else s.startStages

/-- The main stages switch off. -/
def State.stopStages (s : State) : State :=
  { s with pwr := { s.pwr with rails := false, pgood := false, inReset := true } }

/-- AUX_POWER_UP: at 36 V and above. -/
def execAuxPowerUp (vin : BitVec 16) (s : State) : Out :=
  actIf (decide (3600 ≤ vin.toNat)) s ({ s with pwr := { s.pwr with vin := vin, aux := true } }).inputSeen

/-- Nothing but flash and the pins outlives the loss of the auxiliary supply. -/
def State.auxOff (s : State) (vin : BitVec 16) : State :=
  let s := s.chipReset
  { s with pwr := { vin := vin, pwrEn := s.pwr.pwrEn } }

/-- AUX_POWER_DOWN: below 36 V. -/
def execAuxPowerDown (vin : BitVec 16) (s : State) : Out :=
  actIf (s.pwr.aux && decide (vin.toNat < 3600)) s (s.auxOff vin)

/-- PWR_EN_HIGH. -/
def execPwrEnHigh (s : State) : Out :=
  actIf (!s.pwr.pwrEn) s ({ s with pwr := { s.pwr with pwrEn := true } }).startStages

/-- RESET_N: a chip reset with the rails kept up; stages that a power failure switched off start again. -/
def execResetN (s : State) : Out := actIf s.pwr.aux s s.chipReset.startStages

/-! ### Power failure (R409, R426) -/

/-- The fabric lanes are silent: every fabric port is down and none retries. -/
def State.silenceFabric (s : State) : State :=
  let ps := s.ports.map (·.1)
  let s := ps.foldl (fun s p => s.portDown p .disabled) s
  { s with ports := s.ports.mapVals fun x => { x with retryAt := none } }

/-- The domains of R409 stop, with the fabric lanes silent. -/
def State.shedLoad (s : State) : State :=
  let s := s.silenceFabric
  { s with pwr := { s.pwr with shed := true } }

/-- The power-failure record: an interrupted record is completed first, the waiting ones are lost (R406, R409). -/
def State.powerRecord (s : State) (cause : Nat) : State :=
  let cut := s.flt.writing.isSome
  let s := match s.flt.writing with | some r => s.commitRecord r false | none => s
  let s := s.loseRecords s.flt.queue.length
  let s := { s with flt := { s.flt with queue := [] } }
  let s := s.logFault 3 12 false (wordBytes (s.capture pgFlt)) [] (leBytes 4 cause)
  match s.flt.queue with
  | [] => s
  | r :: _ => ({ s with flt := { s.flt with queue := [] } }).commitRecord r cut

/-- The sequence of R409: the chip-fatal state with `power_fail`, silent lanes, stopped domains, the frozen angle, and
the record. -/
def State.powerFailure (s : State) (cause : Nat) : State :=
  let s := { s with pwr := { s.pwr with pgood := false }, flt := { s.flt with powerFail := true } }
  let s := State.settle 4096 (s.raise { pg := pgFlt, ev := 2, syn := word cause })
  let s := { s with todo := [] }
  let s := s.shedLoad
  let s := { s with hostPorts := [], pwr := { s.pwr with powerFailed := true } }
  s.powerRecord cause

/-- The chip runs in the sense of R426: out of reset, neither shut (R452) nor stopped by a power failure before. -/
def State.chipRuns (s : State) : Bool := s.awake && s.boot.shutState != 2

/-- An input below 44 V. -/
def State.underVoltage (s : State) (vin : BitVec 16) : State :=
  let s := { s with pwr := { s.pwr with vin := vin, pgood := false } }
  if s.chipRuns then s.powerFailure 1 else s

/-- POWER_FAILURE. -/
def execPowerFailure (vin : BitVec 16) (s : State) : Out :=
  actIf (s.pwr.rails && decide (vin.toNat < 4400)) s (s.underVoltage vin)

/-- An input above 57.5 V: the sequence, and the main stages switch off after the record. -/
def State.overVoltage (s : State) (vin : BitVec 16) : State :=
  let s := { s with pwr := { s.pwr with vin := vin, pgood := false } }
  (if s.chipRuns then (s.raise { pg := pgPwr, ev := 1 }).powerFailure 2 else s).stopStages

/-- INPUT_OVERVOLTAGE. -/
def execInputOvervoltage (vin : BitVec 16) (s : State) : Out :=
  actIf (s.pwr.rails && decide (5750 < vin.toNat)) s (s.overVoltage vin)

/-- PWR_EN goes low: the sequence where the chip runs, and the main stages switch off. -/
def State.enableLow (s : State) : State :=
  let s := { s with pwr := { s.pwr with pwrEn := false, pgood := false, railBad := false } }
  (if s.chipRuns then s.powerFailure 3 else s).stopStages

/-- PWR_EN_LOW. -/
def execPwrEnLow (s : State) : Out := actIf s.pwr.pwrEn s s.enableLow

/-- A rail leaves regulation, which holds PWR_GOOD asserted until PWR_EN goes low (R424). -/
def State.railFails (s : State) : State :=
  let s := { s with pwr := { s.pwr with pgood := false, railBad := true } }
  if s.awake then s.raise { pg := pgPwr, ev := 2 } else s

/-- RAIL_FAULT. -/
def execRailFault (s : State) : Out := actIf s.pwr.rails s s.railFails

/-- INPUT_LOW: from 44 V to below 46 V. -/
def execInputLow (vin : BitVec 16) (s : State) : Out :=
  let t := { s with pwr := { s.pwr with vin := vin } }
  actIf (s.pwr.aux && decide (4400 ≤ vin.toNat ∧ vin.toNat < 4600)) s (if s.awake then t.raise { pg := pgPwr, ev := 0 } else t)

/-! ### Clocks (R431, R438) -/

/-- What a clock fault raises. -/
def State.clockFails (s : State) : ClockFault → State
  | .reference => s.raise { pg := pgClk, ev := 2 }
  | .domain d =>
    ({ s with pwr := { s.pwr with locked := s.pwr.locked &&& ~~~(1#18 <<< d.val) } }).raise { pg := pgClk, ev := 1, syn := word d.val }

/-- CLOCK_FAULT. -/
def execClockFault (f : ClockFault) (s : State) : Out := actIf s.awake s (s.clockFails f)

/-! ### The step level (R434, R435) -/

/-- `CLK_STEP.floor`, of which 3 stands for 2 (R465). -/
def State.clockFloor (s : State) : Nat := s.rfld pgClk Off.CLK_STEP 0 2

/-- The level that the floor and the two levels ask for. -/
def State.stepTarget (s : State) : Nat := max s.clockFloor (max s.pwr.tlevel s.pwr.plevel)

/-- A step level is taken: counted, and raised with the old and new level and the cause. -/
def State.setLevel (s : State) (l : Nat) : State :=
  let old := s.pwr.level
  let s := { s with pwr := { s.pwr with level := l } }
  (s.bump pgClk Off.CLK_STEP_N).raise { pg := pgClk, ev := 0, syn := word (old + l * 4 + s.pwr.cause * 16) }

/-- 10 ms have passed since the last fall. -/
def State.mayFall (s : State) : Bool := match s.pwr.lastFall with | some t => decide (t + 10 ^ 7 ≤ s.now) | none => true

/-- The level follows its target: a rise at once, a fall by one level at most once per 10 ms. -/
def State.followLevel (s : State) : State :=
  let l := s.pwr.level
  let t := s.stepTarget
  if l < t then s.setLevel t
  else if t < l ∧ s.mayFall then ({ s with pwr := { s.pwr with lastFall := some s.now } }).setLevel (l - 1)
  else s

/-- A change of the floor or of a level, remembered as the cause where it moves the target. -/
def State.moveTarget (s : State) (cause : Nat) (f : State → State) : State :=
  let t := f s
  let t := if t.stepTarget = s.stepTarget then t else { t with pwr := { t.pwr with cause := cause } }
  t.followLevel

/-! ### Sensors (R432, R434, R436, R437) -/

/-- The reading of sensor `i`, where it is valid, in 1/16 degree. -/
def State.temp (s : State) (i : Nat) : Option Int := if s.pwr.tempValid.contains i then some (s.pwr.temps.look 0 i) else none

/-- Degrees in 1/16 degree. -/
def degrees (n : Nat) : Int := 16 * (n : Int)

/-- The junction temperature and the sensor that gives it: the highest valid junction reading, the lowest such sensor;
where every sensor of a region fails, `trip`, of a sensor left open. -/
def State.junction (s : State) : Int × Nat :=
  if (List.range 4).any fun r => (List.range 16).all fun i => (s.temp (16 * r + i)).isNone then
    (degrees 110, Config.freeNat s.free % 64)
  else
    (List.range 64).foldl (fun (b : Int × Nat) i => match s.temp i with | some t => if b.1 < t then (t, i) else b | none => b)
      (-32768, 0)

/-- Some valid sensor from `lo` to below `hi` satisfies `p`. -/
def State.anyTemp (s : State) (lo hi : Nat) (p : Int → Bool) : Bool :=
  (List.range (hi - lo)).any fun i => match s.temp (lo + i) with | some t => p t | none => false

/-- The readings are stored; a sensor that fails its self-check raises `sensor_fail`. -/
def State.storeTemps (s : State) (l : List (Option Int)) : State :=
  let pairs := l.zipIdx
  let temps := pairs.foldl (fun (t : Tbl Int) x => match x.1 with | some v => Tbl.put 0 t x.2 v | none => t) s.pwr.temps
  let valid := pairs.filterMap fun x => x.1.map fun _ => x.2
  let s := { s with pwr := { s.pwr with temps := temps, tempValid := valid } }
  if s.awake then
    (pairs.filter fun x => x.1.isNone).foldl (fun s x => s.raise { pg := pgPwr, ev := 5, akind := 6, addr := x.2 }) s
  else s

/-- A trip reading is present (R437). -/
def State.isHot (s : State) (tj : Int) : Bool :=
  decide (degrees 110 ≤ tj) || s.anyTemp 64 96 (fun t => decide (degrees 105 ≤ t)) || s.anyTemp 96 100 (fun t => decide (degrees 125 ≤ t))

/-- THERM_ALERT_N (R436). -/
def State.thermAlert (s : State) (tj : Int) : State :=
  let a := degrees (s.rfld pgPwr Off.PWR_THERM 16 8)
  let d := degrees (s.rfld pgPwr Off.PWR_DRAM_THERM 0 8)
  let high := decide (a ≤ tj) || s.anyTemp 64 96 fun t => decide (d ≤ t)
  let cool := decide (tj ≤ a - 80) && !(s.anyTemp 64 96 fun t => decide (d - 80 < t))
  if high ∧ !s.pwr.thermAlert then ({ s with pwr := { s.pwr with thermAlert := true } }).raise { pg := pgPwr, ev := 3 }
  else if cool then { s with pwr := { s.pwr with thermAlert := false } }
  else s

/-- The thermal level after a reading (R434). -/
def State.thermalLevel (s : State) (tj : Int) : State :=
  let t1 := degrees (s.rfld pgPwr Off.PWR_THERM 0 8)
  let t2 := degrees (s.rfld pgPwr Off.PWR_THERM 8 8)
  let p := s.pwr
  let up := if t2 ≤ tj then 2 else if t1 ≤ tj then max 1 p.tlevel else p.tlevel
  if p.tlevel < up then { s with pwr := { p with tlevel := up, coolSince := none } }
  else if p.tlevel = 0 ∨ (if p.tlevel = 2 then t2 else t1) - 80 < tj then { s with pwr := { p with coolSince := none } }
  else
    match p.coolSince with
    | none => { s with pwr := { p with coolSince := some s.now } }
    | some c => if c + 10 ^ 8 ≤ s.now then { s with pwr := { p with tlevel := p.tlevel - 1, coolSince := none } } else s

/-- The power level after a 1 ms average of `w` watts (R434). -/
def State.powerLevel (s : State) (w : Nat) : State :=
  let cap := s.rfld pgPwr Off.PWR_CAP 0 12
  let p := s.pwr
  let p := if cap < w then { p with overMs := p.overMs + 1 } else { p with overMs := 0 }
  let p := if 10 * w < 9 * cap then { p with underSince := p.underSince.or (some s.now) } else { p with underSince := none }
  let s := { s with pwr := p }
  if 4 ≤ p.overMs ∧ p.plevel < 2 then
    ({ s with pwr := { p with plevel := p.plevel + 1, overMs := 0 } }).raise { pg := pgPwr, ev := 6 }
  else
    match p.underSince with
    | some c => if c + 10 ^ 9 ≤ s.now ∧ 0 < p.plevel then { s with pwr := { p with plevel := p.plevel - 1, underSince := none } } else s
    | none => s

/-- A trip (R437): the chip-fatal state, silent fabric lanes and stopped domains; host ports and management run on. -/
def State.thermalTrip (s : State) : State :=
  let s := { s with pwr := { s.pwr with tripped := true } }
  let s := State.settle 4096 (s.raise { pg := pgPwr, ev := 4 })
  ({ s with todo := [] }).shedLoad

/-- What the power block shows of a reading (R439). -/
def State.showReadings (s : State) (r : SensorReadings) (j : Int × Nat) : State :=
  let s := s.setReg pgPwr Off.PWR_IIN (word r.iin.toNat)
  let s := s.setReg pgPwr Off.PWR_PIN (word r.pin.toNat)
  let s := s.setReg pgPwr Off.PWR_PIN_MAX (word (max r.pin.toNat (s.rfld pgPwr Off.PWR_PIN_MAX 0 16)))
  s.setReg pgPwr Off.PWR_TJ_MAX (word (twos 16 j.1 + j.2 * 2 ^ 16))

/-- What a reading does out of reset: the registers, THERM_ALERT_N, the two levels, and a trip. -/
def State.actOnReadings (s : State) (r : SensorReadings) (j : Int × Nat) : State :=
  let s := (s.showReadings r j).thermAlert j.1
  let s := s.moveTarget 1 fun s => s.thermalLevel j.1
  let s := s.moveTarget 2 fun s => s.powerLevel r.pin.toNat
  if s.pwr.hot ∧ !s.pwr.tripped then s.thermalTrip else s

/-- The readings are kept, with whether one of them is a trip reading. -/
def State.keepReadings (s : State) (r : SensorReadings) (j : Int × Nat) : State :=
  { s with free := s.free + 1, pwr := { s.pwr with vin := r.vin, hot := s.isHot j.1 } }

/-- What a read of the sensors does: in reset the readings only hold the reset (R437), or let the stages start. -/
def State.readSensors (s : State) (r : SensorReadings) : State :=
  let t := s.storeTemps r.temps
  let j := t.junction
  let u := t.keepReadings r j
  if u.awake then u.actOnReadings r j else u.inputSeen

/-- SENSOR_READ. -/
def execSensorRead (r : SensorReadings) (s : State) : Out :=
  if r.temps.length ≠ 100 then .refused .illFormed else actIf s.pwr.aux s (s.readSensors r)

/-! ### The load governor (R428) -/

/-- Duty is limited while the estimate has reached the ceiling. -/
def State.judgeLoad (s : State) : State := { s with pwr := { s.pwr with limited := decide (s.pwr.ceiling ≤ s.pwr.estimate) } }

/-- POWER_ESTIMATE_UPDATE. -/
def execPowerEstimateUpdate (watts : Nat) (s : State) : Out :=
  actIf s.awake s ({ s with pwr := { s.pwr with estimate := watts } }).judgeLoad

/-- A stage falls: the ceiling is the estimate and one step, at most the cap. -/
def State.governorStage (s : State) : State :=
  let c := min (s.pwr.estimate + s.rfld pgPwr Off.PWR_RAMP 0 10) (s.rfld pgPwr Off.PWR_CAP 0 12)
  ({ s with pwr := { s.pwr with ceiling := c, lastStage := s.now, stageDue := false } }).judgeLoad

/-- GOVERNOR_STAGE. -/
def execGovernorStage (s : State) : Out := actIf (s.awake && s.pwr.stageDue) s s.governorStage

end Sys2Proof.Machine
end

