-- ==== Sys2Proof/Machine/Reduction.lean ====
section
/-!
DEFINITION. Contributions, partials, grants, notices, chunk admission, grant release, lanes,
deadlines and job transitions by orbit angle (spec/03_exact_reduction.md R51 to R77,
spec/04_collectives.md R90, R93, R99 to R109, spec/09_orbit_and_gates.md R272, R274).
-/

namespace Sys2Proof.Machine

/-! ### Messages of a job (R21) -/

/-- A CONTRIB, PARTIAL or GRANT of a job that does not accept it is dropped and counted (R21). -/
def State.dropInactive (s : State) (m : Msg) (slot : Nat) : State :=
  s.bump (pgRgc (portRegion m.port)) Off.RGC_DROP_INACTIVE slot

/-- The job accepts the message: it is RUNNING, or it drains and the message is of its open instance (R21). -/
def Job.accepts (j : Job) (h : LfpHeader) : Bool :=
  j.st == .running ||
  (j.st == .draining && j.isOpen && j.inst.step.toNat == h.step && j.inst.attempt.toNat == h.attempt)

/-- What a message of a job does once R21 admits it. -/
def State.jobMsg (s : State) (m : Msg) (f : Nat → JobCfg → State) : State :=
  match s.slotOf m.h.job with
  | none => s
  | some slot =>
    match (s.job slot).cfg with
    | some c => if (s.job slot).accepts m.h then f slot c else s.dropInactive m slot
    | none => s.dropInactive m slot

/-- The message names the instance that the module has open. -/
def Job.names (j : Job) (h : LfpHeader) : Bool :=
  j.isOpen && j.inst.step.toNat == h.step && j.inst.attempt.toNat == h.attempt

/-! ### CONTRIB and PARTIAL (R68, R74) -/

/-- Check 2 of R74: the format, and the class that the GRANT named; a relay row takes CONTRIB only (R102). -/
def formatOk (g : Group) (r : PlanRow) (contrib : Bool) (fmt cls : Nat) : Bool :=
  let own := if g.intMode then 0x8 else 0x0
  if cls ≠ g.classP.toNat then false
  else if r.role = 2 then contrib && decide (fmt ≤ 0xE)
  else if contrib then fmt == own
  else if g.classP then fmt == own else fmt == 0xD

/-- Check 3 of R74: the segment that a message covers. -/
def segmentOf (k : Chunk) (h : LfpHeader) : Option Nat :=
  let n := k.len / max 1 k.s
  if h.member < k.c ∧ h.count = n ∧ n ≠ 0 ∧ h.elemOffset % n = 0 ∧ h.elemOffset / n < k.s then some (h.elemOffset / n)
  else none

/-- The element codes of a payload as addends (R56, R57, R67). -/
def addendCode (g : Group) (fmt : Nat) (payload : List Byte) (i : Nat) : AddendCode :=
  if fmt = 0xD then .exact (BitVec.ofNat 192 (leAt payload (24 * i) 24))
  else if g.intMode then .i32 (word (leAt payload (4 * i) 4))
  else .f32 (word (leAt payload (4 * i) 4))

/-- The addends of a message in element order. -/
def addendsOf (k : Chunk) (g : Group) (h : LfpHeader) (payload : List Byte) : List Addend :=
  (List.range h.count).map fun i =>
    { slot := k.slot, step := k.step, attempt := k.attempt, chunk := k.index, tagSlot := BitVec.ofNat 10 k.slot,
      tagSeq := BitVec.ofNat 16 k.index, elem := h.elemOffset + i, code := addendCode g h.format payload i }

/-- A PARTIAL of Class T that R68 drops whole. -/
def partialBad (h : LfpHeader) (payload : List Byte) : Bool :=
  h.type == 1 && h.format == 0xD &&
  (List.range h.count).any fun i => malformedPartial (BitVec.ofNat 192 (leAt payload (24 * i) 24))

/-- Addends join the queue of a chunk's cell. -/
def State.queueAddends (s : State) (k : Chunk) (l : List Addend) : State :=
  { s with red := { s.red with cellQ := s.red.cellQ.upd [] (k.region * 16 + k.cell) fun q => q ++ l } }

/-- The P0 cells of L elements of 4 bytes, which a relay chunk claims at admission (R102, R88). -/
def relayCells (len : Nat) : Nat := (4 * len + 255) / 256

/-- A relay chunk gives back the cells of the segments it has sent on, each an equal share of its claim (R102; DESIGN
CHOICE, notes/assumptions/73.md). -/
def State.relayGive (s : State) (k : Chunk) : State :=
  match k.ptr0 with
  | some u => s.poolShrink 0 k.region (jobReq k.slot) u (relayCells k.len * (k.s - k.arrived.length) / max 1 k.s)
  | none => s

/-- A relay row sends a segment on unchanged as RESULT (R102); the frame claims its cells when it is built (R235),
and the chunk's claim shrinks by them. -/
def State.relay (s : State) (k : Chunk) (c : JobCfg) (r : PlanRow) (h : LfpHeader) (payload : List Byte) : State :=
  let g := (c.group r.rgroup).getD noGroup
  let hdr : LfpHeader := { h with type := 2, tc := 3, flags := 0, group := r.rgroup, member := 0 }
  let frame : Build :=
    { region := k.region, slot := some k.slot, hdr := hdr, payload := payload, targets := g.members.map Member.target }
  let s := (s.relayGive k).build frame
  let k := if k.full then { k with phase := .finished, ptr0 := none } else k
  (s.putChunk k).progress k.slot

/-- A message that passes R74: its arrival bit is set, and it is queued to the cell or relayed. -/
def State.takeSegment (s : State) (k : Chunk) (c : JobCfg) (r : PlanRow) (seg : Nat) (m : Msg) : State :=
  let bf := m.h.type == 1 && m.h.format == 0xD && m.h.belowFloor
  let k := { k with arrived := insertOnce k.arrived (m.h.member * k.s + seg), bfHeader := k.bfHeader || bf }
  let s := (s.putChunk k).lagArrive k.slot m.h.member
  if r.role = 2 then s.relay k c r m.h m.payload
  else if k.phase = .active then s.queueAddends k (addendsOf k c.cgrp m.h m.payload)
  else s

/-- The checks of R74 at the home region, and R68. A message of the open instance that arrives from its deadline
angle on is late (R23). -/
def State.contribution (s : State) (m : Msg) (slot : Nat) (c : JobCfg) : State :=
  let r := c.home m.h.chunk
  if (s.job slot).names m.h ∧ (s.job slot).late then
    s.bump (pgRgc (portRegion m.port)) Off.RGC_DROP_LATE slot
  else
    s.forUnit m slot r fun s =>
    match s.chunkOf slot (word m.h.step) (BitVec.ofNat 8 m.h.attempt) m.h.chunk, c.rowOf m.h.chunk with
    | some k, some (_, row) =>
      if !(s.job slot).names m.h then s.dropRst r Off.RST_DROP_UNGRANTED slot
      else if !formatOk c.cgrp row (m.h.type == 0) m.h.format m.h.cls then s.dropRst r Off.RST_DROP_FORMAT slot
      else
        match segmentOf k m.h with
        | none => s.dropRst r Off.RST_DROP_SEGMENT slot
        | some seg =>
          if k.arrived.contains (m.h.member * k.s + seg) then s.dropRst r Off.RST_DROP_DUP slot
          else if partialBad m.h m.payload then
            (s.dropRst r Off.RST_DROP_FORMAT slot).raise { pg := pgRst r, ev := 0, access := 7, job := some slot }
          else s.takeSegment k c row seg m
    | _, _ => s.dropRst r Off.RST_DROP_UNGRANTED slot

/-- CONTRIB. -/
def execContrib (a : Arrival) (s : State) : Out :=
  onRx s (s.receive a fun m => m.h.type == 0) fun t m => t.jobMsg m (t.contribution m)

/-- PARTIAL. -/
def execPartialMsg (a : Arrival) (s : State) : Out :=
  onRx s (s.receive a fun m => m.h.type == 1) fun t m => t.jobMsg m (t.contribution m)

/-! ### GRANT and notices (R101, R105 to R108) -/

/-- A plain GRANT. -/
def LfpHeader.isGrant (h : LfpHeader) : Bool := h.type == 3 && !h.opens && !h.abandon && !h.seal

/-- An open notice. -/
def LfpHeader.isOpenNotice (h : LfpHeader) : Bool := h.type == 3 && h.opens

/-- An abandon notice. -/
def LfpHeader.isAbandonNotice (h : LfpHeader) : Bool := h.type == 3 && h.abandon && !h.opens

/-- A seal or ready notice. -/
def LfpHeader.isSealNotice (h : LfpHeader) : Bool := h.type == 3 && h.seal && !h.opens && !h.abandon

/-- The message comes from a parent of the module: it names a leaf row's place there (R99, R107). -/
def JobCfg.fromParent (c : JobCfg) (h : LfpHeader) : Bool :=
  c.plan.rows.any fun r => r.role == 1 && r.upGroup == h.group && r.upMember == h.member

/-- The message comes from a contributor: it names a member of the contributor group. -/
def JobCfg.fromContributor (c : JobCfg) (h : LfpHeader) : Bool :=
  h.group == c.plan.cgroup && decide (h.member < c.cgrp.size)

/-- A notice of the parent at a leaf coordinator; any other is a contributor's (R99, R106, R107). -/
def State.parentNotice (s : State) (h : LfpHeader) : Bool :=
  match s.slotOf h.job with
  | some j => match (s.job j).cfg with | some c => c.isLeaf && c.fromParent h | none => false
  | none => false

/-- The parent's GRANT of a chunk reaches a leaf before the deadline (R101, R23). A GRANT of an instance that is not
open on the module is forgotten (DESIGN CHOICE, notes/assumptions/107.md). -/
def State.parentGrant (s : State) (m : Msg) (slot : Nat) (c : JobCfg) : State :=
  match c.rowOf m.h.chunk with
  | some (_, row) =>
    if row.role = 1 ∧ row.upGroup = m.h.group ∧ row.upMember = m.h.member ∧ (s.job slot).names m.h ∧ !(s.job slot).late then
      let s := s.modInst slot fun i => { i with grants := insertOnce i.grants m.h.chunk }
      match s.chunkOf slot (word m.h.step) (BitVec.ofNat 8 m.h.attempt) m.h.chunk with
      | some k => if k.phase = .waitingGrant then s.leafSend k c row else s
      | none => s
    else s
  | none => s

/-- GRANT. -/
def execGrant (a : Arrival) (s : State) : Out :=
  onRx s (s.receive a fun m => m.h.isGrant) fun t m => t.jobMsg m (t.parentGrant m)

/-- A notice of an instance that has already ended, or is open, on the module is ignored (R108). -/
def Instance.passed (i : Instance) (h : LfpHeader) : Bool :=
  i.phase != .none &&
  (if i.step.toNat = h.step then decide (h.attempt ≤ i.attempt.toNat)
   else decide (2 ^ 31 ≤ (word h.step - i.step).toNat))

/-- The parent's open notice reaches a leaf coordinator (R105, R107). One that arrives while another instance is open
waits until that one has ended (DESIGN CHOICE, notes/assumptions/107.md). -/
def State.noticeOpen (s : State) (m : Msg) (slot : Nat) (c : JobCfg) : State :=
  let j := s.job slot
  if !c.isLeaf ∨ !c.fromParent m.h ∨ j.st ≠ .running ∨ j.inst.passed m.h then s
  else if j.isOpen then
    s.modJob slot fun x => { x with openPending := some (word m.h.step, BitVec.ofNat 8 m.h.attempt, word m.h.elemOffset) }
  else s.openLeaf slot c (word m.h.step) (BitVec.ofNat 8 m.h.attempt) (word m.h.elemOffset)

/-- OPEN_NOTICE. -/
def execOpenNotice (a : Arrival) (s : State) : Out :=
  onRx s (s.receive a fun m => m.h.isOpenNotice) fun t m => t.jobMsg m (t.noticeOpen m)

/-- A ready notice of a contributor, before the deadline (R107, R23). -/
def State.noticeReady (s : State) (m : Msg) (slot : Nat) (c : JobCfg) : State :=
  if c.plan.readyWait ∧ (s.job slot).names m.h ∧ !(s.job slot).late ∧ c.fromContributor m.h then
    (s.modInst slot fun i => { i with ready := insertOnce i.ready m.h.member }).progress slot
  else s

/-- READY_NOTICE. -/
def execReadyNotice (a : Arrival) (s : State) : Out :=
  onRx s (s.receive a fun m => m.h.isSealNotice && !s.parentNotice m.h) fun t m => t.jobMsg m (t.noticeReady m)

/-- The parent's seal notice at a leaf coordinator (R106). -/
def State.noticeSeal (s : State) (m : Msg) (slot : Nat) (c : JobCfg) : State :=
  if c.isLeaf ∧ (s.job slot).names m.h ∧ c.fromParent m.h then (s.sealInst slot c).afterEnd slot c else s

/-- SEAL_NOTICE. -/
def execSealNotice (a : Arrival) (s : State) : Out :=
  onRx s (s.receive a fun m => m.h.isSealNotice && s.parentNotice m.h) fun t m => t.jobMsg m (t.noticeSeal m)

/-- An abandon notice of the parent or of a contributor (R108). -/
def State.noticeAbandon (s : State) (m : Msg) (slot : Nat) (c : JobCfg) : State :=
  if !(s.job slot).names m.h then s
  else if c.isLeaf ∧ c.fromParent m.h then s.abandonInst slot 0x0202
  else if c.fromContributor m.h then s.abandonInst slot 0x0203
  else s

/-- ABANDON_NOTICE. -/
def execAbandonNotice (a : Arrival) (s : State) : Out :=
  onRx s (s.receive a fun m => m.h.isAbandonNotice) fun t m => t.jobMsg m (t.noticeAbandon m)

/-! ### Admission and grants (R51, R70 to R72, R99, R272, R274) -/

/-- The least chunk from `k` up, of `n` at most, that a row covers and region `r` homes. -/
def JobCfg.nextHomed (c : JobCfg) (r : Nat) : Nat → Nat → Option Nat
  | _, 0 => none
  | k, n + 1 => if (c.rowOf k).isSome && c.home k == r then some k else c.nextHomed r (k + 1) n

/-- The chunk that a job waits to have admitted in region `r`. -/
def State.waitingChunk (s : State) (r slot : Nat) : Option (JobCfg × Nat × PlanRow) :=
  let j := s.job slot
  match j.cfg with
  | none => none
  | some c =>
    if j.st ≠ .running ∨ !j.isOpen ∨ !c.homeMask.testBit r then none
    else
      let k := s.red.nextChunk.look 0 (r * 1024 + slot)
      match c.nextHomed r k (c.nchunks - k) with
      | some i => (c.rowOf i).map fun x => (c, i, x.2)
      | none => none

/-- The cell of region `r` with the fewest addends waiting, the lowest on a tie (R51). -/
def State.lightCell (s : State) (r : Nat) : Nat :=
  let n (i : Nat) : Nat := (s.red.cellQ.look [] (r * 16 + i)).length
  (List.range 16).foldl (fun b i => if n i < n b then i else b) 0

/-- The claims of R70 for a chunk: P1 entries, or for a relay chunk P0 cells (R102), and descriptor blocks of P4; the
first unit of each. -/
def State.claimChunk (s : State) (r slot : Nat) (c : JobCfg) (row : PlanRow) : Option (Nat × Nat × State) :=
  match if row.role = 2 then s.poolTake 0 r (jobReq slot) (relayCells c.len) else s.poolTake 1 r slot c.len with
  | none => none
  | some (u, t) => (t.poolTake 4 r slot (chunkBlocks c.cgrp.size row.s)).map fun (u4, t) => (u, u4, t)

/-- Admits the waiting chunk of a job in region `r`, if its claims and its cell allow it. -/
def State.admitWaiting (s : State) (r slot : Nat) : Option State :=
  match s.waitingChunk r slot with
  | none => none
  | some (c, i, row) =>
    if s.quiesced (pgRst r) ∨ s.quiesced (pgRdx (4 * r + s.lightCell r / 4)) then none
    else
      match s.claimChunk r slot c row with
      | none => none
      | some (u, u4, t) =>
        let inst := (s.job slot).inst
        let k : Chunk :=
          { slot := slot, region := r, step := inst.step, attempt := inst.attempt, index := i,
            cell := s.lightCell r, len := c.len, c := c.cgrp.size, s := row.s,
            proto := freshEntry c.cgrp.intMode (row.role == 1) slot i,
            ptr0 := if row.role = 2 then some u else none,
            ptr1 := if row.role = 2 then none else some u, ptr4 := some u4 }
        some { t with red := { t.red with
          chunks := t.red.chunks ++ [k]
          nextChunk := t.red.nextChunk.put 0 (r * 1024 + slot) (i + 1)
          rr := t.red.rr.put 0 r ((slot + 1) % 1024) } }

/-- The job slots in round robin from the pointer of region `r` (R72). -/
def State.slotsFrom (s : State) (r : Nat) : List Nat :=
  let p := s.red.rr.look 0 r
  let all := s.heldSlots
  (all.filter fun j => decide (p ≤ j)) ++ all.filter fun j => decide (j < p)

/-- What CHUNK_ADMIT does in region `r`: the first waiting chunk that can be admitted. -/
def State.admitNext (s : State) (r : Nat) : Option State :=
  if s.isFenced r then none else (s.slotsFrom r).findSome? (s.admitWaiting r)

/-- CHUNK_ADMIT. -/
def execChunkAdmit (region : Region) (s : State) : Out := actWith (s.admitNext region) s fun t => t.watchFlow

/-- The format that a contributor must send (R99). -/
def JobCfg.grantFormat (c : JobCfg) (row : PlanRow) (m : Member) : Nat :=
  if row.role = 2 then 0x0
  else if m.module ∧ !c.cgrp.classP then 0xD
  else if c.cgrp.intMode then 0x8 else 0x0

/-- An edge port whose calibration window has begun its lead withholds the GRANTs to its members, and no others (R272). -/
def State.withheld (s : State) (m : Member) : Bool :=
  m.isLocal && (s.attr m.port).role == 1 && ((s.calWin m.port).lead || (s.calWin m.port).isOpen)

/-- A chunk has grants to send: none has left, or one that a calibration window withheld may leave now (R99, R272). -/
def State.grantsDue (s : State) (c : JobCfg) (k : Chunk) : Bool :=
  !k.released || k.owed.any fun i => match c.cgrp.members[i]? with | some m => !s.withheld m | none => false

/-- The chunk whose grants leave next in region `r` for a job: for a chunk of which none has left, if pacing and backlog
allow it (R274). -/
def State.releasable (s : State) (r slot : Nat) : Option (JobCfg × Chunk × PlanRow) :=
  let j := s.job slot
  match j.cfg with
  | none => none
  | some c =>
    if j.st ≠ .running ∨ !j.isOpen ∨ s.isFenced r then none
    else
      match s.red.chunks.find? fun k => k.ofInst slot j.inst.step j.inst.attempt && k.region == r && s.grantsDue c k with
      | none => none
      | some k =>
        let waiting := (s.red.cellQ.look [] (r * 16 + k.cell)).length
        let paced := c.paceRate == 0 || decide (65536 ≤ s.red.pace.look 0 (r * 1024 + slot))
        let backlog := c.paceBacklog == 0 || decide (waiting < c.paceBacklog * 16384)
        if k.released ∨ (paced ∧ backlog) then (c.rowOf k.index).map fun x => (c, k, x.2) else none

/-- The grants of a chunk go to its contributors in increasing member index (R99); those that a calibration window
withholds are owed, and leave once it allows them (R272). -/
def State.sendGrants (s : State) (r slot : Nat) (c : JobCfg) (k : Chunk) (row : PlanRow) : State :=
  let due := c.cgrp.members.zipIdx.filter fun x => !k.released || k.owed.contains x.2
  let s := if k.released ∨ c.paceRate = 0 then s
    else { s with red := { s.red with pace := s.red.pace.upd 0 (r * 1024 + slot) fun b => b - 65536 } }
  let s := s.putChunk { k with released := true, owed := (due.filter fun x => s.withheld x.1).map (·.2) }
  (due.filter fun x => !s.withheld x.1).foldl (fun s (m, i) =>
    let h := grantHdr c 0 c.plan.cgroup i (c.grantFormat row m) k.step.toNat k.index k.attempt.toNat 0
    s.build { region := r, slot := some slot, hdr := h, payload := [], targets := [m.target] }) s

/-- GRANT_RELEASE. -/
def execGrantRelease (region : Region) (slot : JobSlot) (s : State) : Out :=
  actWith (s.releasable region slot) s fun (c, k, row) => s.sendGrants region slot c k row

/-! ### Lanes (R53, R58, R64, R65) -/

/-- The addend that a lane takes next from its cell's queue, and the queue without it. -/
def takeAddend (lane : Nat) : List Addend → Option (Addend × List Addend)
  | [] => none
  | a :: t =>
    if a.elem % 16 = lane then some (a, t)
    else match takeAddend lane t with
      | some (x, r) => some (x, a :: r)
      | none => none

/-- A lane adds one addend into its entry, after the word code, tag and residue tests in this order (DESIGN
CHOICE, notes/assumptions/106.md). -/
def State.addOne (s : State) (k : Chunk) (c : JobCfg) (a : Addend) : State :=
  let e := k.entry a.elem
  if e.err ≥ 2 then ((s.countUe k.rdx).chunkFault k 1 0x0205 0)
  else
    let s := if e.err = 1 then s.countCe k.rdx else s
    let e := { e with err := 0 }
    if e.jobSlot ≠ a.tagSlot ∨ e.chunkSeq ≠ a.tagSeq then s.chunkFault (k.putEntry a.elem e) 2 0x0206 0
    else if !e.residueOk then s.chunkFault (k.putEntry a.elem { e with residueErr := true }) 0 0x0204 e.residueSyn
    else
      let k := k.putEntry a.elem (accumulate e (addendOf c.cgrp a.code))
      (s.putChunk k).tryFinish k

/-- One addend of a lane is consumed; the addends of a chunk that discards are only consumed (R64). -/
def State.addNext (s : State) (r cell : Nat) (a : Addend) (rest : List Addend) : State :=
  let s := { s with red := { s.red with cellQ := s.red.cellQ.put [] (r * 16 + cell) rest } }
  match s.chunkOf a.slot a.step a.attempt a.chunk, (s.job a.slot).cfg with
  | some k, some c => if k.phase = .active then s.addOne k c a else s
  | _, _ => s

/-- ADDEND_ACCUMULATE. -/
def execAddendAccumulate (region : Region) (cell : Fin 16) (lane : Fin 16) (s : State) : Out :=
  actWith (if s.isFenced region then none else takeAddend lane (s.red.cellQ.look [] (region * 16 + cell))) s
    fun (a, rest) => (s.addNext region cell a rest).watchFlow

/-! ### Deadline, start and end of a job (R23, R90, R93) -/

/-- The deadline of the open instance has passed and every counted contribution is accumulated (R23). -/
def State.deadlineDue (s : State) (slot : Nat) : Bool :=
  let j := s.job slot
  j.isOpen && j.inst.due && !s.queuedInst slot j.inst.step j.inst.attempt

/-- The decision at the deadline (R23, R106 to R108). -/
def State.deadline (s : State) (slot : Nat) : State :=
  let i := (s.job slot).inst
  let s := (s.modInst slot fun x => { x with due := false }).progress slot
  let j := s.job slot
  if j.isOpen ∧ j.inst.step = i.step ∧ j.inst.attempt = i.attempt ∧ !j.inst.readySent then s.abandonInst slot 0x0201
  else s

/-- DEADLINE. -/
def execDeadline (slot : JobSlot) (s : State) : Out := actIf (s.deadlineDue slot) s (s.deadline slot)

/-- The streams of a set start from their entries, with the state of R154 and the job's flags clear. -/
def State.startSet (s : State) (b slot : Nat) : State :=
  s.modCpb b fun x =>
    match x.setOf slot with
    | none => x
    | some p =>
      let fresh (t : Placed) : Stream := { st := .running, pc := t.entry, issuedMark := s.orb.marks }
      let x := { x with
        queues := x.queues.drop fun q => (Nat.lor (p.ors (·.qProd)) (p.ors (·.qCons))).testBit q
        ags := x.ags.drop fun i => (p.ors (·.ags)).testBit i
        sregs := x.sregs.drop fun i => (p.ors (·.sregs)).testBit i
        accs := x.accs.drop fun i => (p.ors (·.accs)).testBit i
        flags := x.flags &&& ~~~(BitVec.ofNat 64 p.flags) }
      let x := p.streams.foldl (fun x t => x.modStream t.stream fun _ => fresh t) x
      x.modSet slot fun q => { q with started := true }

/-- ARMED to RUNNING: a root opens the first instance, and the program streams start (R90, R104). -/
def State.startJob (s : State) (slot : Nat) (c : JobCfg) : State :=
  let first := (s.job slot).firstStep
  let s := s.modJob slot fun j => { j with st := .running, startDue := false }
  let s := (s.setsOf slot).foldl (fun s (b, _) => s.startSet b slot) s
  if c.isLeaf then s else s.openRoot slot c first 0

/-- An ARMED job whose start angle has passed. -/
def State.startDue (s : State) (slot : Nat) : Option JobCfg :=
  let j := s.job slot
  if j.st = .armed ∧ j.startDue then j.cfg else none

/-- JOB_START. -/
def execJobStart (slot : JobSlot) (s : State) : Out := actWith (s.startDue slot) s fun c => s.startJob slot c

/-- A frame built for a job still lies in the module. -/
def State.framesLeft (s : State) (slot : Nat) : Bool :=
  s.sw.builds.any (fun b => b.slot == some slot) ||
  s.sw.bufs.any fun kv => match kv.2 with | some b => b.job == some slot | none => false

/-- Draining has ended (R93). -/
def State.drained (s : State) (slot : Nat) : Option JobCfg :=
  let j := s.job slot
  if j.st ≠ .draining ∨ j.isOpen ∨ s.red.chunks.any (fun k => k.slot == slot) ∨ s.framesLeft slot ∨
      !s.setsStopped slot ∨ s.ckpts.any (fun k => k.slot == slot) ∨
      s.winq.any (fun kv => kv.2.any fun q => q.slot == slot) ∨
      (List.range 4).any (fun r => !s.isFenced r &&
        (s.inUse 0 r (jobReq slot) != 0 || s.inUse 1 r slot != 0 || s.inUse 4 r slot != 0 || s.inUse 5 r slot != 0)) then none
  else j.cfg

/-- The job reaches RETIRED: its sets and Comet slots are released, and the arm and retire chits end (R90, R93). -/
def State.retireJob (s : State) (slot : Nat) (c : JobCfg) : State :=
  let j := s.job slot
  let status := j.failure.getD 0x0003
  let s := s.releaseSets slot
  let s := (s.poolGiveAll 2 c.cmtRegion slot).clearComet c.cmtRegion c.cmtBase c.cmtCount
  let s := match j.armChit with | some ch => s.record ch status true [0, j.failWord] | none => s
  let s := match j.retireChit with | some ch => s.record ch status true [0, j.failWord] | none => s
  s.modJob slot fun x =>
    { x with
      st := .retired
      cfg := none
      armChit := none
      retireChit := none
      failure := none
      aborting := false }

/-- JOB_DRAIN_END. -/
def execJobDrainEnd (slot : JobSlot) (s : State) : Out := actWith (s.drained slot) s fun c => s.retireJob slot c

end Sys2Proof.Machine
end

