-- ==== Sys2Proof/Machine/Security.lean ====
section
/-!
DEFINITION. The security block (spec/13_security.md): handshakes, the firmware update and attestation
report commands, the trust anchors and the maintenance lock.
-/

namespace Sys2Proof.Machine

/-! ### Handshakes (R380, R381) -/

/-- Handshakes are answered: the firmware runs and the identity is known (R374, R378). -/
def State.answersHands (s : State) : Bool := s.awake && s.boot.fwRun && s.sec.pufOk

/-- One part of a HANDSHAKE message: the 8 bytes before its payload, and the payload. -/
def handPart (type part nparts : Nat) (hs : Word) (payload : List Byte) : List Byte :=
  leBytes 1 type ++ leBytes 1 part ++ leBytes 1 nparts ++ [0] ++ leBytes 4 hs.toNat ++ payload

/-- A logical handshake message leaves in parts of at most 8,184 bytes, with the tag field sent as zero (R380). -/
def State.sendHand (s : State) (slot type : Nat) (epoch : BitVec 24) (hs : Word) (dest : Option (HostPort × Nat))
    (payload : List Byte) : State :=
  let n := max 1 ((payload.length + 8183) / 8184)
  (List.range n).foldl (fun s i =>
    let m : RalowOut :=
      { sport := s.ralowPort, tag := padTo 32 [], kind := 0, slot := slot, epoch := epoch, seq := 0, ref := 0, dest := dest,
        body := handPart type i n hs (slice payload (8184 * i) 8184) }
    s.emit (.ralow m)) s

/-- REFUSE with a code of R381, which raises `handshake_fail` (R388). -/
def State.refuse (s : State) (slot code : Nat) (hs : Word) (dest : Option (HostPort × Nat)) : State :=
  (s.sendHand slot 5 0 hs dest (leBytes 2 code)).raise { pg := pgSec, ev := 4, unit := 0, syn := word code }

/-- A slot becomes free; it keeps its epoch and its command counter (R340, R356). -/
def State.freeSlot (s : State) (i : Nat) : State :=
  s.modSess i fun y => { epoch := y.epoch, cmds := y.cmds }

/-- The slots in handshake. -/
def State.handSlots (s : State) : List Nat := (List.range 16).filter fun i => (s.sess i).st == .handshake

/-- The bytes of a HOST_HELLO payload: nonce and encapsulation key. -/
def helloLength : Nat := 1216

/-- DEV_HELLO of slot `i` leaves, as kept. -/
def State.sendHello (s : State) (i : Nat) (hs : Word) (dest : Option (HostPort × Nat)) : State :=
  s.sendHand i 2 0 hs dest ((s.sess i).hello.drop helloLength)

/-- A handshake begins in slot `i`: nonce, encapsulation, chain, and the signature over T2 (R380, R381). -/
def State.beginHand (s : State) (i : Nat) (h : HandshakeIn) : State :=
  let (nonce, s) := s.fresh
  let (k, s) := s.fresh
  let (ct, secret) := Config.kemEncaps (h.payload.drop 32) k
  let plain := leBytes 32 nonce ++ padTo 1088 (ct.take 1088) ++ Config.deviceChain
  let sig := padTo 3309 ((Config.deviceSign (digestBytes (Config.shake256 (h.payload ++ plain)))).take 3309)
  let from_ := some (h.port, h.src)
  let s := s.modSess i fun y => { y with
    st := .handshake
    hs := h.hs
    hsAt := s.now
    hsFrom := from_
    hello := h.payload ++ plain ++ sig
    keyIn := secret }
  s.sendHello i h.hs from_

/-- What a HOST_HELLO does. -/
def State.hostHello (s : State) (h : HandshakeIn) : State :=
  let from_ := some (h.port, h.src)
  if !h.partsOk ∨ h.payload.length ≠ helloLength then s.refuse h.slot.val 0x0B08 h.hs from_
  else
    match s.handSlots.find? fun i => (s.sess i).hs == h.hs with
    | some i => s.sendHello i h.hs from_
    | none =>
      if s.handSlots.length ≥ 4 then s.refuse h.slot.val 0x0B01 h.hs from_
      else
        match leastBelow 16 fun i => (s.sess i).st == .free with
        | none => s.refuse h.slot.val 0x0B02 h.hs from_
        | some i => s.beginHand i h

/-- HOST_HELLO. -/
def execHostHello (h : HandshakeIn) (s : State) : Out := actIf s.answersHands s (s.udpTake h.port h.dport fun s => s.hostHello h)

/-- The installed anchors. -/
def State.anchorList (s : State) : List Digest := (List.range 4).filterMap fun i => s.sec.anchors.look none i

/-- A MAINTENANCE session is open. -/
def State.maintSession (s : State) : Bool := s.openSessions.any fun i => (s.sess i).role == 4

/-- The chain is the first OPERATOR's claim on a module without an anchor (R382). -/
def State.claims (s : State) (v : AuthVerdict) : Bool := s.anchorList.isEmpty && v.selfSigned && v.role == some 0

/-- The first check of a HOST_AUTH that fails, by the codes of R381; the role of one that passes. -/
def State.authCheck (s : State) (h : HandshakeIn) (v : AuthVerdict) : Except Nat (Fin 5) :=
  if !h.partsOk then .error 0x0B08
  else if !v.chainOk ∨ (s.wall.state = 2 ∧ !v.validNow) ∨ !(s.anchorList.contains v.rootKey || s.claims v) then .error 0x0B04
  else if !v.sigOk then .error 0x0B05
  else
    match v.role with
    | none => .error 0x0B06
    | some r =>
      if hr : r < 5 then (if r = 4 ∧ s.maintSession then .error 0x0B03 else .ok ⟨r, hr⟩) else .error 0x0B06

/-- A record of a counter as written: the write sequence after the other's (R379). -/
def CtrRec.after (other : CtrRec) (v : Nat) : CtrRec := { value := v, seq := other.seq + 1, ok := true }

/-- A counter is raised: the older record of its pair is written, or one that does not verify (R379, DEDUCED in
notes/assumptions/124.md). -/
def Counter.raiseTo (c : Counter) (v : Nat) : Counter :=
  if !c.a.ok ∨ (c.b.ok ∧ c.a.seq < c.b.seq) then { c with a := c.b.after v } else { c with b := c.a.after v }

/-- A counter's value: the higher one of the records whose tag verifies (R379). -/
def Counter.value (c : Counter) : Nat := max (if c.a.ok then c.a.value else 0) (if c.b.ok then c.b.value else 0)

/-- The firmware anti-rollback counter. -/
def Sec.fwCtr (x : Sec) : Nat := x.fwPair.value

/-- The anchor generation counter. -/
def Sec.anchorGen (x : Sec) : Nat := x.anchorPair.value

/-- An anchor digest is installed in entry `i`, or removed from it, in flash: the generation counter rises and
the change is logged (R382, R385). -/
def State.setAnchor (s : State) (i : Nat) (d : Option Digest) : State :=
  let s := { s with sec := { s.sec with anchors := s.sec.anchors.put none i d,
                                        anchorPair := s.sec.anchorPair.raiseTo (s.sec.anchorGen + 1) } }
  s.attest .anchor (leBytes 1 i ++ digestBytes (d.getD 0))

/-- The session of slot `i` opens with a role (R340, R380, R381). -/
def State.openSession (s : State) (i : Nat) (h : HandshakeIn) (role : Fin 5) : State :=
  let x := s.sess i
  let t4 := Config.shake256 (x.hello ++ h.payload)
  let keys := Config.sessionKeys x.keyIn t4
  let e := x.epoch + 1
  let s := s.modSess i fun y => { st := .opened, role := role, epoch := e, cmds := y.cmds, lastNet := netOf h.port,
                                  lastMsg := s.now, keyIn := keys.1, keyOut := keys.2 }
  s.sendHand i 4 e h.hs (some (h.port, h.src)) (digestBytes (Config.kmac keys.2 [] (digestBytes t4)))

/-- What a HOST_AUTH of a slot in handshake does. -/
def State.hostAuth (s : State) (h : HandshakeIn) (v : AuthVerdict) : State :=
  let i := h.slot.val
  match s.authCheck h v with
  | .error code => (s.refuse i code h.hs (some (h.port, h.src))).freeSlot i
  | .ok role =>
    let s := if s.anchorList.contains v.rootKey then s else s.setAnchor 0 (some v.rootKey)
    (s.openSession i h role).raise { pg := pgMgt, ev := 0, unit := i }

/-- HOST_AUTH: a message for a slot that runs no handshake of that identifier starts nothing. -/
def execHostAuth (h : HandshakeIn) (v : AuthVerdict) (s : State) : Out :=
  let x := s.sess h.slot.val
  actIf (s.answersHands && x.st == .handshake && x.hs == h.hs) s (s.udpTake h.port h.dport fun s => s.hostAuth h v)

/-- A handshake has run for 2 s. -/
def State.handOver (s : State) (i : Nat) : Bool :=
  (s.sess i).st == .handshake && decide ((s.sess i).hsAt + 2 * 10 ^ 9 ≤ s.now)

/-- HANDSHAKE_TIMEOUT. -/
def execHandshakeTimeout (slot : Sess) (s : State) : Out :=
  let x := s.sess slot.val
  actIf (s.handOver slot.val) s ((s.refuse slot.val 0x0B07 x.hs x.hsFrom).freeSlot slot.val)

/-! ### Firmware update (R376, R377, R383) -/

/-- Bytes of an image header. -/
def headerLength : Nat := 0x1500

/-- The header and the length of an image keep the layout of R376. -/
def imageOk (b : List Byte) : Bool :=
  decide (headerLength ≤ b.length ∧ b.length ≤ 2 ^ 22) && leAt b 0 4 == 0x534B4657 &&
  leAt b 16 4 == b.length - headerLength && (slice b 0x14A1 0x5F).all (· == 0)

/-- The check of a commit record: the first 16 bytes of the digest of the 48 bytes before it (R377). -/
def commitCheck (b : List Byte) : List Byte := (digestBytes (Config.shake256 b)).take 16

/-- The 64 bytes of a commit record (R377). -/
def commitOf (seq svn length : Nat) (d : Digest) : List Byte :=
  let b := leBytes 4 0x434F4D54 ++ leBytes 4 seq ++ leBytes 4 svn ++ leBytes 4 length ++ digestBytes d
  b ++ commitCheck b

/-- The commit record of a bank is valid: its magic and its check are correct. -/
def Bank.committed (b : Bank) : Bool := leAt b.record 0 4 == 0x434F4D54 && b.record.drop 48 == commitCheck (b.record.take 48)

/-- `seq` of the commit record. -/
def Bank.seq (b : Bank) : Nat := leAt b.record 4 4

/-- `svn` of the commit record. -/
def Bank.svn (b : Bank) : Nat := leAt b.record 8 4

/-- The image digest of the commit record, as its 32 bytes. -/
def Bank.digest (b : Bank) : List Byte := padTo 32 (slice b.record 16 32)

/-- A bank by number. -/
def Sec.bank (x : Sec) (i : Fin 2) : Bank := if i = 0 then x.bank0 else x.bank1

/-- A bank replaced. -/
def Sec.setBank (x : Sec) (i : Fin 2) (b : Bank) : Sec := if i = 0 then { x with bank0 := b } else { x with bank1 := b }

/-- What the checks of R383 find: a code, or none. -/
def State.updateCheck (s : State) (len : Nat) (b : List Byte) (v : UpdateVerdict) : Option Nat :=
  if 2 ^ 22 < len ∨ !imageOk b then some 0x0B11
  else if !v.keyOk ∨ !v.sigOk then some 0x0B12
  else if leAt b 8 4 < s.sec.fwCtr then some 0x0B13
  else none

/-- The image is written into the inactive bank, with the commit record last, or the bank is left with an invalid one
(R377, R383). -/
def State.updateBank (s : State) (chit : Word) (b : List Byte) (v : UpdateVerdict) : State :=
  let i : Fin 2 := 1 - s.sec.active
  let seq := (s.sec.bank s.sec.active).seq + 1
  let bank : Bank :=
    { image := b, record := if v.flashOk then commitOf seq (leAt b 8 4) b.length (Config.shake256 b) else [] }
  let s := { s with sec := s.sec.setBank i bank }
  if v.flashOk then
    (s.attest .firmware (leBytes 1 i.val ++ leBytes 4 (leAt b 8 4) ++ digestBytes (Config.shake256 b))).complete chit 0
      [word (leAt b 8 4), word i.val]
  else s.complete chit 0x0B14

/-- The firmware update command after its acceptance. -/
def State.updateCommand (s : State) (chit : Word) (len : Nat) (v : UpdateVerdict) : State :=
  let b := Memory.bytes s.sec.stage 0 (min len (2 ^ 22))
  match s.updateCheck len b v with
  | some code => s.complete chit code
  | none => s.updateBank chit b v

/-- FIRMWARE_UPDATE. -/
def execFirmwareUpdate (m : RalowIn) (n : Nat) (ops : List Word) (v : UpdateVerdict) (s : State) : Out :=
  onCommand m n ops [0] 1 true s fun s chit => s.updateCommand chit (opw ops 0) v

/-! ### Attestation report (R387) -/

/-- The jobs that a report covers, or none for a slot that names none. -/
def State.reportSlots (s : State) (jslot : Nat) : Option (List Nat) :=
  if jslot = 0xFFFFFFFF then some (s.slotsIn JobState.locked)
  else if jslot < 1024 ∧ (s.job jslot).st ≠ .empty then some [jslot]
  else none

/-- Number of a job state in a report and in step status. -/
def JobState.code : JobState → Nat
  | .empty => 0 | .defined => 1 | .armed => 2 | .running => 3 | .draining => 4 | .retired => 5

/-- The part of a report about job slot `j`: identifier, state, class of each group, configuration digest (open
for a job that was never armed), image hash of the set on each block of its program mask. -/
def State.reportJob (s : State) (j : Nat) : List Byte :=
  let x := s.job j
  let id := s.jobId j
  let groups := match x.cfg with | some c => c.groups | none => s.groupsOf id
  let dig := match x.cfg with | some c => c.digest | none => BitVec.ofNat 256 (Config.freeNat (s.free + j))
  let mask := match x.cfg with | some c => c.progMask | none => (s.tbl .job j 15).toNat
  let hashes := (List.range 32).flatMap fun b =>
    if mask.testBit b then digestBytes ((((s.cpb b).setOf j).map fun p => p.hash).getD 0) else []
  leBytes 4 id ++ leBytes 4 x.st.code ++ leBytes 4 groups.length ++
  (groups.flatMap fun g => leBytes 4 (g.index + g.classP.toNat * 2 ^ 16)) ++ digestBytes dig ++ hashes

/-- A report, without its length and signature (R387). -/
def State.reportBody (s : State) (nonce : List Word) (slots : List Nat) : List Byte :=
  let b := s.sec.bank s.sec.active
  wordBytes nonce ++ digestBytes Config.identityHash ++ leBytes 8 s.time ++ leBytes 4 s.angle.toNat ++
  leBytes 4 s.orb.turn.toNat ++
  leBytes 4 (s.reg pgSec Off.SEC_FW_VERSION).toNat ++ leBytes 4 (s.reg pgSec Off.SEC_FW_SVN).toNat ++ b.digest ++
  leBytes 4 s.sec.fwCtr ++ leBytes 4 s.sec.anchorGen ++ leBytes 4 (s.orb.masterSeen.getD 0).toNat ++
  leBytes 4 (s.reg pgMgt Off.MGT_MODE).toNat ++ leBytes 4 s.sec.maintSeen.toNat ++
  leBytes 4 (s.reg pgSec Off.SEC_INJECT_N).toNat ++ digestBytes s.sec.digest ++ slots.flatMap s.reportJob

/-- A whole report: magic, length, contents, signature over the digest of all before it. -/
def State.report (s : State) (nonce : List Word) (slots : List Nat) : List Byte :=
  let body := s.reportBody nonce slots
  let pre := leBytes 4 0x41545354 ++ leBytes 4 (8 + body.length + 3309) ++ body
  pre ++ padTo 3309 ((Config.deviceSign (digestBytes (Config.shake256 pre))).take 3309)

/-- The attestation report command after its acceptance. -/
def State.reportCommand (s : State) (i : Nat) (chit : Word) (ops : List Word) : State :=
  match s.reportSlots (opw ops 8) with
  | none => s.complete chit 0x0B22
  | some slots =>
    let r := s.report (ops.take 8) slots
    let s := { s with free := s.free + 1024 }
    if 2 ^ 18 < r.length then s.complete chit 0x0B21
    else (s.modSess i fun x => { x with rpt := r }).complete chit 0 [word r.length]

/-- ATTESTATION_REPORT: the one command that is taken whatever the state of the chip (R368, R452). -/
def execAttestationReport (m : RalowIn) (n : Nat) (ops : List Word) (s : State) : Out :=
  onMsg m s fun s => s.chitFor m n ops [0, 1, 2, 3, 4] 9 true fun s chit => s.reportCommand m.slot.val chit ops

/-! ### Maintenance lock (R384) -/

/-- The lock opens where both consents lie within 60 s. -/
def State.tryLock (s : State) : State :=
  match s.sec.consentM, s.sec.consentO with
  | some a, some b =>
    if !s.sec.maintOpen ∧ max a b - min a b ≤ 60 * 10 ^ 9 then
      let sec := { s.sec with maintOpen := true, maintSeen := true, maintAt := s.now, consentM := none, consentO := none }
      (({ s with sec := sec }).attest .maint [1]).raise { pg := pgSec, ev := 5 }
    else s
  | _, _ => s

/-- The consent of the MAINTENANCE session. -/
def State.consentM (s : State) : State := ({ s with sec := { s.sec with consentM := some s.now } }).tryLock

/-- The consent of an OPERATOR session. -/
def State.consentO (s : State) : State := ({ s with sec := { s.sec with consentO := some s.now } }).tryLock

/-- The lock has been open for its lifetime. -/
def State.lockOver (s : State) : Bool :=
  s.sec.maintOpen && decide (s.sec.maintAt + s.rfld pgSec Off.SEC_MAINT_TMO 0 8 * 60 * 10 ^ 9 ≤ s.now)

/-- MAINT_LOCK_TIMEOUT. -/
def execMaintLockTimeout (s : State) : Out := actIf s.lockOver s s.closeLock

/-! ### Anchors by register (R382) -/

/-- The digest that `SEC_ANCHOR_HASH0` to `SEC_ANCHOR_HASH7` hold for the anchor addressed, word 0 lowest. -/
def State.anchorRegs (s : State) : Digest :=
  let a := s.rfld pgSec Off.SEC_ANCHOR_SEL 0 2
  BitVec.ofNat 256 (leNat (wordBytes ((List.range 8).map fun i => s.reg pgSec (Off.SEC_ANCHOR_HASH0 + 4 * i) a)))

/-- `SEC_ANCHOR_CTRL.refused`. -/
def State.setRefused (s : State) (b : Bool) : State := s.setRfld pgSec Off.SEC_ANCHOR_CTRL 2 1 b.toNat

/-- The digest is installed as the anchor that `SEC_ANCHOR_SEL` names. -/
def State.installAnchor (s : State) : State :=
  (s.setAnchor (s.rfld pgSec Off.SEC_ANCHOR_SEL 0 2) (some s.anchorRegs)).setRefused false

/-- The anchor that `SEC_ANCHOR_SEL` names is removed, unless none would be left. -/
def State.removeAnchor (s : State) : State :=
  let i := s.rfld pgSec Off.SEC_ANCHOR_SEL 0 2
  if (s.sec.anchors.look none i).isSome then
    (if s.anchorList.length ≤ 1 then s.setRefused true else (s.setAnchor i none).setRefused false)
  else s.setRefused s.anchorList.isEmpty

end Sys2Proof.Machine
end

