-- ==== Sys2Proof/Machine/Startup.lean ====
section
/-!
DEFINITION. Start-up, position, Autonomous mode and shutdown (spec/16_bringup_and_modes.md; spec/13_security.md
R374 to R379; spec/01_architecture.md R26, R27).
-/

namespace Sys2Proof.Machine

/-! ### Boot (R374, R378, R441, R442) -/

/-- A bank holds a valid image for the ROM: record, digest, signature, security version (R377, R378). -/
def Sec.bankOk (x : Sec) (v : BootVerdict) (i : Fin 2) : Bool :=
  let b := x.bank i
  b.committed && digestBytes (Config.shake256 b.image) == b.digest && (if i = 0 then v.sigOk0 else v.sigOk1) && decide (x.fwCtr ≤ b.svn)

/-- The banks with a valid commit record, of highest `seq` first (R378). -/
def Sec.bankOrder (x : Sec) : List (Fin 2) :=
  (if x.bank0.seq < x.bank1.seq then [1, 0] else [0, 1]).filter fun i => (x.bank i).committed

/-- The registers that the firmware fills at its start: version, counters, identity, MAC addresses. -/
def State.fillIdentity (s : State) : State :=
  let b := s.sec.bank s.sec.active
  let mac := Config.hostMac.toNat
  let set (s : State) (pg off v : Nat) : State := s.setReg pg off (word v)
  let s := set s pgSec Off.SEC_FW_VERSION (leAt b.image 4 4)
  let s := set s pgSec Off.SEC_FW_SVN b.svn
  let s := set s pgSec Off.SEC_FW_CTR s.sec.fwCtr
  let s := (List.range 8).foldl (fun s i => set s pgSec (Off.SEC_ID_HASH0 + 4 * i) (Config.identityHash.toNat / 2 ^ (32 * i))) s
  let s := set (set s pgHst Off.HST_MAC_BASE_LO mac) pgHst Off.HST_MAC_BASE_HI (mac / 2 ^ 32 % 65536)
  (List.range 4).foldl (fun s r =>
    set (set s (pgSwc r) Off.SWC_MAC_BASE_LO (mac + 8)) (pgSwc r) Off.SWC_MAC_BASE_HI ((mac + 8) / 2 ^ 32 % 65536)) s

/-- The addresses of the network record, network A first, five words each (R442). -/
def State.netWords (s : State) : List Word :=
  (List.range 2).flatMap fun net => (List.range 5).map fun i => s.reg pgHst (Off.HST_NET_V4 + 4 * i) net

/-- The network record is applied where its tag verifies (R442). -/
def State.applyNet (s : State) (tagOk : Bool) : State :=
  match s.sec.netRecord with
  | none => s
  | some (ws, a) =>
    if !tagOk ∨ !s.sec.netOk then s.raise { pg := pgSec, ev := 3, access := 9 }
    else
      let s := (List.range 10).foldl (fun s i => s.setReg pgHst (Off.HST_NET_V4 + 4 * (i % 5)) (ws.getD i 0) (i / 5)) s
      let s := s.setRfld pgMgt Off.MGT_NETCFG 8 8 a.toNat
      { s with boot := { s.boot with netCfg := true } }

/-- The host ports start auto-negotiation (R286, R441). -/
def State.startHosts (s : State) : State :=
  (List.range 8).foldl (fun s p => s.modHost p fun x => { x with state := 1 }) s

/-- The firmware of bank `i` starts: the counter, the boot measurement and the boot record, the identity and network
records, and the host ports (R378, R385, R408, R441, R442). -/
def State.startFirmware (s : State) (i : Fin 2) (v : BootVerdict) : State :=
  let b := s.sec.bank i
  let floor := leAt b.image 12 4
  let pair := if s.sec.fwCtr < floor then s.sec.fwPair.raiseTo floor else s.sec.fwPair
  let s := { s with sec := { s.sec with active := i, fwPair := pair } }
  let s := s.attest .boot (leBytes 1 i.val ++ leBytes 4 b.svn ++ b.digest)
  let s := if s.flt.torn ∨ v.torn then s.raise { pg := pgFlt, ev := 3, access := 9 } else s
  let s := { s with flt := { s.flt with torn := false } }
  let s := s.fillIdentity
  let s := s.logFault 6 12 false [] [] (wordBytes [word (leAt b.image 4 4), word b.svn, word i.val])
  let s := s.applyNet v.netTagOk
  ({ s with boot := { s.boot with fwRun := true } }).startHosts

/-- The counter records as the ROM finds them, bit 0 and 1 for the firmware counter: one whose tag fails is ignored. -/
def Sec.ctrFound (x : Sec) (bad : BitVec 4) : Sec :=
  let found (c : Counter) (n : Nat) : Counter :=
    { a := { c.a with ok := c.a.ok && !bad.getLsbD n }, b := { c.b with ok := c.b.ok && !bad.getLsbD (n + 1) } }
  { x with fwPair := found x.fwPair 0, anchorPair := found x.anchorPair 2 }

/-- The counter records that the ROM ignores. -/
def Sec.ctrBad (x : Sec) : List CtrRec := [x.fwPair.a, x.fwPair.b, x.anchorPair.a, x.anchorPair.b].filter fun r => !r.ok

/-- The boot ROM: identity, counters, and the first bank that passes (R374, R378, R379). -/
def State.bootRom (s : State) (v : BootVerdict) : State :=
  if !v.pufOk then s.raise { pg := pgSec, ev := 0 }
  else
    let s := { s with sec := { s.sec.ctrFound v.badTags with pufOk := true } }
    let s := s.sec.ctrBad.foldl (fun s _ => s.raise { pg := pgSec, ev := 3, access := 9 }) s
    match s.sec.bankOrder.find? fun i => s.sec.bankOk v i with
    | none => s.raise { pg := pgSec, ev := 2, access := 9 }
    | some i =>
      let s := if s.sec.bankOrder.head? = some i then s else s.raise { pg := pgSec, ev := 1, access := 9 }
      s.startFirmware i v

/-- The internal reset is released: the clocks run from the source wanted, or from the module's own where the pins
carry none (R421), and the ROM starts. -/
def State.releaseReset (s : State) (v : BootVerdict) : State :=
  let want := s.pwr.refInUse
  let pwr := { s.pwr with inReset := false, refInUse := want && v.refclkOk, locked := BitVec.allOnes 18 }
  let s := { s with pwr := pwr, flt := { s.flt with boots := s.flt.boots + 1 } }
  let s := if want ∧ !v.refclkOk then s.raise { pg := pgClk, ev := 3 } else s
  s.bootRom v

/-- The chip can leave reset: the rails are up and no trip reading persists (R424, R437). -/
def State.mayLeaveReset (s : State) : Bool := s.pwr.inReset && s.pwr.rails && s.pwr.pgood && !s.pwr.hot

/-- RESET_RELEASE. -/
def execResetRelease (v : BootVerdict) (s : State) : Out := actIf s.mayLeaveReset s (s.releaseReset v)

/-! ### Autonomous mode (R26, R27, R450, R451) -/

/-- Bit of `MGT_MODE` that enables the function of a field (R450). -/
def PolicyField.bit : PolicyField → Nat
  | .weight .. => 1
  | .gateOff .. => 2
  | .calStart .. => 3
  | .rstCur .. => 4
  | .reqCur .. => 4

/-- The key of a field among all policy fields. -/
def PolicyField.key : PolicyField → Nat
  | .weight p m => p.val + m.val * 4096
  | .gateOff e => 2 ^ 32 + e.val
  | .calStart e => 2 * 2 ^ 32 + e.val
  | .rstCur r j => 3 * 2 ^ 32 + r.val * 4096 + j.val
  | .reqCur r p q => 4 * 2 ^ 32 + (r.val * 8 + p.val) * 4096 + q.val

/-- The register of a field. -/
def PolicyField.addr : PolicyField → Word
  | .weight .. => word (pgSwc 0 * 2 ^ 14 + Off.SWC_PS_WEIGHT)
  | .gateOff .. => word (pgOrb * 2 ^ 14 + Off.ORB_GENT_OFF)
  | .calStart .. => word (pgOrb * 2 ^ 14 + Off.ORB_CAL_START)
  | .rstCur r _ => word (pgRst r.val * 2 ^ 14 + Off.RST_QUOTA_CUR)
  | .reqCur r .. => word (pgSwc r.val * 2 ^ 14 + Off.SWC_REQ_CUR)

/-- The port whose active gate list holds entry `e` of the gate memory. -/
def State.gateHolder (s : State) (e : Nat) : Option Nat :=
  leastBelow 512 fun p => decide ((s.gate p).base ≤ e ∧ e < (s.gate p).base + (s.gate p).entries.length)

/-- The active gate list with the offset of entry `i` changed, as it will stand at the next period start. -/
def GatePort.with (g : GatePort) (i : Nat) (v : Word) : GatePort :=
  ({ g with staged := g.staged ++ [(i, v)] }).takeStaged

/-- A field as firmware sees it: its bounds in force and its value; none where the field does not exist. -/
def State.policy (s : State) : PolicyField → Option (Nat × Nat × Nat)
  | .weight p m =>
    let x := memberIn s.activeBank p.val m.val
    if x.valid then some (x.wmin, x.wmax, s.rfld (pgSwc 0) Off.SWC_PS_WEIGHT 0 4 (psSel p.val m.val)) else none
  | .gateOff e =>
    match s.gateHolder e.val with
    | none => none
    | some p => ((s.gate p).takeStaged.entries[e.val - (s.gate p).base]?).map fun x => (x.min.toNat, x.max.toNat, x.off.toNat)
  | .calStart e =>
    some ((s.reg pgOrb Off.ORB_CAL_SECT_LO e.val).toNat, (s.reg pgOrb Off.ORB_CAL_SECT_HI e.val).toNat,
      (s.reg pgOrb Off.ORB_CAL_START e.val).toNat)
  | .rstCur r j => if s.isFenced r.val then none else some (s.quota 1 r.val j.val)
  | .reqCur r p q => if s.isFenced r.val ∨ p.val = 1 ∨ p.val = 2 then none else some (s.quota p.val r.val q.val)

/-- The value keeps the other rules of the field: gate offsets rise strictly within the period (R265). -/
def State.policyFits (s : State) (d : PolicyField) (v : Word) : Bool :=
  match d with
  | .gateOff e =>
    match s.gateHolder e.val with
    | none => false
    | some p => offsRise ((s.gate p).with (e.val - (s.gate p).base) v).entries && decide (v.toNat < 2 ^ (s.gate p).periodLog)
  | _ => true

/-- The field takes a value. -/
def State.setPolicy (s : State) (d : PolicyField) (v : Word) : State :=
  match d with
  | .weight p m => s.setRfld (pgSwc 0) Off.SWC_PS_WEIGHT 0 4 v.toNat (psSel p.val m.val)
  | .gateOff e =>
    match s.gateHolder e.val with
    | none => s
    | some p => s.modGate p fun g => { g with staged := g.staged ++ [(e.val - g.base, v)] }
  | .calStart e => s.setReg pgOrb Off.ORB_CAL_START v e.val
  | .rstCur r j => s.setRfld (pgRst r.val) Off.RST_QUOTA_CUR 0 21 v.toNat j.val
  | .reqCur r p q => s.setRfld (pgSwc r.val) Off.SWC_REQ_CUR 0 21 v.toNat (p.val * 4096 + q.val)

/-- Firmware moves a field and logs the move (R12, R27). -/
def State.movePolicy (s : State) (d : PolicyField) (old : Nat) (v : Word) : State :=
  let s := (s.setPolicy d v).logDecision (PolicyField.addr d) (word old) v
  { s with boot := { s.boot with lastMove := s.boot.lastMove.put none (PolicyField.key d) (some s.orb.marks) } }

/-- Firmware decides: it is active, the function of the field is enabled, and marks pass (R26, R451). -/
def State.decides (s : State) (d : PolicyField) : Bool :=
  s.awake && s.boot.autoActive && s.rbit pgMgt Off.MGT_MODE (PolicyField.bit d) &&
  (match s.orb.st with | .locked | .master => !s.orb.masterStopped | _ => false)

/-- The field has not moved for `spacing` marks (R451). -/
def State.spaced (s : State) (d : PolicyField) : Bool :=
  match s.boot.lastMove.look none (PolicyField.key d) with
  | none => true
  | some n => decide (n + s.rfld pgMgt Off.MGT_MODE 8 8 ≤ s.orb.marks)

/-- The old value of a field that may take `v` now, within its bounds in force. -/
def State.decision (s : State) (d : PolicyField) (v : Word) : Option Nat :=
  match s.policy d with
  | some (lo, hi, old) =>
    if s.decides d ∧ s.spaced d ∧ lo ≤ v.toNat ∧ v.toNat ≤ hi ∧ v.toNat ≠ old ∧ s.policyFits d v then some old else none
  | none => none

/-- AUTONOMOUS_DECISION. -/
def execAutonomousDecision (d : PolicyField) (value : Word) (s : State) : Out :=
  actWith (s.decision d value) s fun old => (s.movePolicy d old value).watchFlow

/-- The old value of a field outside its bounds, and the nearest end (R27). -/
def State.correction (s : State) (d : PolicyField) : Option (Nat × Nat) :=
  match s.policy d with
  | some (lo, hi, old) => if s.decides d ∧ lo ≤ hi ∧ (old < lo ∨ hi < old) then some (old, clampNat lo hi old) else none
  | none => none

/-- AUTONOMOUS_BOUND_CORRECTION. -/
def execAutonomousBoundCorrection (d : PolicyField) (s : State) : Out :=
  actWith (s.correction d) s fun x => (s.movePolicy d x.1 (word x.2)).watchFlow

/-- AUTONOMOUS_ACTIVATE: the first mark after `auto` was set has passed. -/
def execAutonomousActivate (s : State) : Out :=
  actIf (s.awake && s.boot.autoDue) s
    { s with boot := { s.boot with autoActive := true, autoDue := false, autoArmed := false } }

/-- A write of `MGT_MODE` (R450, R451): a change of `auto` is logged; firmware stops at once. -/
def State.writeMode (s : State) (w : Word) : State :=
  let old := s.rbit pgMgt Off.MGT_MODE 0
  let new := bit w 0
  let s := s.setReg pgMgt Off.MGT_MODE (word (fld w 0 6 + clampNat 1 255 (fld w 8 8) * 256))
  if old = new then s
  else
    let s := { s with boot := { s.boot with autoArmed := new, autoDue := false, autoActive := false } }
    s.attest .mode (leBytes 4 (s.reg pgMgt Off.MGT_MODE).toNat)

/-! ### Position (R446) -/

/-- A write of `MGT_POSITION`: none where it is ignored; the first valid one sets it, and DISCOVER leaves (R444). -/
def State.writePosition (s : State) (w : Word) : Option State :=
  if s.rbit pgMgt Off.MGT_POSITION 31 ∨ fld w 10 2 = 3 then none
  else
    let s := s.setReg pgMgt Off.MGT_POSITION (word (fld w 0 24 + 2 ^ 31))
    let s := { s with ports := s.ports.mapVals fun x => { x with discNow := true } }
    some s

/-! ### Network record and shutdown (R442, R452) -/

/-- `MGT_NETCFG.save`: the record is written to flash and read back (R442, R453). Whether the flash takes it is free
(notes/assumptions/127.md): a record that it does not take sets `fail`, and its tag does not verify. -/
def State.saveNet (s : State) : State :=
  let (k, s) := s.fresh
  let ok := k % 2 == 0
  let ws := (s.netWords, BitVec.ofNat 8 (s.rfld pgMgt Off.MGT_NETCFG 8 8))
  let s := { s with sec := { s.sec with netRecord := some ws, netOk := ok } }
  s.setRfld pgMgt Off.MGT_NETCFG 2 1 (!ok).toNat

/-- `MGT_SHUTDOWN.req`: refused while a job is ARMED, RUNNING or DRAINING. -/
def State.requestShutdown (s : State) : State :=
  if !s.heldSlots.isEmpty then { s with boot := { s.boot with shutRefused := true } }
  else { s with boot := { s.boot with shutRefused := false, shutState := if s.boot.shutState = 0 then 1 else s.boot.shutState } }

/-- Nothing keeps a closing module from shutting: no running command, no record on its way to flash. -/
def State.closed (s : State) : Bool :=
  s.boot.shutState == 1 && s.awake && s.chits.all (·.final) && s.flt.queue.isEmpty && s.flt.writing.isNone

/-- SHUTDOWN_COMPLETE. -/
def execShutdownComplete (s : State) : Out :=
  let t := s.shedLoad
  actIf s.closed s { t with boot := { t.boot with shutState := 2 } }

end Sys2Proof.Machine
end

