-- ==== Sys2Proof/Machine/Views.lean ====
section
/-!
DEFINITION. What the registers show: the instance that a select register addresses, the registers that
mirror other state, and the value of every register (spec/17_register_summary.md R455 to R463 and the
register tables of the chapters).
-/

namespace Sys2Proof.Machine

/-! ### Selected instances -/

/-- The instance that the select registers of page `pg` address. -/
def State.selected (s : State) (pg : Nat) : SelKind → Nat
  | .one => 0
  | .fabPort => s.rfld pg Off.FAB_PORT_SEL 0 3
  | .fabLane => s.rfld pg Off.FAB_LANE_SEL 0 3
  | .fabSch => s.rfld pg Off.FAB_SCH_SEL 0 6
  | .swcEm => s.rfld pg Off.SWC_EM_SEL 0 15
  | .swcRt => s.rfld pg Off.SWC_RT_SEL 0 14
  | .swcPs => psSel (s.rfld pg Off.SWC_PS_SEL 0 12) (s.rfld pg Off.SWC_PS_SEL 12 4)
  | .swcPort => s.rfld pg Off.SWC_PORT_SEL 0 9
  | .swcPool => s.rfld pg Off.SWC_POOL_SEL 0 3
  | .swcReq => s.rfld pg Off.SWC_POOL_SEL 0 3 * 4096 + s.rfld pg Off.SWC_REQ_SEL 0 12
  | .swcMir => s.rfld pg Off.SWC_MIR_SEL 0 12
  | .swcMirPort => s.rfld pg Off.SWC_MIR_SEL 0 9
  | .rstSlot => s.rfld pg Off.RST_SLOT_SEL 0 10
  | .memCh => s.rfld pg Off.MEM_CH_SEL 0 2
  | .hstPort => s.rfld pg Off.HST_PORT_SEL 0 3
  | .hstNet => s.rfld pg Off.HST_NET_SEL 0 1
  | .orbGport => s.rfld pg Off.ORB_GPORT_SEL 0 9
  | .orbGent => s.rfld pg Off.ORB_GENT_SEL 0 15
  | .orbCal => s.rfld pg Off.ORB_CAL_SEL 0 10
  | .secAnchor => s.rfld pg Off.SEC_ANCHOR_SEL 0 2
  | .mgtSess => s.rfld pg Off.MGT_SESS_SEL 0 4
  | .rgcJob => s.rfld pg Off.RGC_JOB_SEL 0 10

/-- The registers of the forwarding tables (R213). -/
def forwardingOff (off : Nat) : Bool := bankOff off || off == Off.SWC_ROUTE_CTRL || off == Off.SWC_PS_WEIGHT

/-- The registers that exist once per port, in the region that holds the port (R243). -/
def perPortOff (off : Nat) : Bool :=
  off == Off.SWC_PORT_HDRM || off == Off.SWC_PORT_PEER_LO || off == Off.SWC_PORT_PEER_HI || off == Off.SWC_MIR_CFG ||
  off == Off.SWC_MIR_LOST

/-- The page that holds a register: the forwarding tables stand in page `pgSwc 0` for all four copies, a port's
registers in the page of its region. -/
def homePage (p : Pfx) (pg off sel : Nat) : Nat :=
  if p = .SWC then
    (if forwardingOff off then pgSwc 0 else if perPortOff off then pgSwc (portRegion (sel % 512)) else pg)
  else pg

/-- The requester of a pool exists (R230). -/
def reqExists (pool req : Nat) : Bool :=
  match pool with
  | 0 => decide (req < 3072)
  | 3 => decide (req < 16)
  | 4 | 5 => decide (req < 1024)
  | _ => false

/-! ### Registers that mirror other state -/

/-- The first of the named values whose offset is `off`. -/
def among (off : Nat) (l : List (Nat × Word)) : Option Word := (l.find? fun x => x.1 == off).map (·.2)

/-- Bits packed from bit 0 up, each value `w` bits wide. -/
def packW (w : Nat) (l : List Nat) : Word := word (l.foldr (fun v a => a * 2 ^ w + v) 0)

/-- A Boolean as bit `i`. -/
def flag (b : Bool) (i : Nat) : Nat := b.toNat * 2 ^ i

/-- The header's registers that mirror other state (R457, R459, R460). The longest wait at an arbiter since the last
read is an open value, fresh at each read (notes/assumptions/48.md). -/
def State.viewHeader (s : State) (p : Pfx) (pg off : Nat) : Option Word :=
  if off = Off.BLK_STATE then
    some (word (s.rfld pg Off.BLK_STATE 0 2 + flag (decide (pg / 256 < 4) && s.isFenced (pg / 256)) 4 +
      flag (s.rbit pg Off.BLK_FIRST_ERR0 31) 5))
  else if off = Off.BLK_ARB_STAT then
    let last := if p = .MEM ∨ p = .RDX ∨ p = .RGC then s.measured pg off 0 % 4 else 0
    some (word (last + Config.freeNat s.free % 2 ^ 16 * 2 ^ 16))
  else if Off.BLK_PERF_CNT ≤ off ∧ s.countsCycles pg ((off - Off.BLK_PERF_CNT) / 8) then some (word (s.measured pg off 0))
  else none

/-- The registers of port block `b` that mirror other state (R305, R454). -/
def State.viewFAB (s : State) (b off sel : Nat) : Option Word :=
  let p := 8 * b + sel
  if off = Off.FAB_PORT_STATE then some (s.portStateWord p)
  else if off = Off.FAB_LANE_FOM then
    some (word ((s.lane p).fom.toNat + s.rfld (pgFab b) off 8 8 sel * 2 ^ 8 + flag (s.lane p).failed 20))
  else if Off.FAB_DISC_POS ≤ off ∧ off ≤ Off.FAB_DISC_RX then
    match (s.port p).disc with
    | none => some 0
    | some d =>
      if off = Off.FAB_DISC_RX then none
      else
        among off [(Off.FAB_DISC_POS, word (d.position + flag d.positioned 30 + flag true 31)),
          (Off.FAB_DISC_PORT, word (d.port + d.mode * 2 ^ 16)), (Off.FAB_DISC_ID, d.id),
          (Off.FAB_DISC_MAC_LO, word d.mac), (Off.FAB_DISC_MAC_HI, word (d.mac / 2 ^ 32 % 65536))]
  else none

/-- Number of a stream state (R186). -/
def StreamState.code : StreamState → Nat
  | .idle => 0 | .running => 1 | .waiting => 2 | .halted => 3 | .faulted => 4

/-- The captures of a program set (R184, R182), by register. -/
def ProgSet.viewCaptures (p : ProgSet) (off : Nat) : Option Word :=
  let e := p.exc.getD ⟨0, 0, 0, 0, 0⟩
  let i := p.inv.getD ⟨0, 0, 0, 0, 0, 0, 0⟩
  among off [(Off.CPB_EXC_STAT, p.excStat), (Off.CPB_EXC_PC, p.excPc), (Off.CPB_EXC_ADDR_LO, word e.addr),
    (Off.CPB_EXC_ADDR_HI, word (e.addr / 2 ^ 32 % 2 ^ 20 + e.space % 32 * 2 ^ 20)),
    (Off.CPB_INV_CAP0, word (i.cell + i.acc * 2 ^ 3 + i.row * 2 ^ 5 + i.col * 2 ^ 10 + i.stream * 2 ^ 15 + flag p.inv.isSome 31)),
    (Off.CPB_INV_CAP1, word i.kstep), (Off.CPB_INV_CAP2, word i.pc), (Off.CPB_EXC_SUMMARY, p.summary)]

/-- The job of a stream, 0 where it is not placed. -/
def CpbSt.streamJob (c : CpbSt) (i : Nat) : Nat := match c.placed i with | some (p, _) => p.jobId | none => 0

/-- The registers of a compute block that mirror other state (R186, R208); `sel` is `CPB_SET_SEL.stream`. -/
def CpbSt.view (c : CpbSt) (off sel : Nat) : Option Word :=
  let st (f : Stream → Nat) : List Nat := (List.range 4).map fun i => f (c.stream i)
  let accs (f : Acc → Bool) : Word := packW 1 ((List.range 32).map fun n => (f (c.accs.look {} n)).toNat)
  if (Off.CPB_EXC_STAT ≤ off ∧ off ≤ Off.CPB_INV_CAP2) ∨ off = Off.CPB_EXC_SUMMARY then
    match c.placed sel with
    | some (p, _) => p.viewCaptures off
    | none => some 0
  else if Off.CPB_STR_PC0 ≤ off ∧ off ≤ Off.CPB_STR_PC3 then some (word (c.stream ((off - Off.CPB_STR_PC0) / 4)).pc)
  else if Off.CPB_Q_LEVEL0 ≤ off ∧ off ≤ Off.CPB_Q_LEVEL3 then
    some (packW 8 ((List.range 4).map fun m => (c.queue ((off - Off.CPB_Q_LEVEL0) + m)).entries.length))
  else if Off.CPB_WAIT_MARKS0 ≤ off ∧ off ≤ Off.CPB_WAIT_MARKS3 then
    some (word (min (2 ^ 20 - 1) (c.stream ((off - Off.CPB_WAIT_MARKS0) / 4)).waitMarks))
  else
    among off [(Off.CPB_STR_STATE, packW 4 (st fun x => x.st.code)), (Off.CPB_STR_WAIT, packW 4 (st fun x => x.cause)),
      (Off.CPB_STR_COND, packW 4 (st fun x => x.cond.toNat)), (Off.CPB_ACC_INVALID, accs (·.inv)),
      (Off.CPB_ACC_OVERFLOW, accs (·.ovf)), (Off.CPB_FLAGS_LO, word c.flags.toNat),
      (Off.CPB_FLAGS_HI, word (c.flags.toNat / 2 ^ 32)),
      (Off.CPB_STR_JOB01, packW 16 [c.streamJob 0, c.streamJob 1]), (Off.CPB_STR_JOB23, packW 16 [c.streamJob 2, c.streamJob 3]),
      (Off.CPB_STR_PLACED, packW 1 ((List.range 4).map fun i => (c.placed i).isSome.toNat)),
      (Off.CPB_STORE_FREE, word c.freeRun)]

/-- Number of a channel state (R334). -/
def ChState.code : ChState → Nat
  | .training => 0 | .ready => 1 | .retraining => 2 | .failed => 3

/-- The registers of memory block `m` that mirror other state (R334). -/
def State.viewMEM (s : State) (m off sel : Nat) : Option Word :=
  let c := s.chan (4 * m + sel)
  let l := s.fwl.look [] m
  let w := s.reg (pgMem m) Off.MEM_FWL_SEL
  let e := l[fld w 0 4]?
  among off [(Off.MEM_CH_STATE, word (c.st.code + c.tmult.toNat * 2 ^ 8)), (Off.MEM_CH_DRIFT, word (twos 16 c.drift)),
    (Off.MEM_SCRUB_POS, word c.scrubPos),
    (Off.MEM_FWL_SEL, setFld w 8 5 l.length),
    (Off.MEM_FWL_ADDR_LO, match e with | some x => word x.addr | none => 0),
    (Off.MEM_FWL_ADDR_HI, match e with | some x => x.hi | none => 0)]

/-- The registers of reduction block `i` that mirror other state. -/
def State.viewRDX (s : State) (i off : Nat) : Option Word :=
  among off [(Off.RDX_CELL_BUSY, packW 1 ((List.range 4).map fun k => (!(s.red.cellQ.look [] (4 * i + k)).isEmpty).toNat))]

/-- The registers of the switch block of region `r` that mirror other state (R243). -/
def State.viewSWC (s : State) (r off sel : Nat) : Option Word :=
  let pool := sel / 4096
  if off = Off.SWC_ROUTE_CTRL then
    some (word (s.shadowMode + s.shadowShift * 2 ^ 4 + flag s.sw.actBank 16 + s.sw.actMode * 2 ^ 17 + s.sw.actShift * 2 ^ 20))
  else if off = Off.SWC_PORT_PEER_HI then
    some (word (s.rfld (pgSwc (portRegion sel)) off 0 16 sel + flag (s.port sel).lh 16))
  else if off = Off.SWC_POOL_LEVEL then some (word (s.poolLevel sel r))
  else if off = Off.SWC_REQ_SEL then (if reqExists (s.rfld (pgSwc r) Off.SWC_POOL_SEL 0 3) 0 then none else some 0)
  else if Off.SWC_REQ_MIN ≤ off ∧ off ≤ Off.SWC_REQ_INUSE then
    (if !reqExists pool (sel % 4096) then some 0
     else if off = Off.SWC_REQ_INUSE then some (word (s.inUse pool r (sel % 4096)))
     else none)
  else if off = Off.SWC_SWAP_STAT then
    some (word (flag s.sw.swap.isSome 0 + flag s.sw.swap.isSome 1 + s.rfld (pgSwc r) off 16 16 * 2 ^ 16))
  else if off = Off.SWC_SWAP_INFLIGHT then some (word s.swapInflight)
  else if off = Off.SWC_DESC_FREE then some (word (0x100000 - s.descUsed r false))
  else none

/-- The registers of the reduction store of region `r` that mirror other state. -/
def State.viewRST (s : State) (r off sel : Nat) : Option Word :=
  among off [(Off.RST_INUSE, word (s.inUse 1 r sel)), (Off.RST_POOL_FREE, word (s.poolFree 1 r).toNat)]

/-- The open Comet rounds of region `r`. -/
def State.openRounds (s : State) (r : Nat) : Nat := (s.comet.filter fun kv => kv.1 / 1024 == r && kv.2.isOpen).length

/-- The registers of the Comet block of region `r` that mirror other state. -/
def State.viewCMT (s : State) (r off : Nat) : Option Word := among off [(Off.CMT_BUSY, word (s.openRounds r))]

/-- Number of an instance's phase (R89). -/
def InstPhase.code : InstPhase → Nat
  | .none => 0 | .opened => 1 | .sealed => 2 | .abandoned => 3

/-- A word of a table as software reads it: the job table's words that mirror the job's state (R86). -/
def State.viewTable (s : State) (k : TKind) (i w : Nat) : Word :=
  let t := s.tbl k i w
  match k with
  | .job =>
    let x := s.job i
    if w = 1 then word x.st.code
    else if w = 10 then x.inst.step
    else if w = 11 then setFld t 0 8 x.inst.attempt.toNat
    else t
  | _ => t

/-- The table, entry and word that a window register of page `pg` reaches (R462). -/
def State.tableOf (s : State) (pg off : Nat) : Option (TKind × Nat × Nat) :=
  if off = Off.RGC_JOB_DATA then some (.job, s.rfld pg Off.RGC_JOB_SEL 0 10, s.rfld pg Off.RGC_JOB_WSEL 0 8)
  else if Off.RGC_GRP_W0 ≤ off ∧ off ≤ Off.RGC_GRP_W3 then
    some (.group, s.rfld pg Off.RGC_GRP_SEL 0 12, (off - Off.RGC_GRP_W0) / 4)
  else if off = Off.RGC_MBR_LO then some (.member, s.rfld pg Off.RGC_MBR_SEL 0 18, 0)
  else if off = Off.RGC_MBR_HI then some (.member, s.rfld pg Off.RGC_MBR_SEL 0 18, 1)
  else if off = Off.RGC_PLAN_DATA then some (.plan, s.rfld pg Off.RGC_JOB_SEL 0 10, s.rfld pg Off.RGC_PLAN_WSEL 0 8)
  else if off = Off.RGC_SLC_DATA then some (.slice, s.rfld pg Off.RGC_SLC_SEL 0 12, s.rfld pg Off.RGC_SLC_WSEL 0 3)
  else if off = Off.RGC_WIN_DATA then some (.window, s.rfld pg Off.RGC_WIN_SEL 0 12, s.rfld pg Off.RGC_WIN_WSEL 0 2)
  else none

/-- The registers of a region control block that mirror other state (R89, R150, R335). The step state of a job shows on the
page of every region alike (DESIGN CHOICE, notes/assumptions/126.md). -/
def State.viewRGC (s : State) (pg off sel : Nat) : Option Word :=
  match s.tableOf pg off with
  | some (k, i, w) => some (s.viewTable k i w)
  | none =>
    let x := (s.job sel).inst
    let k := sel * 4096 + s.rfld pg Off.RGC_LAG_SEL 0 12
    among off [(Off.RGC_STEP_STAT, word (x.attempt.toNat + x.phase.code * 2 ^ 8)), (Off.RGC_STEP, x.step),
      (Off.RGC_DEADLINE, x.deadline), (Off.RGC_LAG_ARRIVED, word (s.red.lagArrived.look 0 k)),
      (Off.RGC_LAG_LAST, word (s.red.lagLast.look 0 k)), (Off.RGC_LAG_NAMED, word (s.red.lagNamed.look 0 k))]

/-- The registers of the host port block that mirror other state (R306). -/
def State.viewHST (s : State) (off sel : Nat) : Option Word :=
  let x := s.hostPort sel
  let paused := match x.pausedUntil with | some t => decide (s.now < t) | none => false
  among off [(Off.HST_PORT_STATE, word (x.state.val + flag paused 8))]

/-- Number of an orbit state (R281). -/
def OrbState.code : OrbState → Nat
  | .unlocked => 0 | .locking => 1 | .locked => 2 | .held => 3 | .lost => 4 | .master => 5

/-- A master that slews, or one that announces it (R281). -/
def State.slewing (s : State) : Bool :=
  if s.orb.st = .master then decide (s.orb.tint ≠ s.targetInterval) else s.orb.slewing

/-- `ORB_SRC_DELAY` of source `i`. -/
def State.srcDelayWord (s : State) (i : Nat) : Word :=
  match s.srcPort i with
  | some p => word (s.portDelay p % 65536 + flag ((s.orb.probes.look {} p).samples.length == 16) 31)
  | none => 0

/-- The registers of the orbit block that mirror other state (R281). -/
def State.viewORB (s : State) (off sel : Nat) : Option Word :=
  let o := s.orb
  let g := s.gate sel
  if Off.ORB_SRC_DELAY0 ≤ off ∧ off ≤ Off.ORB_SRC_DELAY3 then some (s.srcDelayWord ((off - Off.ORB_SRC_DELAY0) / 4))
  else
    among off [(Off.ORB_STATE, word (o.st.code + o.src.val * 2 ^ 4 + s.stratum * 2 ^ 8 + flag s.slewing 12)),
      (Off.ORB_ANGLE, s.angle), (Off.ORB_TURN, o.turn), (Off.ORB_INTERVAL, word o.tint),
      (Off.ORB_MASTER_SEEN, o.masterSeen.getD 0),
      (Off.ORB_GPORT_STAT, word (flag g.pendingAt.isSome 0 + flag g.bank 1 + flag (g.reject != 0) 2 + g.reject * 2 ^ 4)),
      (Off.ORB_WALL_SEC_LO, word (s.wall.ns / 10 ^ 9)), (Off.ORB_WALL_SEC_HI, word (s.wall.ns / 10 ^ 9 / 2 ^ 32 % 65536)),
      (Off.ORB_WALL_NS, word (s.wall.ns % 10 ^ 9)), (Off.ORB_PTP_STATE, word (s.wall.state.val + s.wall.net.val * 2 ^ 2))]

/-- The chit that `MGT_CHIT_SEL` names. -/
def State.polledChit (s : State) : Option ChitRec := s.chit (s.reg pgMgt Off.MGT_CHIT_SEL)

/-- `MGT_CHIT_STATUS` (R361, R373). -/
def State.chitStatus (s : State) : Word :=
  match s.polledChit with
  | none => 0
  | some x =>
    match x.latest with
    | none => 1
    | some _ => word ((if x.final then 3 else 2) + (x.next - 1).toNat * 2 ^ 8 + flag x.acked 16)

/-- Word `i` of the record of the polled chit; open where no chit has that number (R361). -/
def State.chitWord (s : State) (i : Nat) : Word :=
  match s.polledChit with
  | none => word (Config.freeNat (s.free + i))
  | some x => match x.latest with | some b => word (leAt b (4 * i) 4) | none => 0

/-- Word `i` of the event record that `MGT_EVT_SEL` names: word 0 reads all ones where the ring holds none, and the
other words are then open (R365). -/
def State.eventWord (s : State) (i : Nat) : Word :=
  match s.ring.find? fun b => leAt b 0 4 == (s.reg pgMgt Off.MGT_EVT_SEL).toNat with
  | some b => word (leAt b (4 * i) 4)
  | none => if i = 0 then 0xFFFFFFFF else word (Config.freeNat (s.free + i))

/-- `MGT_SESS_CTRL` of a session. -/
def Session.ctrl (x : Session) : Word :=
  word (flag x.evtEn 1 + x.evtMask.toNat * 2 ^ 2 + flag x.telPerf 6 + flag x.telCmap 7 + flag x.telMirror 8)

/-- Number of a session state (R373). -/
def SessState.code : SessState → Nat
  | .free => 0 | .handshake => 1 | .opened => 2

/-- The registers of the management block that mirror other state (R373, R453). -/
def State.viewMGT (s : State) (off sel : Nat) : Option Word :=
  let x := s.sess sel
  let up := s.orb.st == .locked || s.orb.st == .master
  if Off.MGT_CHIT_REC0 ≤ off ∧ off ≤ Off.MGT_CHIT_REC7 then some (s.chitWord ((off - Off.MGT_CHIT_REC0) / 4))
  else if Off.MGT_EVT_REC0 ≤ off ∧ off ≤ Off.MGT_EVT_REC7 then some (s.eventWord ((off - Off.MGT_EVT_REC0) / 4))
  else
    among off [(Off.MGT_CHIT_STATUS, s.chitStatus), (Off.MGT_SESS_CTRL, x.ctrl),
      (Off.MGT_SESS_STATE, word (x.st.code + x.role.val * 2 ^ 4 + x.epoch.toNat * 2 ^ 8)),
      (Off.MGT_SESS_RX_SEQ, x.rxMax), (Off.MGT_SESS_TX_SEQ, x.txSeq),
      (Off.MGT_SESS_STAT, word (min 0xFFFF x.evtLost + min 0xFFFF x.mirrorLost * 2 ^ 16)), (Off.MGT_SESS_CMDS, word x.cmds.toNat),
      (Off.MGT_BOOT, word (flag s.boot.fwRun 0 + flag s.boot.netCfg 1 + flag s.memReady 2 +
        flag (s.rbit pgMgt Off.MGT_POSITION 31) 3 + flag up 4)),
      (Off.MGT_MODE, setBit (s.reg pgMgt Off.MGT_MODE) 31 s.boot.autoActive),
      (Off.MGT_SHUTDOWN, word (flag s.boot.shutRefused 1 + s.boot.shutState.val * 2 ^ 2))]

/-- The registers of the security block that mirror other state (R389), for session slot `i`. -/
def State.viewSEC (s : State) (off i : Nat) : Option Word :=
  let c := s.sec
  if Off.SEC_LOG_DIGEST0 ≤ off ∧ off ≤ Off.SEC_LOG_DIGEST7 then
    some (word (c.digest.toNat / 2 ^ (8 * (off - Off.SEC_LOG_DIGEST0))))
  else
    among off [(Off.SEC_STATE, word (c.active.val + flag c.pufOk 1 + flag c.maintOpen 2 + flag c.maintSeen 3 + s.anchorList.length * 2 ^ 4)),
      (Off.SEC_MAINT_CTRL, word (flag c.consentM.isSome 0 + flag c.consentO.isSome 1)),
      (Off.SEC_RPT_OFF, word (s.sess i).rptOff), (Off.SEC_RPT_DATA, word (leAt (s.sess i).rpt (s.sess i).rptOff 4))]

/-- A record of the fault log is of kind 3, a power failure (R406). -/
def LogRec.isPower (r : LogRec) : Bool := r.valid && leAt r.bytes 12 2 == 3

/-- The registers of the fault aggregator that mirror other state (R412), for session slot `i`. -/
def State.viewFLT (s : State) (off i : Nat) : Option Word :=
  let x := s.sess i
  let found := s.flt.log.any fun r => r.seq == x.logSel.toNat && r.valid
  among off [(Off.FLT_STATE, s.fltState),
    (Off.FLT_FAULTN, setBit (s.reg pgFlt Off.FLT_FAULTN) 1 s.flt.releasePending), (Off.FLT_LOG_HEAD, word s.flt.nextSeq),
    (Off.FLT_LOG_OLDEST, word s.oldestLog), (Off.FLT_LOG_SEL, x.logSel), (Off.FLT_LOG_OFF, word x.logOff),
    (Off.FLT_LOG_DATA, s.logWord x.logSel.toNat x.logOff),
    (Off.FLT_LOG_STAT, word (flag found 0 + flag s.flt.writing.isSome 1 + s.rfld pgFlt Off.FLT_LOG_STAT 16 16 * 2 ^ 16)),
    (Off.FLT_PF_COUNT, word (s.flt.log.filter LogRec.isPower).length)]

/-- The registers of the power block that mirror other state (R439). -/
def State.viewPWR (s : State) (off : Nat) : Option Word :=
  let p := s.pwr
  let t := s.rfld pgPwr Off.PWR_TEMP_SEL 0 7
  among off [(Off.PWR_STATE, word (flag p.pgood 0 + flag (decide (p.vin.toNat < 4600)) 1 + flag (decide (5750 < p.vin.toNat)) 2 +
      flag s.flt.powerFail 3 + flag p.tripped 4)),
    (Off.PWR_VIN, word p.vin.toNat), (Off.PWR_RAMP_STAT, word (p.ceiling % 65536 + flag p.limited 31)),
    (Off.PWR_TEMP, word (twos 16 (p.temps.look 0 t) + flag (p.tempValid.contains t) 31))]

/-- The registers of the clock block that mirror other state (R440). -/
def State.viewCLK (s : State) (off : Nat) : Option Word :=
  let p := s.pwr
  among off [(Off.CLK_CTRL, setBit (s.reg pgClk Off.CLK_CTRL) 1 p.refInUse),
    (Off.CLK_STEP, word (s.clockFloor + p.level * 2 ^ 4 + p.tlevel * 2 ^ 8 + p.plevel * 2 ^ 12)),
    (Off.CLK_LOCK, word p.locked.toNat),
    (Off.CLK_FREQ, Config.measuredFreq (s.rfld pgClk Off.CLK_FREQ_SEL 0 5) s.now)]

/-- What a register shows of other state, or none where the register file holds it. -/
def State.view (s : State) (p : Pfx) (n pg off sel i : Nat) : Option Word :=
  if off < 0x80 then s.viewHeader p pg off
  else
    match p with
    | .FAB => s.viewFAB n off sel
    | .CPB => (s.cpb n).view off (s.rfld pg Off.CPB_SET_SEL 0 2)
    | .MEM => s.viewMEM n off sel
    | .RDX => s.viewRDX n off
    | .SWC => s.viewSWC n off sel
    | .RST => s.viewRST n off sel
    | .CMT => s.viewCMT n off
    | .RGC => s.viewRGC pg off sel
    | .HST => s.viewHST off sel
    | .ORB => s.viewORB off sel
    | .MGT => s.viewMGT off sel
    | .SEC => s.viewSEC off i
    | .FLT => s.viewFLT off i
    | .PWR => s.viewPWR off
    | .CLK => s.viewCLK off

/-- The value of the register at offset `off` of page `pg`, as session slot `i` reads it. -/
def State.shown (s : State) (p : Pfx) (n pg : Nat) (r : RegRow) (i : Nat) : Word :=
  let sel := s.selected pg r.sel
  (s.view p n pg r.off sel i).getD (s.reg (homePage p pg r.off sel) r.off sel)

end Sys2Proof.Machine
end

