-- ==== Sys2Proof/Machine/Registers.lean ====
section
/-!
DEFINITION. Register access (spec/12_control_plane.md R345 to R349, spec/17_register_summary.md R455 to R463,
spec/00_scope.md R7 to R10, R465): who may write, what a write does, what a read changes, and the batch.
-/

namespace Sys2Proof.Machine

/-! ### Who may write (R345, R389, R461) -/

/-- Roles of a session, numbered as R373 numbers them. -/
abbrev roleOP : Nat := 0
abbrev roleFM : Nat := 1
abbrev roleJC : Nat := 2
abbrev roleMON : Nat := 3
abbrev roleMNT : Nat := 4

/-- The select registers of the pages of a prefix. -/
def selectOffs : Pfx → List Nat
  | .FAB => [Off.FAB_PORT_SEL, Off.FAB_LANE_SEL, Off.FAB_SCH_SEL]
  | .CPB => [Off.CPB_SET_SEL]
  | .MEM => [Off.MEM_CH_SEL, Off.MEM_FWL_SEL]
  | .SWC => [Off.SWC_EM_SEL, Off.SWC_RT_SEL, Off.SWC_PS_SEL, Off.SWC_PORT_SEL, Off.SWC_POOL_SEL, Off.SWC_REQ_SEL, Off.SWC_MIR_SEL]
  | .RST => [Off.RST_SLOT_SEL]
  | .RGC => [Off.RGC_JOB_SEL, Off.RGC_JOB_WSEL, Off.RGC_GRP_SEL, Off.RGC_MBR_SEL, Off.RGC_PLAN_WSEL, Off.RGC_LAG_SEL,
      Off.RGC_SLC_SEL, Off.RGC_SLC_WSEL, Off.RGC_WIN_SEL, Off.RGC_WIN_WSEL]
  | .HST => [Off.HST_PORT_SEL, Off.HST_NET_SEL]
  | .ORB => [Off.ORB_GPORT_SEL, Off.ORB_GENT_SEL, Off.ORB_CAL_SEL]
  | .MGT => [Off.MGT_CHIT_SEL, Off.MGT_SESS_SEL, Off.MGT_EVT_SEL]
  | .SEC => [Off.SEC_ANCHOR_SEL]
  | .FLT => [Off.FLT_LOG_SEL]
  | .PWR => [Off.PWR_TEMP_SEL]
  | .CLK => [Off.CLK_FREQ_SEL]
  | .RDX | .CMT => []

/-- Who may write a register of the common header. -/
def State.mayWriteHeader (s : State) (off role : Nat) : Bool :=
  if off = Off.BLK_CTRL ∨ off = Off.BLK_EVENT_EN ∨ off = Off.BLK_FAULT_MAP ∨ off = Off.BLK_ARB_CFG then role == roleOP
  else if off = Off.BLK_EVENT ∨ off = Off.BLK_FIRST_ERR0 then role == roleOP || role == roleFM
  else if Off.BLK_PERF_SEL0 ≤ off ∧ off ≤ Off.BLK_PERF_SEL3 then role == roleOP || role == roleFM || role == roleMON
  else if off = Off.BLK_EVENT_FORCE then role == roleMNT && s.sec.maintOpen
  else false

/-- The requester that `SWC_REQ_SEL` selects is a job slot (R230). -/
def jobRequester (pool req : Nat) : Bool := (pool == 0 && decide (2048 ≤ req)) || pool == 4 || pool == 5

/-- Who may write a register of a switch block. -/
def mayWriteSWC (off sel role : Nat) : Bool :=
  if (off = Off.SWC_REQ_MIN ∨ off = Off.SWC_REQ_MAX) ∧ jobRequester (sel / 4096) (sel % 4096) then role == roleJC
  else role == roleFM

/-- Who may write a register of a reduction store. -/
def mayWriteRST (off role : Nat) : Bool :=
  if off = Off.RST_QUOTA_MIN ∨ off = Off.RST_QUOTA_MAX then role == roleJC
  else if off = Off.RST_QUOTA_CUR then role == roleFM || role == roleJC
  else false

/-- Who may write a register of the management block; a session writes its own `MGT_SESS_CTRL`, an OPERATOR that of
every slot, and only an OPERATOR the bit `close`. -/
def mayWriteMGT (off sel i role : Nat) (w : Word) : Bool :=
  if off = Off.MGT_SESS_CTRL then role == roleOP || (sel == i && !bit w 0)
  else if off = Off.MGT_POSITION then role == roleFM || role == roleOP
  else if off = Off.MGT_MODE then role == roleFM
  else role == roleOP

/-- Who may write a register of the security block (R389). -/
def mayWriteSEC (off role : Nat) (w : Word) : Bool :=
  if off = Off.SEC_RPT_OFF then true
  else if off = Off.SEC_MAINT_CTRL then (role == roleOP && !bit w 0) || (role == roleMNT && !bit w 1)
  else if off = Off.SEC_ANCHOR_CTRL ∨ (Off.SEC_ANCHOR_HASH0 ≤ off ∧ off ≤ Off.SEC_ANCHOR_HASH7) ∨ off = Off.SEC_STAGE_ADDR ∨
      off = Off.SEC_STAGE_DATA ∨ off = Off.SEC_MAINT_TMO then role == roleOP
  else false

/-- The role of session slot `i` may make this write. -/
def State.mayWrite (s : State) (p : Pfx) (off sel i : Nat) (w : Word) : Bool :=
  let role := (s.sess i).role.val
  if off < 0x80 then s.mayWriteHeader off role
  else if (selectOffs p).contains off then true
  else
    match p with
    | .FAB | .ORB => role == roleFM
    | .SWC => mayWriteSWC off sel role
    | .RST => mayWriteRST off role
    | .RGC => role == roleJC
    | .HST | .MEM | .PWR | .CLK => role == roleOP
    | .MGT => mayWriteMGT off sel i role w
    | .SEC => mayWriteSEC off role w
    | .FLT => off == Off.FLT_LOG_OFF || role == roleOP
    | .CPB | .CMT | .RDX => false

/-! ### Plain writes (R7, R465) -/

/-- `BLK_CTRL.cfg_lock` of a page (R348). -/
def State.cfgLocked (s : State) (pg : Nat) : Bool := s.rbit pg Off.BLK_CTRL 3

/-- A register with one field written by its access code; a range takes the nearest end. -/
def Fld.write (f : Fld) (locked : Bool) (w old : Word) : Word :=
  let v := clampNat f.min f.max (fld w f.lo f.w)
  match f.acc with
  | .RW => setFld old f.lo f.w v
  | .LRW => if locked then old else setFld old f.lo f.w v
  | .W1C => old &&& ~~~(word (fld w f.lo f.w * 2 ^ f.lo))
  | .RO | .WO | .W1S | .RCL | .ROH => old

/-- Some field of a register is locked. -/
def RegRow.isLocked (r : RegRow) (locked : Bool) : Bool := locked && r.fields.any fun f => f.acc == .LRW

/-- Status OK and status LOCKED of R347. -/
abbrev stOK : Nat := 0
abbrev stLocked : Nat := 1

/-- What a write answers: a status and the state after it. -/
abbrev Wrote := Nat × State

/-- A write to a register without behaviour of its own; `cfg_lock` does not lock fields bound to a job. -/
def State.plainWrite (s : State) (p : Pfx) (pg : Nat) (r : RegRow) (sel : Nat) (w : Word) (jobBound : Bool := false) : Wrote :=
  let home := homePage p pg r.off sel
  let lk := s.cfgLocked pg && !jobBound
  let v := r.fields.foldl (fun old f => f.write lk w old) (s.reg home r.off sel)
  (if r.isLocked lk then stLocked else stOK, s.setReg home r.off v sel)

/-! ### The common header (R390 to R397, R404, R457 to R460) -/

/-- `quiesce` of a block takes a value (R458). -/
def State.setQuiesce (s : State) (pg : Nat) (on : Bool) : State :=
  let was := s.rbit pg Off.BLK_CTRL 1
  let st := s.rfld pg Off.BLK_STATE 0 2
  let s := s.setRfld pg Off.BLK_CTRL 1 1 on.toNat
  if on ∧ !was then s.setRfld pg Off.BLK_STATE 0 2 2
  else if !on ∧ was ∧ st ≠ 0 then s.setRfld pg Off.BLK_STATE 0 2 1
  else s

/-- The block of a page holds a resource of an ARMED, RUNNING or DRAINING job (R458). -/
def State.blockHolds (s : State) (pg : Nat) : Bool :=
  let live := s.heldSlots
  match pfxOf pg with
  | some (.FAB, b) => (List.range 8).any fun i => (s.port (8 * b + i)).descs.any fun d =>
      match s.buf d.buf with | some x => (match x.job with | some j => live.contains j | none => false) | none => false
  | some (.CPB, n) => (s.cpb n).sets.any fun x => live.contains x.slot
  | some (.MEM, m) => live.any fun j => match (s.job j).cfg with
      | some c => c.windows.any fun x => x.2.regions.contains (m / 8)
      | none => false
  | some (.RDX, i) => s.red.chunks.any fun k => live.contains k.slot && (k.region * 16 + k.cell) / 4 == i
  | some (.SWC, r) => live.any fun j => (s.jobQuota 0 r j).1 != 0 || s.inUse 0 r (jobReq j) != 0
  | some (.RST, r) => live.any fun j => (s.jobQuota 1 r j).1 != 0 || s.inUse 1 r j != 0 || s.inUse 4 r j != 0
  | some (.CMT, r) => live.any fun j => match (s.job j).cfg with
      | some c => c.cmtCount != 0 && c.cmtRegion == r
      | none => false
  | some (.RGC, _) => !live.isEmpty
  | _ => false

/-- A write of 1 to `reset_req`. -/
def State.requestReset (s : State) (pg : Nat) : Wrote :=
  if s.rfld pg Off.BLK_STATE 0 2 = 3 ∧ !s.blockHolds pg then (stOK, s.setRfld pg Off.BLK_STATE 0 2 0) else (stLocked, s)

/-- A write of `BLK_CTRL`: chip blocks ignore `quiesce` and `reset_req` (R348, R458). -/
def State.writeCtrl (s : State) (pg : Nat) (w : Word) : Wrote :=
  let (a, t) :=
    if pg / 256 < 4 then
      let t := s.setQuiesce pg (bit w 1)
      if bit w 2 then t.requestReset pg else (stOK, t)
    else (stOK, s)
  if bit w 3 then (a, t.setRfld pg Off.BLK_CTRL 3 1 1)
  else if s.cfgLocked pg then (stLocked, t)
  else (a, t)

/-- The classes that a write of `BLK_FAULT_MAP` sets: none below the default (R391, R66). -/
def faultMap (events : List Nat) (w : Word) : Word :=
  word (pack2 (events.zipIdx.map fun x => max x.1 (fld w (2 * x.2) 2)))

/-- A write of a register of the common header. -/
def State.writeHeader (s : State) (p : Pfx) (pg : Nat) (r : RegRow) (w : Word) : Wrote :=
  if r.off = Off.BLK_CTRL then s.writeCtrl pg w
  else if r.off = Off.BLK_EVENT_FORCE then (stOK, s.forceEvents pg w)
  else if r.off = Off.BLK_FAULT_MAP then
    (if s.cfgLocked pg then (stLocked, s) else (stOK, s.setReg pg r.off (faultMap p.events w)))
  else if r.off = Off.BLK_FIRST_ERR0 then (stOK, if bit w 31 then s.setCapture pg [] else s)
  else if Off.BLK_PERF_SEL0 ≤ r.off ∧ r.off ≤ Off.BLK_PERF_SEL3 then
    let c := Off.BLK_PERF_CNT + 2 * (r.off - Off.BLK_PERF_SEL0)
    (stOK, ((s.setReg pg r.off (word (fld w 0 16))).setReg pg c 0).setReg pg (c + 4) 0)
  else s.plainWrite p pg r 0 w

/-! ### Port blocks -/

/-- A write to a page of port block `b` (R284, R293, R298). -/
def State.writeFAB (s : State) (b : Nat) (r : RegRow) (sel : Nat) (w : Word) : Wrote :=
  let pg := pgFab b
  let (a, t) := s.plainWrite .FAB pg r sel w
  if r.off = Off.FAB_BLK_MODE then (a, if s.pwr.shed then t else s.configBlock b w)
  else if r.off = Off.FAB_PORT_CTRL ∧ bit w 2 ∧ !s.rbit pg r.off 2 sel then
    (a, t.modPort (8 * b + sel) fun x => { x with idleSince := s.now })
  else if r.off = Off.FAB_PORT_SLEEP ∧ s.rfld pg r.off 0 16 sel = 0 ∧ fld w 0 16 ≠ 0 then
    (a, t.modPort (8 * b + sel) fun x => { x with idleSince := s.now })
  else if r.off = Off.FAB_LANE_CTRL ∧ bit w 2 then
    (a, (t.setRfld pg r.off 2 1 1 sel).requestStep (t.lanePort (8 * b + sel)) (.eyeScan (Fin.ofNat 8 sel)))
  else (a, t)

/-! ### Locks of a job (R7, R20, R92) -/

/-- A write that the lock of job slots refuses: each counts it, and `lock_violation` is raised in region `r`
(R92, R411). -/
def State.lockViolation (s : State) (r : Nat) (slots : List Nat) : State :=
  slots.foldl (fun s j => (s.bump (pgRgc r) Off.RGC_LOCK_VIOL j).raise
    { pg := pgRgc r, ev := 3, access := 0xB, akind := 6, addr := j, job := some j }) s

/-- A write of a field bound to job slot `j`, locked while the job is ARMED or RUNNING. -/
def State.boundWrite (s : State) (r j : Nat) (t : Wrote) : Wrote :=
  if (s.job j).st.locked then (stLocked, s.lockViolation r [j]) else t

/-! ### Switch blocks and pools -/

/-- A `min` of a requester that R233 refuses: below the floor of a lossless ingress requester, or beyond the
pool with every other guarantee, as they stand in `t`; a job that drains has the `min` bound at its arming still. -/
def State.minRefused (t : State) (pool r req v : Nat) : Bool :=
  (pool == 0 && decide (req < 2048 ∧ v < 36 ∧ 2 ≤ reqClass req ∧ reqClass req ≤ 6)) ||
  (let late := if jobRequester pool req then v - (t.quota pool r req).1 else 0
   decide (poolSize pool < t.guarantees pool r + late))

/-- A `min` written, or refused and counted (R233); the level of the pool follows. -/
def State.writeMin (s : State) (r pool req v : Nat) (w : Wrote) : Wrote :=
  if w.2.minRefused pool r req v then (stOK, s.bump (pgSwc r) Off.SWC_QUOTA_REFUSED)
  else (w.1, w.2.watchLevel pool r (s.poolLevel pool r))

/-- A write of a quota of the requester `req` of a pool of region `r` (R230, R233, R243). -/
def State.writeReq (s : State) (r : Nat) (row : RegRow) (sel : Nat) (w : Word) : Wrote :=
  let pool := sel / 4096
  let req := sel % 4096
  let t := s.plainWrite .SWC (pgSwc r) row sel w
  if !reqExists pool req then (stOK, s)
  else if pool = 0 ∧ req < 2048 ∧ reqClass req = 1 then (stLocked, s)
  else
    let x := if row.off = Off.SWC_REQ_MIN then s.writeMin r pool req (fld w 0 21) t else t
    if jobRequester pool req ∧ row.off ≠ Off.SWC_REQ_CUR then s.boundWrite r (if pool = 0 then req - 2048 else req) x
    else x

/-- A write of the forwarding tables: through the page of the lowest unfenced region, and not while a swap runs
(R83, R213, R239). -/
def State.writeForwarding (s : State) (r : Nat) (row : RegRow) (sel : Nat) (w : Word) : Wrote :=
  if s.lowRegion ≠ some r then (stLocked, s)
  else if row.off ≠ Off.SWC_PS_WEIGHT ∧ s.sw.swap.isSome then (stOK, s.bumpSat (pgSwc r) Off.SWC_SWAP_STAT 16 16)
  else s.plainWrite .SWC (pgSwc r) row sel w

/-- A write to the page of the switch block of region `r`. -/
def State.writeSWC (s : State) (r : Nat) (row : RegRow) (sel : Nat) (w : Word) : Wrote :=
  let (a, t) := s.plainWrite .SWC (pgSwc r) row sel w
  if forwardingOff row.off then s.writeForwarding r row sel w
  else if row.off = Off.SWC_REQ_SEL ∧ !reqExists (s.rfld (pgSwc r) Off.SWC_POOL_SEL 0 3) 0 then (stOK, s)
  else if Off.SWC_REQ_MIN ≤ row.off ∧ row.off ≤ Off.SWC_REQ_CUR then s.writeReq r row sel w
  else if row.off = Off.SWC_PORT_HDRM then
    let h := portRegion sel
    (a, t.watchLevel 0 h (s.poolLevel 0 h))
  else if row.off = Off.SWC_MIR_CFG then
    (a, { t with sw := { t.sw with mirror := t.sw.mirror.put 0 (sel % 512 * 8 + sel / 512) 0 } })
  else (a, t)

/-- A write to the page of the reduction store of region `r`. -/
def State.writeRST (s : State) (r : Nat) (row : RegRow) (sel : Nat) (w : Word) : Wrote :=
  let t := s.plainWrite .RST (pgRst r) row sel w true
  if row.off = Off.RST_QUOTA_MIN then s.boundWrite r sel (s.writeMin r 1 sel (fld w 0 21) t)
  else if row.off = Off.RST_QUOTA_MAX then s.boundWrite r sel t
  else t

/-! ### Tables -/

/-- The job of a slot is defined by a write of `JOB_ID` to an empty or RETIRED slot (R90). -/
def State.defineJob (s : State) (slot : Nat) : State :=
  match (s.job slot).st with
  | .empty | .retired => s.modJob slot fun _ => { st := .defined }
  | _ => s

/-- Some group covers entry `i` of the member array, which binds the entry to that group's job (R85). -/
def State.memberBound (s : State) (i : Nat) : Bool :=
  (s.tblWhere .group 0 fun w => bit w 31).any fun g =>
    let w := s.tbl .group g 0
    decide (fld w 0 18 ≤ i ∧ i < fld w 0 18 + fld w 18 13)

/-- A write of word `w` of entry `i` of a table through region `r` (R83, R90, R92). A member entry bound to no job is
locked by `cfg_lock` (R7, R348). -/
def State.writeTable (s : State) (r : Nat) (k : TKind) (i w : Nat) (v : Word) : Wrote :=
  if s.lowRegion ≠ some r then (stLocked, s)
  else if tableMask k w = 0 then (stOK, s)
  else if !(s.lockers k i).isEmpty then (stLocked, s.lockViolation r (s.lockers k i))
  else if k = .member ∧ s.cfgLocked (pgRgc r) ∧ !s.memberBound i then (stLocked, s)
  else
    let t := s.writeTbl k i w v
    (stOK, if k = .job ∧ w = 0 then t.defineJob i else t)

/-- A write to the page of the region control block of region `r`. -/
def State.writeRGC (s : State) (r : Nat) (row : RegRow) (sel : Nat) (w : Word) : Wrote :=
  match s.tableOf (pgRgc r) row.off with
  | some (k, i, x) => s.writeTable r k i x w
  | none => s.plainWrite .RGC (pgRgc r) row sel w

/-! ### Chip blocks -/

/-- A write of `ORB_CTRL` (R255 to R259). -/
def State.writeOrbCtrl (s t : State) (w : Word) : State :=
  let was := s.rbit pgOrb Off.ORB_CTRL 0
  if bit w 0 ∧ !was then t.becomeMaster
  else if !bit w 0 ∧ was then t.ceaseMaster
  else if !bit w 1 ∧ s.rbit pgOrb Off.ORB_CTRL 1 then t.masterResume
  else t

/-- The ports whose BEACON enable a write of `ORB_BEACON_EN` register `i` clears have been idle from now on (R298). -/
def State.clearBeacons (s : State) (i : Nat) (old new : Word) : State :=
  ((List.range 32).filter fun j => bit old j && !bit new j).foldl (fun s j =>
    s.modPort (32 * i + j) fun x => { x with idleSince := s.now }) s

/-- A change of the PTP enable or network starts the wall clock's servo anew (R279). -/
def State.writePtpCtrl (s t : State) : State :=
  let en := t.rbit pgOrb Off.ORB_PTP_CTRL 0
  let net := t.rbit pgOrb Off.ORB_PTP_CTRL 1
  if en = s.rbit pgOrb Off.ORB_PTP_CTRL 0 ∧ net = s.rbit pgOrb Off.ORB_PTP_CTRL 1 then t
  else { t with wall := { t.wall with state := if en then 1 else 0, net := if net then 1 else 0, sync := none } }

/-- A write to schedule entry `e` makes its words good again (R280). -/
def State.calRewrite (s : State) (e : Nat) : State :=
  { s with orb := { s.orb with calBad := s.orb.calBad.erase e, calErr := s.orb.calErr.put 0 e 0 } }

/-- The identity of a module that is orbit master, where it has changed (R255). -/
def State.renewMaster (s : State) : State :=
  if s.orb.st = .master then s.setMaster (some s.masterId) else s

/-- A write to the orbit block's page. -/
def State.writeORB (s : State) (r : RegRow) (sel : Nat) (w : Word) : Wrote :=
  let (a, t) := s.plainWrite .ORB pgOrb r sel w
  if r.off = Off.ORB_CTRL then (a, s.writeOrbCtrl t w)
  else if r.off = Off.ORB_GPORT_SWAP then (a, t.scheduleSwap sel w)
  else if Off.ORB_BEACON_EN0 ≤ r.off ∧ r.off ≤ Off.ORB_BEACON_EN15 then
    (a, t.clearBeacons ((r.off - Off.ORB_BEACON_EN0) / 4) (s.reg pgOrb r.off) w)
  else if r.off = Off.ORB_PTP_CTRL then (a, s.writePtpCtrl t)
  else if r.off = Off.ORB_MASTER_ID then (a, t.renewMaster)
  else if Off.ORB_CAL_TARGET ≤ r.off ∧ r.off ≤ Off.ORB_CAL_SECT_HI then (a, t.calRewrite sel)
  else (a, t)

/-- A write of `MGT_SESS_CTRL` of slot `sel` by session slot `i`: its own subscription bits, and `close` (R344,
R345). A session that closes itself closes once its request is answered. -/
def State.writeSession (s : State) (sel i : Nat) (w : Word) : State :=
  let s :=
    if sel = i then
      s.modSess i fun x =>
        { x with
          evtEn := bit w 1
          evtMask := BitVec.ofNat 4 (fld w 2 4)
          telPerf := bit w 6
          telCmap := bit w 7
          telMirror := bit w 8 }
    else s
  if !bit w 0 then s
  else if sel = i then s.modSess i fun x => { x with closing := true }
  else if (s.sess sel).st = .opened then s.closeSession sel (some 2)
  else s

/-- A write to the management block's page. -/
def State.writeMGT (s : State) (r : RegRow) (sel i : Nat) (w : Word) : Wrote :=
  if r.off = Off.MGT_SESS_CTRL then (stOK, s.writeSession sel i w)
  else if r.off = Off.MGT_POSITION then
    (match s.writePosition w with | some t => (stOK, t.renewMaster) | none => (stLocked, s))
  else if r.off = Off.MGT_MODE then (stOK, s.writeMode w)
  else
    let (a, t) := s.plainWrite .MGT pgMgt r sel w
    if r.off = Off.MGT_NETCFG ∧ bit w 0 then (a, t.saveNet)
    else if r.off = Off.MGT_SHUTDOWN ∧ bit w 0 then (a, t.requestShutdown)
    else (a, t)

/-- A staging word is stored and the address advances by 4 (R383). -/
def State.stageWord (s : State) (w : Word) : State :=
  let a := s.rfld pgSec Off.SEC_STAGE_ADDR 0 22
  ({ s with sec := { s.sec with stage := Memory.write s.sec.stage a (leBytes 4 w.toNat) } }).setRfld pgSec Off.SEC_STAGE_ADDR 0 22 (a + 4)

/-- A write to the security block's page by session slot `i`. -/
def State.writeSEC (s : State) (r : RegRow) (sel i : Nat) (w : Word) : Wrote :=
  let (a, t) := s.plainWrite .SEC pgSec r sel w
  if r.off = Off.SEC_ANCHOR_CTRL then
    let t := if bit w 0 then s.installAnchor else s
    (stOK, if bit w 1 then t.removeAnchor else t)
  else if r.off = Off.SEC_STAGE_ADDR then (a, s.setReg pgSec r.off (word (fld w 2 20 * 4)))
  else if r.off = Off.SEC_STAGE_DATA then (stOK, s.stageWord w)
  else if r.off = Off.SEC_MAINT_CTRL then
    let t := if bit w 0 then s.consentM else s
    let t := if bit w 1 then t.consentO else t
    (stOK, if bit w 2 then t.closeLock else t)
  else if r.off = Off.SEC_RPT_OFF then (stOK, s.modSess i fun x => { x with rptOff := fld w 0 18 })
  else (a, t)

/-- A write to the fault aggregator's page by session slot `i`. -/
def State.writeFLT (s : State) (r : RegRow) (sel i : Nat) (w : Word) : Wrote :=
  if r.off = Off.FLT_FAULTN then
    let t := s.holdFaultn (bit w 0)
    let t := if bit w 1 then t.releaseFaultn else t
    (stOK, if bit w 2 then t.testFaultn else t)
  else if r.off = Off.FLT_LOG_SEL then (stOK, s.modSess i fun x => { x with logSel := w })
  else if r.off = Off.FLT_LOG_OFF then (stOK, s.modSess i fun x => { x with logOff := fld w 2 7 * 4 })
  else s.plainWrite .FLT pgFlt r sel w

/-- A write to the power block's page: thresholds that do not rise are ignored (R439). -/
def State.writePWR (s : State) (r : RegRow) (sel : Nat) (w : Word) : Wrote :=
  if r.off = Off.PWR_THERM ∧ ¬(fld w 0 8 < fld w 8 8 ∧ fld w 8 8 < 110) then (stOK, s)
  else s.plainWrite .PWR pgPwr r sel w

/-- A write to the clock block's page: the floor moves the step level (R434). -/
def State.writeCLK (s : State) (r : RegRow) (sel : Nat) (w : Word) : Wrote :=
  if r.off = Off.CLK_STEP then
    (stOK, s.moveTarget 0 fun t => t.setRfld pgClk Off.CLK_STEP 0 2 (clampNat 0 2 (fld w 0 2)))
  else s.plainWrite .CLK pgClk r sel w

/-! ### The access (R347, R401, R455) -/

/-- A write of a mapped register, after the checks. -/
def State.writeReg (s : State) (p : Pfx) (n pg : Nat) (r : RegRow) (i : Nat) (w : Word) : Wrote :=
  let sel := s.selected pg r.sel
  if r.off < 0x80 then s.writeHeader p pg r w
  else
    match p with
    | .FAB => s.writeFAB n r sel w
    | .SWC => s.writeSWC n r sel w
    | .RST => s.writeRST n r sel w
    | .RGC => s.writeRGC n r sel w
    | .ORB => s.writeORB r sel w
    | .MGT => s.writeMGT r sel i w
    | .SEC => s.writeSEC r sel i w
    | .FLT => s.writeFLT r sel i w
    | .PWR => s.writePWR r sel w
    | .CLK => s.writeCLK r sel w
    | .CPB | .MEM | .RDX | .CMT | .HST => s.plainWrite p pg r sel w

/-- The register whose high word, or other part, a read of register `off` latches (R10, R281). -/
def latches (p : Pfx) (off : Nat) : List Nat :=
  if Off.BLK_PERF_CNT ≤ off ∧ off < 0x80 ∧ off % 8 = 0 then [off + 4]
  else if p = .FAB ∧ off = Off.FAB_FEC_CW_LO then [Off.FAB_FEC_CW_HI]
  else if p = .ORB ∧ off = Off.ORB_WALL_SEC_LO then [Off.ORB_WALL_SEC_HI, Off.ORB_WALL_NS]
  else []

/-- The register that holds part of a counter read low word first. -/
def isLatched (p : Pfx) (off : Nat) : Bool :=
  (decide (Off.BLK_PERF_CNT ≤ off ∧ off < 0x80) && off % 8 == 4) || (p == .FAB && off == Off.FAB_FEC_CW_HI) ||
  (p == .ORB && (off == Off.ORB_WALL_SEC_HI || off == Off.ORB_WALL_NS))

/-- The low word of a counter latches the rest for the session that reads it (R349). -/
def State.latch (s : State) (p : Pfx) (n pg : Nat) (r : RegRow) (i : Nat) : State :=
  let sel := s.selected pg r.sel
  (latches p r.off).foldl (fun s o =>
    let v := s.shown p n pg { r with off := o } i
    s.modSess i fun x => { x with latch := (x.latch.drop fun k => k == rkey pg o sel) ++ [(rkey pg o sel, v)] }) s

/-- The word that session slot `i` has latched for a register, if any. -/
def State.latched (s : State) (pg off sel i : Nat) : Option Word :=
  ((s.sess i).latch.find? fun kv => kv.1 == rkey pg off sel).map (·.2)

/-- The fields that a read clears, cleared (R7); `fom_min` then reads all ones (R305). -/
def State.clearRead (s : State) (p : Pfx) (pg : Nat) (r : RegRow) : State :=
  let sel := s.selected pg r.sel
  let rcl := r.fields.filter fun f => f.acc == .RCL
  if rcl.isEmpty then s
  else
    let v := rcl.foldl (fun w f => setFld w f.lo f.w (if p = .FAB ∧ r.off = Off.FAB_LANE_FOM then 0xFF else 0)) (s.reg pg r.off sel)
    s.setReg pg r.off v sel

/-- What a read changes besides latches and cleared fields: offsets that advance, and open values used up. -/
def State.afterRead (s : State) (p : Pfx) (off i : Nat) : State :=
  if off = Off.BLK_ARB_STAT then { s with free := s.free + 1 }
  else match p with
  | .SEC => if off = Off.SEC_RPT_DATA then s.modSess i fun x => { x with rptOff := (x.rptOff + 4) % 2 ^ 18 } else s
  | .FLT => if off = Off.FLT_LOG_DATA then s.modSess i fun x => { x with logOff := (x.logOff + 4) % 512 } else s
  | .MGT =>
    if (Off.MGT_CHIT_REC0 ≤ off ∧ off ≤ Off.MGT_CHIT_REC7) ∨ (Off.MGT_EVT_REC0 ≤ off ∧ off ≤ Off.MGT_EVT_REC7) then
      { s with free := s.free + 8 }
    else s
  | _ => s

/-- A read of a mapped register by session slot `i`: its value, and the state after. -/
def State.readReg (s : State) (p : Pfx) (n pg : Nat) (r : RegRow) (i : Nat) : Word × State :=
  let sel := s.selected pg r.sel
  let v := s.shown p n pg r i
  let v := if isLatched p r.off then (s.latched pg r.off sel i).getD v else v
  let t := ((s.latch p n pg r i).clearRead p pg r).afterRead p r.off i
  if p = .RGC ∧ (s.tableOf pg r.off).isSome then
    let (ok, u) := t.eccRead (.table n)
    (if ok then v else word (Config.wordCode (pg * 2 ^ 14 + r.off) 0).2, u)
  else (v, t)

/-- An access to the register at offset `off` of page `pg` of a fenced region is refused: every write, and every
read beyond the common header; a port's own registers wherever they are reached (R243, R401). -/
def State.accessFenced (s : State) (p : Pfx) (pg off sel : Nat) (write : Bool) : Bool :=
  (decide (pg / 256 < 4) && s.isFenced (pg / 256) && (write || decide (0x80 ≤ off))) ||
  (p == .SWC && perPortOff off && s.isFenced (portRegion (sel % 512)))

/-- Result of one operation: status, value read, state (R347). -/
structure Accessed where
  status : Nat
  value : Word
  after : State

/-- One operation of session slot `i`: a read, or a write of a word. -/
def State.access (s : State) (i addr : Nat) (w : Option Word) : Accessed :=
  let pg := addr / 2 ^ 14
  let off := addr % 2 ^ 14
  match pfxOf pg with
  | none => ⟨2, 0, s⟩
  | some (p, n) =>
    match regRow p off with
    | none => ⟨2, 0, s⟩
    | some r =>
      let sel := s.selected pg r.sel
      match w with
      | some v =>
        if !s.mayWrite p off sel i v then ⟨3, 0, s⟩
        else if s.accessFenced p pg off sel true then ⟨4, 0, s⟩
        else
          let t := s.writeReg p n pg r i v
          ⟨t.1, 0, t.2⟩
      | none =>
        if s.accessFenced p pg off sel false then ⟨4, 0, s⟩
        else
          let t := s.readReg p n pg r i
          ⟨0, t.1, t.2⟩

/-- A session that has set its own `close` bit closes, and flow control follows the pools. -/
def State.endAccess (s : State) (i : Nat) : State :=
  (if (s.sess i).closing then s.closeSession i (some 3) else s).watchFlow

/-! ### REG_BATCH (R346, R347, R371) -/

/-- Operation `k` of a batch body: its address word and its data. -/
def batchOp (body : List Byte) (k : Nat) : Nat × Word := (leAt body (8 * k) 4, word (leAt body (8 * k + 4) 4))

/-- An operation keeps the layout of R346. -/
def batchOpOk (o : Nat × Word) : Bool :=
  bits o.1 0 2 == 0 && bits o.1 26 4 == 0 && (bits o.1 30 2 == 1 || (bits o.1 30 2 == 0 && o.2 == 0))

/-- A body keeps the layout of R346. -/
def batchOk (body : List Byte) : Bool :=
  body.length != 0 && body.length % 8 == 0 && decide (body.length ≤ 8192) &&
  (List.range (body.length / 8)).all fun k => batchOpOk (batchOp body k)

/-- The operations of a batch in order, up to the first that stops it: the result entries, the stopping status or 0,
and the state after. -/
def State.runBatch (s : State) (i : Nat) : List (Nat × Word) → List Byte × Nat × State
  | [] => ([], 0, s)
  | o :: t =>
    let a := s.access i (bits o.1 0 26) (if bits o.1 30 2 = 1 then some o.2 else none)
    let e := leBytes 4 a.value.toNat ++ leBytes 4 a.status
    if 2 ≤ a.status then (e, a.status, a.after.finish)
    else
      let (es, st, u) := State.runBatch a.after.finish i t
      (e ++ es, st, u)

/-- The code of R371 for a stopping status. -/
def stopCode : Nat → Nat
  | 2 => 0x0A06
  | 3 => 0x0A01
  | 4 => 0x0A07
  | _ => 0

/-- The answer to a batch. -/
def State.batchReply (s : State) (m : RalowIn) (body : List Byte) : State :=
  if !m.reservedOk ∨ !batchOk body then s.reply m 0x0A02 0 0 []
  else
    let i := m.slot.val
    let (es, st, t) := s.runBatch i ((List.range (body.length / 8)).map (batchOp body))
    (t.reply m (stopCode st) (es.length / 8) 0 es).endAccess i

/-- REG_BATCH. -/
def execRegBatch (m : RalowIn) (body : List Byte) (s : State) : Out := onMsg m s fun s => s.batchReply m body

/-! ### Single accesses -/

/-- A session that can access registers: open, on a running chip. -/
def State.canAccess (s : State) (i : Nat) : Bool := s.awake && (s.sess i).st == .opened

/-- One access of a session outside a batch, with its result entry. -/
def State.single (s : State) (i addr : Nat) (w : Option Word) : State :=
  let a := s.access i addr w
  (a.after.emit (.entry i a.status a.value)).endAccess i

/-- A row of a register write by a session: it acts where the session is open and the data say what the row says. -/
def onWrite (due : Bool) (sess : Sess) (pg off : Nat) (data : Word) (s : State) : Out :=
  actIf (due && s.canAccess sess.val) s (s.single sess.val (pg * 2 ^ 14 + off) (some data))

/-- A row of a register read by a session. -/
def onRead (sess : Sess) (addr : Nat) (s : State) : Out := actIf (s.canAccess sess.val) s (s.single sess.val addr none)

/-- The page of a block. -/
def BlockRef.page : BlockRef → Nat
  | .fab b => pgFab b.val
  | .cpb b => pgCpb b.val
  | .mem b => pgMem b.val
  | .rdx b => pgRdx b.val
  | .swc r => pgSwc r.val
  | .rst r => pgRst r.val
  | .cmt r => pgCmt r.val
  | .rgc r => pgRgc r.val
  | .hst => pgHst
  | .orb => pgOrb
  | .mgt => pgMgt
  | .sec => pgSec
  | .flt => pgFlt
  | .pwr => pgPwr
  | .clk => pgClk

/-- The offset of a table window register. -/
def TableReg.off : TableReg → Nat
  | .job => Off.RGC_JOB_DATA
  | .group w => Off.RGC_GRP_W0 + 4 * w.val
  | .memberLo => Off.RGC_MBR_LO
  | .memberHi => Off.RGC_MBR_HI
  | .plan => Off.RGC_PLAN_DATA
  | .slice => Off.RGC_SLC_DATA
  | .window => Off.RGC_WIN_DATA

/-- JOB_DEFINE: the write of `JOB_ID`, word 0 of the selected slot. -/
def execJobDefine (sess : Sess) (region : Region) (data : Word) (s : State) : Out :=
  onWrite (s.rfld (pgRgc region.val) Off.RGC_JOB_WSEL 0 8 == 0) sess (pgRgc region.val) Off.RGC_JOB_DATA data s

/-- TABLE_WINDOW_WRITE. -/
def execTableWindowWrite (sess : Sess) (region : Region) (reg : TableReg) (data : Word) (s : State) : Out :=
  onWrite true sess (pgRgc region.val) (TableReg.off reg) data s

/-- PATH_WEIGHT_WRITE. -/
def execPathWeightWrite (sess : Sess) (region : Region) (data : Word) (s : State) : Out :=
  onWrite true sess (pgSwc region.val) Off.SWC_PS_WEIGHT data s

/-- QUOTA_MIN_WRITE: of the reduction store, or of the switch block's pools. -/
def execQuotaMinWrite (sess : Sess) (region : Region) (rst : Bool) (data : Word) (s : State) : Out :=
  if rst then onWrite true sess (pgRst region.val) Off.RST_QUOTA_MIN data s
  else onWrite true sess (pgSwc region.val) Off.SWC_REQ_MIN data s

/-- PORT_BLOCK_CONFIG. -/
def execPortBlockConfig (sess : Sess) (blk : Fin 64) (data : Word) (s : State) : Out :=
  onWrite true sess (pgFab blk.val) Off.FAB_BLK_MODE data s

/-- EYE_SCAN_REQUEST. -/
def execEyeScanRequest (sess : Sess) (blk : Fin 64) (data : Word) (s : State) : Out :=
  onWrite (bit data 2) sess (pgFab blk.val) Off.FAB_LANE_CTRL data s

/-- MIRROR_CONFIG. -/
def execMirrorConfig (sess : Sess) (region : Region) (data : Word) (s : State) : Out :=
  onWrite true sess (pgSwc region.val) Off.SWC_MIR_CFG data s

/-- GATE_SWAP_SCHEDULE. -/
def execGateSwapSchedule (sess : Sess) (data : Word) (s : State) : Out := onWrite true sess pgOrb Off.ORB_GPORT_SWAP data s

/-- MASTER_ENABLE. -/
def execMasterEnable (sess : Sess) (data : Word) (s : State) : Out := onWrite (bit data 0) sess pgOrb Off.ORB_CTRL data s

/-- MASTER_DISABLE. -/
def execMasterDisable (sess : Sess) (data : Word) (s : State) : Out := onWrite (!bit data 0) sess pgOrb Off.ORB_CTRL data s

/-- MASTER_HOLD_CLEAR. -/
def execMasterHoldClear (sess : Sess) (data : Word) (s : State) : Out := onWrite (!bit data 1) sess pgOrb Off.ORB_CTRL data s

/-- MGT_POSITION_WRITE. -/
def execMgtPositionWrite (sess : Sess) (data : Word) (s : State) : Out := onWrite true sess pgMgt Off.MGT_POSITION data s

/-- MGT_MODE_WRITE. -/
def execMgtModeWrite (sess : Sess) (data : Word) (s : State) : Out := onWrite true sess pgMgt Off.MGT_MODE data s

/-- NETCFG_SAVE. -/
def execNetcfgSave (sess : Sess) (data : Word) (s : State) : Out := onWrite (bit data 0) sess pgMgt Off.MGT_NETCFG data s

/-- SHUTDOWN_REQUEST. -/
def execShutdownRequest (sess : Sess) (data : Word) (s : State) : Out := onWrite (bit data 0) sess pgMgt Off.MGT_SHUTDOWN data s

/-- SESSION_CLOSE_BIT. -/
def execSessionCloseBit (sess : Sess) (data : Word) (s : State) : Out := onWrite (bit data 0) sess pgMgt Off.MGT_SESS_CTRL data s

/-- ANCHOR_INSTALL. -/
def execAnchorInstall (sess : Sess) (data : Word) (s : State) : Out := onWrite (bit data 0) sess pgSec Off.SEC_ANCHOR_CTRL data s

/-- ANCHOR_REMOVE. -/
def execAnchorRemove (sess : Sess) (data : Word) (s : State) : Out := onWrite (bit data 1) sess pgSec Off.SEC_ANCHOR_CTRL data s

/-- STAGE_DATA_WRITE. -/
def execStageDataWrite (sess : Sess) (data : Word) (s : State) : Out := onWrite true sess pgSec Off.SEC_STAGE_DATA data s

/-- MAINT_CONSENT_M. -/
def execMaintConsentM (sess : Sess) (data : Word) (s : State) : Out := onWrite (bit data 0) sess pgSec Off.SEC_MAINT_CTRL data s

/-- MAINT_CONSENT_O. -/
def execMaintConsentO (sess : Sess) (data : Word) (s : State) : Out := onWrite (bit data 1) sess pgSec Off.SEC_MAINT_CTRL data s

/-- MAINT_CLOSE. -/
def execMaintClose (sess : Sess) (data : Word) (s : State) : Out := onWrite (bit data 2) sess pgSec Off.SEC_MAINT_CTRL data s

/-- FAULTN_RELEASE. -/
def execFaultnRelease (sess : Sess) (data : Word) (s : State) : Out := onWrite (bit data 1) sess pgFlt Off.FLT_FAULTN data s

/-- FAULTN_TEST. -/
def execFaultnTest (sess : Sess) (data : Word) (s : State) : Out := onWrite (bit data 2) sess pgFlt Off.FLT_FAULTN data s

/-- FAULTN_HOLD_WRITE. -/
def execFaultnHoldWrite (sess : Sess) (data : Word) (s : State) : Out := onWrite true sess pgFlt Off.FLT_FAULTN data s

/-- BLK_EVENT_CLEAR. -/
def execBlkEventClear (sess : Sess) (blk : BlockRef) (data : Word) (s : State) : Out :=
  onWrite true sess (BlockRef.page blk) Off.BLK_EVENT data s

/-- FIRST_ERR_CLEAR. -/
def execFirstErrClear (sess : Sess) (blk : BlockRef) (data : Word) (s : State) : Out :=
  onWrite (bit data 31) sess (BlockRef.page blk) Off.BLK_FIRST_ERR0 data s

/-- BLK_EVENT_FORCE. -/
def execBlkEventForce (sess : Sess) (blk : BlockRef) (data : Word) (s : State) : Out :=
  onWrite true sess (BlockRef.page blk) Off.BLK_EVENT_FORCE data s

/-- CFG_LOCK. -/
def execCfgLock (sess : Sess) (blk : BlockRef) (data : Word) (s : State) : Out :=
  onWrite (bit data 3) sess (BlockRef.page blk) Off.BLK_CTRL data s

/-- QUIESCE. -/
def execQuiesce (sess : Sess) (blk : BlockRef) (data : Word) (s : State) : Out :=
  onWrite true sess (BlockRef.page blk) Off.BLK_CTRL data s

/-- RESET_REQ. -/
def execResetReq (sess : Sess) (blk : BlockRef) (data : Word) (s : State) : Out :=
  onWrite (bit data 2) sess (BlockRef.page blk) Off.BLK_CTRL data s

/-- PERF_SELECT_WRITE. -/
def execPerfSelectWrite (sess : Sess) (blk : BlockRef) (counter : Fin 4) (data : Word) (s : State) : Out :=
  onWrite true sess (BlockRef.page blk) (Off.BLK_PERF_SEL0 + 4 * counter.val) data s

/-- CLOCK_FLOOR_WRITE. -/
def execClockFloorWrite (sess : Sess) (data : Word) (s : State) : Out := onWrite true sess pgClk Off.CLK_STEP data s

/-- REGISTER_WRITE. -/
def execRegisterWrite (sess : Sess) (addr : BitVec 26) (data : Word) (s : State) : Out :=
  if addrAligned addr then onWrite true sess (addr.toNat / 2 ^ 14) (addr.toNat % 2 ^ 14) data s else .refused .illFormed

/-- COUNTER_LOW_READ. -/
def execCounterLowRead (sess : Sess) (addr : BitVec 26) (s : State) : Out :=
  if addrAligned addr then onRead sess addr.toNat s else .refused .illFormed

/-- RCL_READ. -/
def execRclRead (sess : Sess) (addr : BitVec 26) (s : State) : Out :=
  if addrAligned addr then onRead sess addr.toNat s else .refused .illFormed

/-- FAULT_LOG_DATA_READ. -/
def execFaultLogDataRead (sess : Sess) (s : State) : Out := onRead sess (pgFlt * 2 ^ 14 + Off.FLT_LOG_DATA) s

/-- REPORT_DATA_READ. -/
def execReportDataRead (sess : Sess) (s : State) : Out := onRead sess (pgSec * 2 ^ 14 + Off.SEC_RPT_DATA) s

/-! ### Quiesce and datapath reset of a block (R458) -/

/-- The block of a page has completed the work it had accepted. -/
def State.blockIdle (s : State) (pg : Nat) : Bool :=
  match pfxOf pg with
  | some (.FAB, b) => (List.range 8).all fun i => (s.port (8 * b + i)).sending.isNone
  | some (.CPB, n) => (List.range 4).all fun i =>
      ((s.cpb n).stream i).st != .running && ((s.cpb n).stream i).st != .waiting
  | some (.MEM, m) => (List.range 4).all fun i => (s.chan (4 * m + i)).queue.isEmpty
  | some (.RDX, i) => (List.range 4).all fun k => (s.red.cellQ.look [] (4 * i + k)).isEmpty
  | some (.SWC, r) => s.sw.bufs.all fun kv => match kv.2 with | some b => b.region != r | none => true
  | some (.RST, r) => s.red.chunks.all fun k => k.region != r
  | some (.CMT, r) => s.openRounds r == 0
  | _ => true

/-- BLOCK_QUIESCED. -/
def execBlockQuiesced (blk : BlockRef) (s : State) : Out :=
  let pg := BlockRef.page blk
  actIf (decide (pg / 256 < 4) && s.rfld pg Off.BLK_STATE 0 2 == 2 && s.blockIdle pg) s (s.setRfld pg Off.BLK_STATE 0 2 3)

/-- The datapath of a block in its reset state; registers and tables stay, and so do the instruction store and the
placements of a compute block. -/
def State.resetDatapath (s : State) (pg : Nat) : State :=
  match pfxOf pg with
  | some (.FAB, b) =>
    let ps := (List.range 8).map (8 * b + ·)
    let up := ps.filter s.portEnabled
    let s := ps.foldl (fun s p => s.portDown p .disabled) s
    up.foldl (fun s p => s.startBringup p false) s
  | some (.CPB, n) => s.modCpb n fun c => { store := c.store, sets := c.sets, issued := c.issued }
  | some (.MEM, m) => (List.range 4).foldl (fun s i => s.modChan (4 * m + i) fun c => { c with queue := [] }) s
  | some (.RDX, i) => { s with red := { s.red with cellQ := s.red.cellQ.drop fun k => k / 4 == i } }
  | some (.SWC, r) => { s with sw := { s.sw with flowlets := s.sw.flowlets.drop fun k => k / 4096 == r } }
  | _ => s

/-- BLOCK_RESET_DONE. -/
def execBlockResetDone (blk : BlockRef) (s : State) : Out :=
  let pg := BlockRef.page blk
  actIf (decide (pg / 256 < 4) && s.rfld pg Off.BLK_STATE 0 2 == 0) s
    ((s.resetDatapath pg).setRfld pg Off.BLK_STATE 0 2 (if s.rbit pg Off.BLK_CTRL 1 then 3 else 1)).watchFlow

end Sys2Proof.Machine
end

