-- ==== Sys2Proof/Machine/Dispatch.lean ====
section
/-!
DEFINITION. The meaning of each command: one arm per constructor of `Instr`.
-/

namespace Sys2Proof.Machine

def exec (i : Instr) (s : State) : Host.Outcome State Fault Refusal :=
  match i with
  | .hostHello h => Sys2Proof.Machine.execHostHello h s
  | .hostAuth h v => Sys2Proof.Machine.execHostAuth h v s
  | .handshakeTimeout slot => Sys2Proof.Machine.execHandshakeTimeout slot s
  | .regBatch m body => Sys2Proof.Machine.execRegBatch m body s
  | .memRead m body => Sys2Proof.Machine.execMemRead m body s
  | .memWrite m body => Sys2Proof.Machine.execMemWrite m body s
  | .jobArm m n ops => Sys2Proof.Machine.execJobArm m n ops s
  | .jobRetire m n ops => Sys2Proof.Machine.execJobRetire m n ops s
  | .groupLoad m n ops => Sys2Proof.Machine.execGroupLoad m n ops s
  | .programLoad m n ops => Sys2Proof.Machine.execProgramLoad m n ops s
  | .programVerify cpb => Sys2Proof.Machine.execProgramVerify cpb s
  | .memoryFill m n ops => Sys2Proof.Machine.execMemoryFill m n ops s
  | .memoryCopy m n ops => Sys2Proof.Machine.execMemoryCopy m n ops s
  | .memoryCheckpoint m n ops => Sys2Proof.Machine.execMemoryCheckpoint m n ops s
  | .checkpointSliceCopy chit => Sys2Proof.Machine.execCheckpointSliceCopy chit s
  | .firmwareUpdate m n ops v => Sys2Proof.Machine.execFirmwareUpdate m n ops v s
  | .linkRetrain m n ops => Sys2Proof.Machine.execLinkRetrain m n ops s
  | .tableSwap m n ops => Sys2Proof.Machine.execTableSwap m n ops s
  | .tableSwapExchange => Sys2Proof.Machine.execTableSwapExchange s
  | .swapTimeout => Sys2Proof.Machine.execSwapTimeout s
  | .attestationReport m n ops => Sys2Proof.Machine.execAttestationReport m n ops s
  | .ack m body => Sys2Proof.Machine.execAck m body s
  | .close m body => Sys2Proof.Machine.execClose m body s
  | .sessionIdleTimeout slot => Sys2Proof.Machine.execSessionIdleTimeout slot s
  | .completionResend chit rseq => Sys2Proof.Machine.execCompletionResend chit rseq s
  | .completionHoldExpiry chit => Sys2Proof.Machine.execCompletionHoldExpiry chit s
  | .telemetryStrobe => Sys2Proof.Machine.execTelemetryStrobe s
  | .contrib a => Sys2Proof.Machine.execContrib a s
  | .partialMsg a => Sys2Proof.Machine.execPartialMsg a s
  | .grant a => Sys2Proof.Machine.execGrant a s
  | .openNotice a => Sys2Proof.Machine.execOpenNotice a s
  | .readyNotice a => Sys2Proof.Machine.execReadyNotice a s
  | .sealNotice a => Sys2Proof.Machine.execSealNotice a s
  | .abandonNotice a => Sys2Proof.Machine.execAbandonNotice a s
  | .cometC a => Sys2Proof.Machine.execCometC a s
  | .cometTimeout region index => Sys2Proof.Machine.execCometTimeout region index s
  | .winRead a => Sys2Proof.Machine.execWinRead a s
  | .winReply region => Sys2Proof.Machine.execWinReply region s
  | .winWrite a => Sys2Proof.Machine.execWinWrite a s
  | .winWriteAck region => Sys2Proof.Machine.execWinWriteAck region s
  | .beacon a => Sys2Proof.Machine.execBeacon a s
  | .beaconSend => Sys2Proof.Machine.execBeaconSend s
  | .discover a => Sys2Proof.Machine.execDiscover a s
  | .discoverSend port => Sys2Proof.Machine.execDiscoverSend port s
  | .frameForward a => Sys2Proof.Machine.execFrameForward a s
  | .maintenanceFrame a => Sys2Proof.Machine.execMaintenanceFrame a s
  | .pfcFrame a => Sys2Proof.Machine.execPfcFrame a s
  | .classVcFlowControl a => Sys2Proof.Machine.execClassVcFlowControl a s
  | .flowControlRefresh port => Sys2Proof.Machine.execFlowControlRefresh port s
  | .frameBuild region => Sys2Proof.Machine.execFrameBuild region s
  | .frameStart port => Sys2Proof.Machine.execFrameStart port s
  | .frameTxEnd port => Sys2Proof.Machine.execFrameTxEnd port s
  | .bucketRefill => Sys2Proof.Machine.execBucketRefill s
  | .mark e => Sys2Proof.Machine.execMark e s
  | .hold e => Sys2Proof.Machine.execHold e s
  | .resume e => Sys2Proof.Machine.execResume e s
  | .probe port index delay => Sys2Proof.Machine.execProbe port index delay s
  | .probeSend port => Sys2Proof.Machine.execProbeSend port s
  | .echo port index delay => Sys2Proof.Machine.execEcho port index delay s
  | .calEnter port => Sys2Proof.Machine.execCalEnter port s
  | .calAck port => Sys2Proof.Machine.execCalAck port s
  | .calExit port => Sys2Proof.Machine.execCalExit port s
  | .masterMark => Sys2Proof.Machine.execMasterMark s
  | .sourceLoss => Sys2Proof.Machine.execSourceLoss s
  | .deadline slot => Sys2Proof.Machine.execDeadline slot s
  | .jobStart slot => Sys2Proof.Machine.execJobStart slot s
  | .chunkAdmit region => Sys2Proof.Machine.execChunkAdmit region s
  | .grantRelease region slot => Sys2Proof.Machine.execGrantRelease region slot s
  | .addendAccumulate region cell lane => Sys2Proof.Machine.execAddendAccumulate region cell lane s
  | .jobDrainEnd slot => Sys2Proof.Machine.execJobDrainEnd slot s
  | .feedOpen slice => Sys2Proof.Machine.execFeedOpen slice s
  | .feedDeliver slice chunk => Sys2Proof.Machine.execFeedDeliver slice chunk s
  | .commitWordWrite slice => Sys2Proof.Machine.execCommitWordWrite slice s
  | .param slice => Sys2Proof.Machine.execParam slice s
  | .nop cpb stream => Sys2Proof.Machine.execNop cpb stream s
  | .halt cpb stream => Sys2Proof.Machine.execHalt cpb stream s
  | .jmp cpb stream => Sys2Proof.Machine.execJmp cpb stream s
  | .br cpb stream => Sys2Proof.Machine.execBr cpb stream s
  | .loop cpb stream => Sys2Proof.Machine.execLoop cpb stream s
  | .set cpb stream => Sys2Proof.Machine.execSet cpb stream s
  | .clear cpb stream => Sys2Proof.Machine.execClear cpb stream s
  | .wait cpb stream => Sys2Proof.Machine.execWait cpb stream s
  | .fence cpb stream => Sys2Proof.Machine.execFence cpb stream s
  | .mode cpb stream => Sys2Proof.Machine.execMode cpb stream s
  | .alu cpb stream => Sys2Proof.Machine.execAlu cpb stream s
  | .alui cpb stream => Sys2Proof.Machine.execAlui cpb stream s
  | .lidx cpb stream => Sys2Proof.Machine.execLidx cpb stream s
  | .qrd cpb stream => Sys2Proof.Machine.execQrd cpb stream s
  | .qpop cpb stream => Sys2Proof.Machine.execQpop cpb stream s
  | .qclose cpb stream => Sys2Proof.Machine.execQclose cpb stream s
  | .sld cpb stream => Sys2Proof.Machine.execSld cpb stream s
  | .sst16 cpb stream => Sys2Proof.Machine.execSst16 cpb stream s
  | .agbase cpb stream => Sys2Proof.Machine.execAgbase cpb stream s
  | .agdim cpb stream => Sys2Proof.Machine.execAgdim cpb stream s
  | .ld cpb stream => Sys2Proof.Machine.execLd cpb stream s
  | .st cpb stream => Sys2Proof.Machine.execSt cpb stream s
  | .agGranuleTransfer cpb ag => Sys2Proof.Machine.execAgGranuleTransfer cpb ag s
  | .vop cpb stream => Sys2Proof.Machine.execVop cpb stream s
  | .vops cpb stream => Sys2Proof.Machine.execVops cpb stream s
  | .vred cpb stream => Sys2Proof.Machine.execVred cpb stream s
  | .vunpk cpb stream => Sys2Proof.Machine.execVunpk cpb stream s
  | .vcvt cpb stream => Sys2Proof.Machine.execVcvt cpb stream s
  | .vectorOperation cpb stream => Sys2Proof.Machine.execVectorOperation cpb stream s
  | .mma cpb stream => Sys2Proof.Machine.execMma cpb stream s
  | .mmat cpb stream => Sys2Proof.Machine.execMmat cpb stream s
  | .kgroupStep cpb cell acc => Sys2Proof.Machine.execKgroupStep cpb cell acc s
  | .release cpb phase => Sys2Proof.Machine.execRelease cpb phase s
  | .zacc cpb phase => Sys2Proof.Machine.execZacc cpb phase s
  | .accld cpb phase => Sys2Proof.Machine.execAccld cpb phase s
  | .waitTimeout cpb stream => Sys2Proof.Machine.execWaitTimeout cpb stream s
  | .programSetFinish cpb slot => Sys2Proof.Machine.execProgramSetFinish cpb slot s
  | .gateEntryPassage port => Sys2Proof.Machine.execGateEntryPassage port s
  | .gateSwap port => Sys2Proof.Machine.execGateSwap port s
  | .calWindowLead entry => Sys2Proof.Machine.execCalWindowLead entry s
  | .calWindowOpen entry => Sys2Proof.Machine.execCalWindowOpen entry s
  | .calStepStart target kind => Sys2Proof.Machine.execCalStepStart target kind s
  | .calStepDone target r => Sys2Proof.Machine.execCalStepDone target r s
  | .calWindowEnd entry => Sys2Proof.Machine.execCalWindowEnd entry s
  | .calRecoveryTimeout port => Sys2Proof.Machine.execCalRecoveryTimeout port s
  | .cmapSample region => Sys2Proof.Machine.execCmapSample region s
  | .cmapExport region => Sys2Proof.Machine.execCmapExport region s
  | .statusWord lane word fom => Sys2Proof.Machine.execStatusWord lane word fom s
  | .bringupStateTimeout port => Sys2Proof.Machine.execBringupStateTimeout port s
  | .bringupRetry port => Sys2Proof.Machine.execBringupRetry port s
  | .portAligned port => Sys2Proof.Machine.execPortAligned port s
  | .linkFault port cause => Sys2Proof.Machine.execLinkFault port cause s
  | .fomUpdate lane fom => Sys2Proof.Machine.execFomUpdate lane fom s
  | .quiet port => Sys2Proof.Machine.execQuiet port s
  | .txQuietEnter port => Sys2Proof.Machine.execTxQuietEnter port s
  | .txWake port cause => Sys2Proof.Machine.execTxWake port cause s
  | .rxWakeTimeout port => Sys2Proof.Machine.execRxWakeTimeout port s
  | .hostFrameReceive port f => Sys2Proof.Machine.execHostFrameReceive port f s
  | .ptpMessage port p => Sys2Proof.Machine.execPtpMessage port p s
  | .hostPause port quanta => Sys2Proof.Machine.execHostPause port quanta s
  | .hostLinkUp port => Sys2Proof.Machine.execHostLinkUp port s
  | .hostLinkDown port => Sys2Proof.Machine.execHostLinkDown port s
  | .hostAutonegRestart port => Sys2Proof.Machine.execHostAutonegRestart port s
  | .announce port => Sys2Proof.Machine.execAnnounce port s
  | .channelRequest ch => Sys2Proof.Machine.execChannelRequest ch s
  | .refresh ch tmult => Sys2Proof.Machine.execRefresh ch tmult s
  | .scrubRead ch => Sys2Proof.Machine.execScrubRead ch s
  | .wckDqOscillator ch drift => Sys2Proof.Machine.execWckDqOscillator ch drift s
  | .memoryTrainingDone blk rate => Sys2Proof.Machine.execMemoryTrainingDone blk rate s
  | .memoryReady blk => Sys2Proof.Machine.execMemoryReady blk s
  | .regionLinkDown a b => Sys2Proof.Machine.execRegionLinkDown a b s
  | .faultLogWrite => Sys2Proof.Machine.execFaultLogWrite s
  | .faultnPulseEnd => Sys2Proof.Machine.execFaultnPulseEnd s
  | .maintLockTimeout => Sys2Proof.Machine.execMaintLockTimeout s
  | .auxPowerUp vin => Sys2Proof.Machine.execAuxPowerUp vin s
  | .pwrEnHigh => Sys2Proof.Machine.execPwrEnHigh s
  | .resetRelease v => Sys2Proof.Machine.execResetRelease v s
  | .resetN => Sys2Proof.Machine.execResetN s
  | .powerFailure vin => Sys2Proof.Machine.execPowerFailure vin s
  | .inputOvervoltage vin => Sys2Proof.Machine.execInputOvervoltage vin s
  | .pwrEnLow => Sys2Proof.Machine.execPwrEnLow s
  | .railFault => Sys2Proof.Machine.execRailFault s
  | .inputLow vin => Sys2Proof.Machine.execInputLow vin s
  | .clockFault f => Sys2Proof.Machine.execClockFault f s
  | .sensorRead r => Sys2Proof.Machine.execSensorRead r s
  | .powerEstimateUpdate watts => Sys2Proof.Machine.execPowerEstimateUpdate watts s
  | .governorStage => Sys2Proof.Machine.execGovernorStage s
  | .autonomousDecision d value => Sys2Proof.Machine.execAutonomousDecision d value s
  | .autonomousBoundCorrection d => Sys2Proof.Machine.execAutonomousBoundCorrection d s
  | .autonomousActivate => Sys2Proof.Machine.execAutonomousActivate s
  | .shutdownComplete => Sys2Proof.Machine.execShutdownComplete s
  | .blockQuiesced blk => Sys2Proof.Machine.execBlockQuiesced blk s
  | .blockResetDone blk => Sys2Proof.Machine.execBlockResetDone blk s
  | .jobDefine sess region data => Sys2Proof.Machine.execJobDefine sess region data s
  | .tableWindowWrite sess region reg data => Sys2Proof.Machine.execTableWindowWrite sess region reg data s
  | .pathWeightWrite sess region data => Sys2Proof.Machine.execPathWeightWrite sess region data s
  | .quotaMinWrite sess region rst data => Sys2Proof.Machine.execQuotaMinWrite sess region rst data s
  | .portBlockConfig sess blk data => Sys2Proof.Machine.execPortBlockConfig sess blk data s
  | .eyeScanRequest sess blk data => Sys2Proof.Machine.execEyeScanRequest sess blk data s
  | .mirrorConfig sess region data => Sys2Proof.Machine.execMirrorConfig sess region data s
  | .gateSwapSchedule sess data => Sys2Proof.Machine.execGateSwapSchedule sess data s
  | .masterEnable sess data => Sys2Proof.Machine.execMasterEnable sess data s
  | .masterDisable sess data => Sys2Proof.Machine.execMasterDisable sess data s
  | .masterHoldClear sess data => Sys2Proof.Machine.execMasterHoldClear sess data s
  | .mgtPositionWrite sess data => Sys2Proof.Machine.execMgtPositionWrite sess data s
  | .mgtModeWrite sess data => Sys2Proof.Machine.execMgtModeWrite sess data s
  | .netcfgSave sess data => Sys2Proof.Machine.execNetcfgSave sess data s
  | .shutdownRequest sess data => Sys2Proof.Machine.execShutdownRequest sess data s
  | .sessionCloseBit sess data => Sys2Proof.Machine.execSessionCloseBit sess data s
  | .anchorInstall sess data => Sys2Proof.Machine.execAnchorInstall sess data s
  | .anchorRemove sess data => Sys2Proof.Machine.execAnchorRemove sess data s
  | .stageDataWrite sess data => Sys2Proof.Machine.execStageDataWrite sess data s
  | .maintConsentM sess data => Sys2Proof.Machine.execMaintConsentM sess data s
  | .maintConsentO sess data => Sys2Proof.Machine.execMaintConsentO sess data s
  | .maintClose sess data => Sys2Proof.Machine.execMaintClose sess data s
  | .faultnRelease sess data => Sys2Proof.Machine.execFaultnRelease sess data s
  | .faultnTest sess data => Sys2Proof.Machine.execFaultnTest sess data s
  | .faultnHoldWrite sess data => Sys2Proof.Machine.execFaultnHoldWrite sess data s
  | .blkEventClear sess blk data => Sys2Proof.Machine.execBlkEventClear sess blk data s
  | .firstErrClear sess blk data => Sys2Proof.Machine.execFirstErrClear sess blk data s
  | .blkEventForce sess blk data => Sys2Proof.Machine.execBlkEventForce sess blk data s
  | .cfgLock sess blk data => Sys2Proof.Machine.execCfgLock sess blk data s
  | .quiesce sess blk data => Sys2Proof.Machine.execQuiesce sess blk data s
  | .resetReq sess blk data => Sys2Proof.Machine.execResetReq sess blk data s
  | .perfSelectWrite sess blk counter data => Sys2Proof.Machine.execPerfSelectWrite sess blk counter data s
  | .counterLowRead sess addr => Sys2Proof.Machine.execCounterLowRead sess addr s
  | .rclRead sess addr => Sys2Proof.Machine.execRclRead sess addr s
  | .faultLogDataRead sess => Sys2Proof.Machine.execFaultLogDataRead sess s
  | .reportDataRead sess => Sys2Proof.Machine.execReportDataRead sess s
  | .registerWrite sess addr data => Sys2Proof.Machine.execRegisterWrite sess addr data s
  | .reservedKindMessage m kind body => Sys2Proof.Machine.execReservedKindMessage m kind body s
  | .unknownCommand m code n ops => Sys2Proof.Machine.execUnknownCommand m code n ops s
  | .terminatedFrameDrop a => Sys2Proof.Machine.execTerminatedFrameDrop a s
  | .pauseTimerExpiry p => Sys2Proof.Machine.execPauseTimerExpiry p s
  | .linkTrainingDone port foms => Sys2Proof.Machine.execLinkTrainingDone port foms s
  | .rxWake port => Sys2Proof.Machine.execRxWake port s
  | .ptpLost => Sys2Proof.Machine.execPtpLost s
  | .auxPowerDown vin => Sys2Proof.Machine.execAuxPowerDown vin s
  | .clockFloorWrite sess data => Sys2Proof.Machine.execClockFloorWrite sess data s

end Sys2Proof.Machine
end

