-- ==== Sys2Proof/Safety.lean ====
section
/-!
DEFINITION. What counts as a safe run, and the conditions in the terms of which the statements
say when a command has its effect.
-/

namespace Sys2Proof.Safety

open Sys2Proof.Machine

/-- The outcome is a next state for which `P` holds. -/
def completesWith (o : Host.Outcome State Fault Refusal) (P : State → Prop) : Prop :=
  ∃ t, o = .next t ∧ P t

/-- No reaction of a fault class is left untaken (spec/14_faults.md R391): so a command leaves the state. -/
def settled (s : State) : Prop := s.todo = []

/-! ### Messages of hosts (spec/12_control_plane.md R342, R355) -/

/-- A datagram at host port `p` is read without errors and is for the Ralow port (R304, R336). -/
def reaches (s : State) (p : HostPort) (dport : BitVec 16) : Prop :=
  (s.hostPort p.val).rxErr = 0 ∧ dport.toNat = s.ralowPort

/-- The management and the key memory of the message's slot are read without errors (R370, R388). -/
abbrev recalls (s : State) (m : RalowIn) : Prop := s.eccOf (.session m.slot.val) = 0 ∧ s.eccOf (.keys m.slot.val) = 0

/-- A message is accepted by R342, and `t` is the state that has recorded it. -/
def accepted (m : RalowIn) (s t : State) : Prop :=
  s.awake = true ∧ reaches s m.port m.dport ∧ recalls s m ∧ m.sizeOk = true ∧
  s.authentic m = true ∧ (s.sess m.slot.val).fresh m.seq = true ∧ t = s.modSess m.slot.val fun x => x.passed m s.now

/-- A COMMAND is accepted by R355 in a message that R342 accepts: `chit` is its chit and `v` the state in which
its home unit is claimed and its REPLY has left. -/
def commanded (m : RalowIn) (n : Nat) (ops : List Word) (roles : List Nat) (argc : Nat) (opsOk : Bool) (s : State)
    (chit : Word) (v : State) : Prop :=
  ∃ t u, accepted m s t ∧ t.turnsAway = false ∧ m.reservedOk = true ∧ n = ops.length ∧ n ≤ 32 ∧ n = argc ∧ opsOk = true ∧
    roles.contains (t.roleOf m) = true ∧ t.claimChit m.slot.val (netOf m.port).val m.mirror = some (chit, u) ∧
    v = u.reply m 0 0 chit []

/-! ### Registers (spec/12_control_plane.md R345 to R347) -/

/-- The write of one register that a row of the table stands for: session, page, offset, data, and what the row
says the data are. -/
structure RowWrite where
  sess : Sess
  pg : Nat
  off : Nat
  data : Word
  due : Bool

/-- The rows that are the write of one register. -/
def rowWrite (s : State) : Instr → Option RowWrite
  | .jobDefine i r d => some ⟨i, pgRgc r.val, Off.RGC_JOB_DATA, d, s.rfld (pgRgc r.val) Off.RGC_JOB_WSEL 0 8 == 0⟩
  | .tableWindowWrite i r reg d => some ⟨i, pgRgc r.val, TableReg.off reg, d, true⟩
  | .pathWeightWrite i r d => some ⟨i, pgSwc r.val, Off.SWC_PS_WEIGHT, d, true⟩
  | .quotaMinWrite i r rst d =>
    some ⟨i, if rst then pgRst r.val else pgSwc r.val, if rst then Off.RST_QUOTA_MIN else Off.SWC_REQ_MIN, d, true⟩
  | .portBlockConfig i b d => some ⟨i, pgFab b.val, Off.FAB_BLK_MODE, d, true⟩
  | .eyeScanRequest i b d => some ⟨i, pgFab b.val, Off.FAB_LANE_CTRL, d, bit d 2⟩
  | .mirrorConfig i r d => some ⟨i, pgSwc r.val, Off.SWC_MIR_CFG, d, true⟩
  | .gateSwapSchedule i d => some ⟨i, pgOrb, Off.ORB_GPORT_SWAP, d, true⟩
  | .masterEnable i d => some ⟨i, pgOrb, Off.ORB_CTRL, d, bit d 0⟩
  | .masterDisable i d => some ⟨i, pgOrb, Off.ORB_CTRL, d, !bit d 0⟩
  | .masterHoldClear i d => some ⟨i, pgOrb, Off.ORB_CTRL, d, !bit d 1⟩
  | .mgtPositionWrite i d => some ⟨i, pgMgt, Off.MGT_POSITION, d, true⟩
  | .mgtModeWrite i d => some ⟨i, pgMgt, Off.MGT_MODE, d, true⟩
  | .netcfgSave i d => some ⟨i, pgMgt, Off.MGT_NETCFG, d, bit d 0⟩
  | .shutdownRequest i d => some ⟨i, pgMgt, Off.MGT_SHUTDOWN, d, bit d 0⟩
  | .sessionCloseBit i d => some ⟨i, pgMgt, Off.MGT_SESS_CTRL, d, bit d 0⟩
  | .anchorInstall i d => some ⟨i, pgSec, Off.SEC_ANCHOR_CTRL, d, bit d 0⟩
  | .anchorRemove i d => some ⟨i, pgSec, Off.SEC_ANCHOR_CTRL, d, bit d 1⟩
  | .stageDataWrite i d => some ⟨i, pgSec, Off.SEC_STAGE_DATA, d, true⟩
  | .maintConsentM i d => some ⟨i, pgSec, Off.SEC_MAINT_CTRL, d, bit d 0⟩
  | .maintConsentO i d => some ⟨i, pgSec, Off.SEC_MAINT_CTRL, d, bit d 1⟩
  | .maintClose i d => some ⟨i, pgSec, Off.SEC_MAINT_CTRL, d, bit d 2⟩
  | .faultnRelease i d => some ⟨i, pgFlt, Off.FLT_FAULTN, d, bit d 1⟩
  | .faultnTest i d => some ⟨i, pgFlt, Off.FLT_FAULTN, d, bit d 2⟩
  | .faultnHoldWrite i d => some ⟨i, pgFlt, Off.FLT_FAULTN, d, true⟩
  | .blkEventClear i b d => some ⟨i, BlockRef.page b, Off.BLK_EVENT, d, true⟩
  | .firstErrClear i b d => some ⟨i, BlockRef.page b, Off.BLK_FIRST_ERR0, d, bit d 31⟩
  | .blkEventForce i b d => some ⟨i, BlockRef.page b, Off.BLK_EVENT_FORCE, d, true⟩
  | .cfgLock i b d => some ⟨i, BlockRef.page b, Off.BLK_CTRL, d, bit d 3⟩
  | .quiesce i b d => some ⟨i, BlockRef.page b, Off.BLK_CTRL, d, true⟩
  | .resetReq i b d => some ⟨i, BlockRef.page b, Off.BLK_CTRL, d, bit d 2⟩
  | .perfSelectWrite i b k d => some ⟨i, BlockRef.page b, Off.BLK_PERF_SEL0 + 4 * k.val, d, true⟩
  | .clockFloorWrite i d => some ⟨i, pgClk, Off.CLK_STEP, d, true⟩
  | .registerWrite i a d => some ⟨i, a.toNat / 2 ^ 14, a.toNat % 2 ^ 14, d, true⟩
  | _ => none

/-- The rows that are the read of one register: session and address. -/
def rowRead : Instr → Option (Sess × Nat)
  | .counterLowRead i a => some (i, a.toNat)
  | .rclRead i a => some (i, a.toNat)
  | .faultLogDataRead i => some (i, pgFlt * 2 ^ 14 + Off.FLT_LOG_DATA)
  | .reportDataRead i => some (i, pgSec * 2 ^ 14 + Off.SEC_RPT_DATA)
  | _ => none

/-- The register at offset `off` of page `pg` is mapped: prefix and instance of the page, and the register. -/
def mapped (pg off : Nat) (p : Pfx) (n : Nat) (r : RegRow) : Prop := pfxOf pg = some (p, n) ∧ regRow p off = some r

/-! ### Instruction streams (spec/06_engine_isa.md R152, R153, R164) -/

/-- Stream `i` of block `b` runs or waits, and its next instruction is one of opcode `o` that R153 and R164 allow, read
from the store without an error (R185). -/
def issues (s : State) (b : Cpb) (i : StreamIx) (o : Opc) (t : Thread) : Prop :=
  s.thread b.val i.val = some t ∧ opcOf t.w = some o ∧ legal t.w t.place t.set.flags = true ∧ s.fetchErr t = 0

/-- The words that the next reader of these queues takes hold no errors (R185). -/
def cleanQueues (c : CpbSt) (qs : List Nat) : Prop := ∀ q ∈ qs, (c.queue q).err = 0

/-- The stream of `t` goes on by `f` in `u`: it runs, waits for nothing, and has issued at this mark. -/
def goesOn (u : State) (t : Thread) (f : Stream → Stream) : State :=
  u.modCpb t.b fun c => c.modStream t.i fun x =>
    { f x with st := if (f x).st = .waiting then .running else (f x).st, cause := 0, waitMarks := 0, issuedMark := u.orb.marks }

/-- The stream of `t` goes on in sequence after its block has changed by `f`. -/
def goesOnWith (s : State) (t : Thread) (f : CpbSt → CpbSt) : State := goesOn (s.modCpb t.b f) t Stream.next

/-! ### Messages of the fabric (spec/04_collectives.md R21) -/

/-- A message reaches region `r`: it came in there, or the link to it carries it without an error (R411). -/
abbrev arrives (s : State) (m : Msg) (r : Nat) : Prop := portRegion m.port = r ∨ s.eccOf (.link (portRegion m.port) r) = 0

/-- A frame is a message of the row that `mine` describes, of a job slot with configuration `c` that accepts it:
`t` is the state that has delivered it. -/
def delivers (s : State) (a : Arrival) (mine : Msg → Bool) (t : State) (m : Msg) (slot : Nat) (c : JobCfg) : Prop :=
  s.receive a mine = .got t m ∧ t.slotOf m.h.job = some slot ∧ (t.job slot).cfg = some c ∧ (t.job slot).accepts m.h = true

end Sys2Proof.Safety
end

