-- ==== Sys2Proof/Certificates/Slice0/Obligations.lean ====
section
/-!
DEFINITION. The statements for the provers. A statement about a command's effect names the conditions under
which the spec gives the command that effect, and the state that it leaves. `settled` is the invariant that
no reaction of a fault class waits (StepKeepsSettled); a command that raises nothing leaves the state written
out, any other the named effect with its reactions taken (`State.finish`, which changes nothing where none waits).
-/

section

open Sys2Proof Sys2Proof.Machine Sys2Proof.Safety

/-! ### Steps -/

/-- A command at the front of the queue runs on the state with the queue's rest (notes/assumptions/1.md). -/
def Obligations.StepRunsFront : Prop :=
  ∀ (c : Instr) (s : State) (rest : List Instr), step { s with pending := c :: rest } = exec c { s with pending := rest }

/-- On an empty queue one cycle of the PHASE clock passes (R252; the tick on an empty queue is the model's choice,
notes/assumptions/1.md), and a root instance that awaits nothing seals (notes/assumptions/75.md): nothing happens in reset or after a power failure, and on a running chip local time and the
wall clock advance by 1 ns. While LOCKED each cycle moves `f` by `inc`, never beyond one unit short of the next mark,
leaves `m`, `tint` and `inc`, and the angle is `m` shl 16 plus `f` shr 16. The angle is frozen while HELD and LOST, and
reads 0 in UNLOCKED and LOCKING (R251). -/
def Obligations.IdleStep : Prop :=
  (∀ s : State, s.pending = [] → step s = .next s.tick) ∧ (∀ s : State, s.awake = false → s.tick = s) ∧
  (∀ s : State, s.awake = true → s.idle.todo = [] → (∀ kv ∈ s.idle.jobs, kv.2.vacant = false) → s.tick = s.idle) ∧
  (∀ s : State, s.awake = false → s.idle = s) ∧
  (∀ s : State, s.awake = true → s.idle.now = s.now + 1 ∧ s.idle.wall.ns = s.wall.ns + 1) ∧
  (∀ s : State, s.awake = true → s.orb.st = .locked → s.orb.masterStopped = false →
    s.idle.orb.f = min (s.orb.f + s.orb.inc) 0xFFFFFFFF ∧ s.idle.orb.m = s.orb.m ∧ s.idle.orb.st = .locked ∧
    s.idle.orb.tint = s.orb.tint ∧ s.idle.orb.inc = s.orb.inc ∧
    s.idle.angle = BitVec.ofNat 32 (s.idle.orb.m.toNat * 65536 + s.idle.orb.f / 65536)) ∧
  ∀ s : State,
    (s.orb.st = .unlocked ∨ s.orb.st = .locking → s.angle = 0 ∧ s.idle.angle = 0) ∧
    (s.orb.st = .held ∨ s.orb.st = .lost → s.idle.angle = s.angle)

/-- What reset leaves (R251, R463): the chip in reset with every register and table word at the value that the
spec gives for reset, the orbit block UNLOCKED at angle 0, memory with nothing listed and in canonical form, no
session, job, chit or frame, nothing waiting. That flash and memory hold nothing is the model's choice
(notes/assumptions/4.md, notes/assumptions/5.md). -/
def Obligations.ResetState : Prop :=
  (∀ pg off sel, State.reset.reg pg off sel = resetWord pg off sel) ∧
  (∀ k i w, State.reset.tbl k i w = tableReset k w) ∧
  State.reset.awake = false ∧ State.reset.orb.st = .unlocked ∧ State.reset.angle = 0 ∧
  State.reset.mem.wf = true ∧ (∀ a, Tbl.look 0 State.reset.mem a = 0) ∧
  (∀ i, (State.reset.sess i).st = .free) ∧ (∀ j, (State.reset.job j).st = .empty) ∧
  (∀ p, (State.reset.port p).st = .disabled) ∧ State.reset.chits = [] ∧ State.reset.flt.fenced = [] ∧
  State.reset.flt.chipFatal = false ∧ State.reset.flt.faultn = false ∧ State.reset.pending = []

/-- The invariant of the statements holds at reset. -/
def Obligations.ResetSettled : Prop := settled State.reset

/-- Every command and every idle cycle takes the reactions that it raised (R391): none is left waiting. -/
def Obligations.StepKeepsSettled : Prop :=
  ∀ s t : State, settled s → step s = .next t → settled t

/-- No command stops the machine with a fault, and none is refused but one whose operands name nothing that can
arrive (R338, R353, R270, R346). -/
def Obligations.OnlyIllFormedStops : Prop :=
  ∀ (c : Instr) (s : State),
    (∀ f, exec c s ≠ .fault f) ∧ (c.wf = true → ∃ t, exec c s = .next t) ∧ (c.wf = false → exec c s = .refused .illFormed)

/-! ### Sessions (spec/12_control_plane.md, spec/13_security.md) -/

/-- Acceptance (R336, R342, R343): of what arrives on a running chip, a datagram for another UDP port is dropped and counted
in `HST_RX_DROP`; one for the Ralow port that is a fragment or of the wrong length, or of a version other than 1 (the
model's choice, notes/assumptions/123.md), is dropped and
counted in `MGT_RALOW_DROP_FMT`; a message whose slot, epoch or tag does not hold is dropped without reply and counted
in `MGT_RALOW_DROP_TAG`; a repeated `seq` whose REPLY is kept receives it again, to where it came from now, and is not
executed; any other stale `seq` is counted in `MGT_RALOW_DROP_SEQ`; all else is accepted. In reset nothing is heard. A message in
an ingress buffer with an uncorrectable word is dropped, counted in `HST_RX_DROP`, and raises `rx_ue` (R304); one whose
session's state or key cannot be read raises `mgt_ue` or `sec_ue` and is not taken (R370, R388). -/
def Obligations.MessageAcceptance : Prop :=
  ∀ (s : State) (m : RalowIn),
    (s.awake = false → s.hear m = .lost s) ∧
    (s.awake = true → 2 ≤ (s.hostPort m.port.val).rxErr → s.hear m = .lost (((((s.modHost m.port.val fun x =>
      { x with rxErr := 0 }).countUe pgHst).bump pgHst Off.HST_RX_DROP m.port.val).raise
        { pg := pgHst, ev := 2, unit := m.port.val, access := 7, syn := s.ueSyndrome pgHst m.port.val }))) ∧
    (s.awake = true → reaches s m.port m.dport → m.sizeOk = true → 2 ≤ s.eccOf (.session m.slot.val) → s.eccOf (.keys m.slot.val) = 0 →
      s.hear m = .lost ((s.countUe pgMgt).raise
        { pg := pgMgt, ev := 5, unit := m.slot.val, access := 1, syn := s.ueSyndrome pgMgt (Store.session m.slot.val).key })) ∧
    (s.awake = true → reaches s m.port m.dport → m.sizeOk = true → s.eccOf (.session m.slot.val) = 0 → 2 ≤ s.eccOf (.keys m.slot.val) →
      s.hear m = .lost ((s.countUe pgSec).raise
        { pg := pgSec, ev := 6, unit := m.slot.val, access := 1, syn := s.ueSyndrome pgSec (Store.keys m.slot.val).key })) ∧
    (s.awake = true → (s.hostPort m.port.val).rxErr = 0 → m.dport.toNat ≠ s.ralowPort →
      s.hear m = .lost (s.bump pgHst Off.HST_RX_DROP m.port.val)) ∧
    (s.awake = true → reaches s m.port m.dport → m.sizeOk = false →
      s.hear m = .lost (s.dropRalow Off.MGT_RALOW_DROP_FMT m.slot.val)) ∧
    (s.awake = true → reaches s m.port m.dport → recalls s m → m.sizeOk = true → s.authentic m = false →
      s.hear m = .lost (s.dropRalow Off.MGT_RALOW_DROP_TAG m.slot.val)) ∧
    (s.awake = true → reaches s m.port m.dport → recalls s m → m.sizeOk = true → s.authentic m = true → (s.sess m.slot.val).fresh m.seq = false →
      (∀ r, ((s.sess m.slot.val).kept.find? fun k => k.1 == m.seq) = some r →
        s.hear m = .lost (s.emit (.ralow { r.2 with dest := some (m.port, m.src) }))) ∧
      (((s.sess m.slot.val).kept.find? fun k => k.1 == m.seq) = none →
        s.hear m = .lost (s.dropRalow Off.MGT_RALOW_DROP_SEQ m.slot.val))) ∧
    (∀ t, accepted m s t → s.hear m = .got t)

/-- What an accepted message leaves in its session (R341, R342): its `seq` is seen, the highest `seq` never falls, the
return address of the network it came on is its own, that of the other stays, and nothing but the session changes. -/
def Obligations.AcceptedRecorded : Prop :=
  ∀ (s t : State) (m : RalowIn), s.sessions.rising → accepted m s t →
    (t.sess m.slot.val).fresh m.seq = false ∧
    (t.sess m.slot.val).rxMax.toNat = max (s.sess m.slot.val).rxMax.toNat m.seq.toNat ∧
    (t.sess m.slot.val).ret (netOf m.port).val = some (m.port, m.src) ∧
    (t.sess m.slot.val).ret (1 - (netOf m.port).val) = (s.sess m.slot.val).ret (1 - (netOf m.port).val) ∧
    (∀ i, i ≠ m.slot.val → t.sess i = s.sess i) ∧ t = { s with sessions := t.sessions }

/-- Handshakes complete (R380, R381): a HOST_HELLO of the right form, of no handshake in progress, with fewer than four
of them and a free slot, begins one in the lowest free slot; a HOST_AUTH that passes the checks opens the session and
raises `session_open`; a handshake of 2 s is refused with SEC_TIMEOUT and its slot is free. -/
def Obligations.HandshakesComplete : Prop :=
  (∀ (s : State) (h : HandshakeIn) (i : Nat), s.answersHands = true → reaches s h.port h.dport → h.partsOk = true → h.payload.length = 1216 →
    (s.handSlots.find? fun k => (s.sess k).hs == h.hs) = none → s.handSlots.length < 4 →
    (leastBelow 16 fun k => (s.sess k).st == .free) = some i →
      exec (.hostHello h) s = .next (s.beginHand i h).finish) ∧
  (∀ (s : State) (h : HandshakeIn) (v : AuthVerdict) (role : Fin 5), s.answersHands = true → reaches s h.port h.dport →
    (s.sess h.slot.val).st = .handshake → (s.sess h.slot.val).hs = h.hs → s.authCheck h v = .ok role →
      exec (.hostAuth h v) s =
        .next (((if s.anchorList.contains v.rootKey then s else s.setAnchor 0 (some v.rootKey)).openSession h.slot.val h role).raise
          { pg := pgMgt, ev := 0, unit := h.slot.val }).finish) ∧
  ∀ (s : State) (i : Sess), (s.sess i.val).st = .handshake → (s.sess i.val).hsAt + 2000000000 ≤ s.now →
    exec (.handshakeTimeout i) s =
      .next ((s.refuse i.val 0x0B07 (s.sess i.val).hs (s.sess i.val).hsFrom).freeSlot i.val).finish

/-- Session rows complete: CLOSE closes its session without an answer (R344); ACK acknowledges its entries in order
(R359); a session that has heard nothing for `MGT_SESS_IDLE.sec` closes with reason 1 (R344); a delivery that is due
is sent again or ends (R359); a final record goes after `MGT_CPL_HOLD.sec` (R360); the maintenance lock closes after
`SEC_MAINT_TMO.min` (R384). -/
def Obligations.SessionRowsComplete : Prop :=
  (∀ (s t : State) (m : RalowIn) (b : List Byte), accepted m s t →
    exec (.close m b) s = .next (t.closeSession m.slot.val none).finish) ∧
  (∀ (s t : State) (m : RalowIn) (b : List Byte), accepted m s t → b.length % 8 = 0 → b.length ≤ 8192 →
    exec (.ack m b) s = .next ((ackEntries b).foldl (fun s e => s.ackChit e.1 e.2) t).finish) ∧
  (∀ (s : State) (i : Sess), (s.sess i.val).st = .opened →
    s.now - (s.sess i.val).lastMsg ≥ s.rfld pgMgt Off.MGT_SESS_IDLE 0 16 * 1000000000 →
      exec (.sessionIdleTimeout i) s = .next (s.closeSession i.val (some 1)).finish) ∧
  (∀ (s : State) (c : Word) (q : Byte) (x : ChitRec) (d : Delivery), s.resendDue c q = some (x, d) →
    exec (.completionResend c q) s = .next (s.resend x d).finish) ∧
  (∀ (s : State) (c : Word) (x : ChitRec), s.chit c = some x → x.final = true →
    s.now - x.finalAt ≥ s.rfld pgMgt Off.MGT_CPL_HOLD 0 16 * 1000000000 →
      exec (.completionHoldExpiry c) s = .next (s.freeChit c).finish) ∧
  ∀ s : State, s.sec.maintOpen = true → s.sec.maintAt + s.rfld pgSec Off.SEC_MAINT_TMO 0 8 * 60 * 1000000000 ≤ s.now →
    exec .maintLockTimeout s = .next s.closeLock.finish

/-- Requests complete: a REG_BATCH of the layout of R346 runs its operations in order and is answered with their
entries (R347, R371); a MEM_READ and a MEM_WRITE that pass R351, of a window that does not retrain (R327), move the
range and are answered OK (R352); a COMMAND of
an unknown code is answered RALOW_UNKNOWN while commands are taken (R355); a message of a reserved kind is dropped and
counted (R338). -/
def Obligations.RequestsComplete : Prop :=
  (∀ (s t u : State) (m : RalowIn) (b es : List Byte) (st : Nat), accepted m s t → m.reservedOk = true → batchOk b = true →
    t.runBatch m.slot.val ((List.range (b.length / 8)).map (batchOp b)) = (es, st, u) →
      exec (.regBatch m b) s = .next ((u.reply m (stopCode st) (es.length / 8) 0 es).endAccess m.slot.val).finish) ∧
  (∀ (s t u : State) (m : RalowIn) (b d : List Byte) (w : Window), s.memWaits (bits (leAt b 0 2) 0 12) = false → accepted m s t → t.roleOf m = 2 →
    m.reservedOk = true → memLayout b false = true →
    t.memCheck (bits (leAt b 0 2) 0 12) (bits (leAt b 4 8) 0 52) (leAt b 12 4) false = .ok w →
    t.readRange w (bits (leAt b 4 8) 0 52) (leAt b 12 4) = (.ok d, u) →
      exec (.memRead m b) s = .next (u.reply m 0 0 0 d).finish) ∧
  (∀ (s t : State) (m : RalowIn) (b : List Byte) (w : Window), s.memWaits (bits (leAt b 0 2) 0 12) = false → accepted m s t → t.roleOf m = 2 →
    m.reservedOk = true → memLayout b true = true →
    t.memCheck (bits (leAt b 0 2) 0 12) (bits (leAt b 4 8) 0 52) (leAt b 12 4) true = .ok w →
      exec (.memWrite m b) s = .next ((t.writeRange w (bits (leAt b 4 8) 0 52) (b.drop 16)).reply m 0 0 0 []).finish) ∧
  (∀ (s t : State) (m : RalowIn) (code : BitVec 16) (n : Nat) (ops : List Word), accepted m s t → t.turnsAway = false →
    knownCommand code = false → exec (.unknownCommand m code n ops) s = .next (t.reply m 0x0A03 0 0 []).finish) ∧
  ∀ (s : State) (m : RalowIn) (k : BitVec 4) (b : List Byte), s.awake = true → reaches s m.port m.dport → reservedKind k = true →
    exec (.reservedKindMessage m k b) s = .next (s.dropRalow Off.MGT_RALOW_DROP_FMT m.slot.val).finish

/-- An UNMAPPED, DENIED or FENCED operation ends a batch: its own entry is included and the later operations do not
run (R347). -/
def Obligations.BatchStops : Prop :=
  ∀ (s : State) (i : Nat) (o : Nat × Word) (rest : List (Nat × Word)),
    let a := s.access i (bits o.1 0 26) (if bits o.1 30 2 = 1 then some o.2 else none)
    let e := leBytes 4 a.value.toNat ++ leBytes 4 a.status
    (2 ≤ a.status → s.runBatch i (o :: rest) = (e, a.status, a.after.finish)) ∧
    (a.status < 2 → s.runBatch i (o :: rest) =
      (e ++ (a.after.finish.runBatch i rest).1, (a.after.finish.runBatch i rest).2.1, (a.after.finish.runBatch i rest).2.2))

/-- A REPLY is kept for its `seq`, names the request it answers, comes from the Ralow port with the tag of its header and body
under the device's key, and carries `status`, `index`, `chit` and data in that order (R336, R337, R339, R343, R380); it leaves, or
waits while a PAUSE holds its host port (R286). -/
def Obligations.ReplyKept : Prop :=
  ∀ (s : State) (m : RalowIn) (status index : Nat) (chit : Word) (data : List Byte),
    s.sessions.rising →
    ∃ r : RalowOut, r.kind = 5 ∧ r.ref = m.seq ∧ r.dest = some (m.port, m.src) ∧
      r.body = leBytes 2 status ++ leBytes 2 index ++ leBytes 4 chit.toNat ++ data ∧
      r.seq = (s.sess m.slot.val).txSeq + 1 ∧ r.sport = s.ralowPort ∧
      r.tag = digestBytes (Config.kmac (s.sess m.slot.val).keyOut ralowTagName (r.header ++ r.body)) ∧
      (s.txPaused (.ralow r) = false → (s.reply m status index chit data).out = s.out ++ [.ralow r]) ∧
      (s.txPaused (.ralow r) = true → (s.reply m status index chit data).held = s.held ++ [.ralow r]) ∧
      (((s.reply m status index chit data).sess m.slot.val).kept.find? fun k => k.1 == m.seq) = some (m.seq, r) ∧
      ((s.reply m status index chit data).sess m.slot.val).kept.length ≤ 64

/-! ### Long commands (R353 to R355) -/

/-- Job commands complete: an accepted arm that passes the checks of R91 arms the job and makes the arm record (R90); an
accepted retire of an ARMED or RUNNING job drains it (R93), of a DEFINED one retires it; an accepted group load that
passes R354 writes the image; an accepted program load of a DEFINED or RETIRED slot, with its window and an unfenced
block, waits for Gliel (R197). -/
def Obligations.JobCommandsComplete : Prop :=
  (∀ (s v : State) (m : RalowIn) (n : Nat) (ops : List Word) (chit : Word),
    commanded m n ops [2] 3 (opw ops 0 ≤ 1023) s chit v → v.memReady = true → v.armCheck (opw ops 0) (v.jobCfg (opw ops 0)) = none →
      exec (.jobArm m n ops) s =
        .next (((v.readsIdentity (opw ops 0) (v.jobCfg (opw ops 0))).armJob (opw ops 0) chit (ops.getD 1 0) (ops.getD 2 0)
          (v.jobCfg (opw ops 0))).record chit 0 false []).finish) ∧
  (∀ (s v : State) (m : RalowIn) (n : Nat) (ops : List Word) (chit : Word) (c : JobCfg),
    commanded m n ops [2, 0] 2 (opw ops 0 ≤ 1023 && opw ops 1 ≤ 1) s chit v →
    ((v.job (opw ops 0)).st = .armed ∨ (v.job (opw ops 0)).st = .running) → (v.job (opw ops 0)).cfg = some c →
      exec (.jobRetire m n ops) s =
        .next ((v.modJob (opw ops 0) fun j => { j with retireChit := some chit }).retireLive (opw ops 0) (opw ops 1) c).finish) ∧
  (∀ (s v : State) (m : RalowIn) (n : Nat) (ops : List Word) (chit : Word),
    commanded m n ops [2, 0] 2 (opw ops 0 ≤ 1023 && opw ops 1 ≤ 1) s chit v → (v.job (opw ops 0)).st = .defined →
      exec (.jobRetire m n ops) s =
        .next (((v.releaseSets (opw ops 0)).modJob (opw ops 0) fun j => { j with st := .retired }).complete chit 0x0003).finish) ∧
  (∀ (s v u : State) (m : RalowIn) (n : Nat) (ops : List Word) (chit : Word) (w : Window) (b : List Byte),
    let x := GroupLoad.of ops
    s.memWaits x.win = false → commanded m n ops [2] 7 true s chit v → v.memReady = true → v.groupLoadLocked x = false → v.validWin x.win = some w →
    x.off % 16 = 0 → x.off + x.bytes ≤ w.bytes → w.hostRead = true → x.g + x.ng ≤ 4096 → x.m + x.nm ≤ 262144 →
    v.winFenced w = false → v.readBytes w x.off x.bytes = (.ok b, u) →
      exec (.groupLoad m n ops) s = .next ((u.groupLoadWrite x b).complete chit 0 [word x.ng, word x.nm]).finish) ∧
  ∀ (s v : State) (m : RalowIn) (n : Nat) (ops : List Word) (chit : Word),
    commanded m n ops [2] 7 (opw ops 0 ≤ 1023) s chit v → v.memReady = true →
    ((v.job (opw ops 0)).st = .defined ∨ (v.job (opw ops 0)).st = .retired) →
    (v.loadWin (opw ops 0) (opw ops 3) (opd ops 4) (opw ops 6)).isSome = true →
    opw ops 1 ≤ 3 → opw ops 2 ≤ 7 → v.isFenced (opw ops 1) = false →
      exec (.programLoad m n ops) s =
        .next ({ v with loads := v.loads ++
          [⟨chit, opw ops 0, 8 * opw ops 1 + opw ops 2, opw ops 3, opd ops 4, opw ops 6⟩] } : State).finish

/-- Memory commands complete (R323, R142): an accepted fill that passes the checks writes the pattern into every 8
bytes of the range, an accepted copy writes what it has read of the source, each with record OK and `len` as result
word 0; an accepted checkpoint of slices with readable commit words, a step no slice lies behind and an image that
fits, starts; a checkpoint that can take its next slice takes it. -/
def Obligations.MemoryCommandsComplete : Prop :=
  (∀ (s v : State) (m : RalowIn) (n : Nat) (ops : List Word) (chit : Word) (w : Window),
    s.memWaits (opw ops 0) = false → commanded m n ops [2] 7 true s chit v → v.memReady = true →
    v.memCheck (opw ops 0) (opd ops 1) (opd ops 3) true = .ok w →
      exec (.memoryFill m n ops) s =
        .next ((v.writeRange w (opd ops 1) (replBytes (opd ops 3 / 8) (leBytes 8 (opd ops 5)))).complete chit 0 [word (opd ops 3)]).finish) ∧
  (∀ (s v u : State) (m : RalowIn) (n : Nat) (ops : List Word) (chit : Word) (a b : Window) (d : List Byte),
    s.memWaits (opw ops 0) = false → s.memWaits (opw ops 3) = false →
    commanded m n ops [2] 8 true s chit v → v.memReady = true →
    v.memCheck (opw ops 0) (opd ops 1) (opd ops 6) false = .ok a → v.memCheck (opw ops 3) (opd ops 4) (opd ops 6) true = .ok b →
    v.readRange a (opd ops 1) (opd ops 6) = (.ok d, u) →
      exec (.memoryCopy m n ops) s = .next ((u.writeRange b (opd ops 4) d).complete chit 0 [word (opd ops 6)]).finish) ∧
  (∀ (s v : State) (m : RalowIn) (n : Nat) (ops : List Word) (chit : Word) (xs : List SliceCfg) (w : Window) (g : SliceCfg → CommitWord),
    commanded m n ops [2] 7 (opw ops 0 ≤ 1023) s chit v → v.memReady = true →
    (v.cfgNow (opw ops 0)).sliceRun (opw ops 1) (opw ops 2) = some xs → (v.cfgNow (opw ops 0)).window (opw ops 4) = some w →
    (∀ x ∈ xs, v.readCommit (v.cfgNow (opw ops 0)) x = some (g x)) → opw ops 3 ≠ 0xFFFFFFFF →
    (∀ x ∈ xs, stepBeyond (g x).step (opw ops 3) = false) → (v.cfgNow (opw ops 0)).imageOk xs (opw ops 4) (opd ops 5) = true →
      exec (.memoryCheckpoint m n ops) s =
        .next ((xs.foldl (fun u x => u.readsCommit (opw ops 0) (v.cfgNow (opw ops 0)) x) v).ckptBegin chit (opw ops 0) (opw ops 1)
          (opw ops 2) (opw ops 3) (opw ops 4) (opd ops 5) w (xs.map fun x => (x, g x))).finish) ∧
  ∀ (s t : State) (chit : Word) (k : Ckpt), (s.ckpts.find? fun k => k.chit == chit) = some k → s.ckptStep k = some t →
    exec (.checkpointSliceCopy chit) s = .next t.finish

/-- The other commands complete: an accepted firmware update that passes R383 writes the inactive bank; an accepted
retrain of an enabled port of an unfenced region that is not retraining and not FAILED takes it down and starts bring-up
(R296); an accepted table swap with `mode` 0 and a valid shadow bank begins the hold, with `mode` 1 it completes OK
(R238, R239); an accepted attestation report of slots that exist makes a report of at most 256 KiB (R387); a swap
that has drained exchanges the banks; one that has not within its limit ends with 0x0701. -/
def Obligations.OtherCommandsComplete : Prop :=
  (∀ (s v : State) (m : RalowIn) (n : Nat) (ops : List Word) (x : UpdateVerdict) (chit : Word),
    let b := Memory.bytes v.sec.stage 0 (min (opw ops 0) (2 ^ 22))
    commanded m n ops [0] 1 true s chit v → v.updateCheck (opw ops 0) b x = none →
      exec (.firmwareUpdate m n ops x) s = .next (v.updateBank chit b x).finish) ∧
  (∀ (s v : State) (m : RalowIn) (n : Nat) (ops : List Word) (chit : Word),
    let p := opw ops 0
    commanded m n ops [1] 2 (opw ops 1 ≤ 1) s chit v → p < 512 → v.portEnabled p = true → v.isFenced (portRegion p) = false →
    (v.port p).retrain = none → (v.port p).st ≠ .failed →
      exec (.linkRetrain m n ops) s =
        .next (((((if (v.port p).st = .up then v.leaveUp p else v.portDown p .disabled)).modPort p fun y => { y with attempts := 0, retrain := some chit, retryAt := none }).startBringup p
          (decide (opw ops 1 = 1))).leaveSource.watchFlow).finish) ∧
  (∀ (s v : State) (m : RalowIn) (n : Nat) (ops : List Word) (chit : Word),
    commanded m n ops [1] 3 (opw ops 2 ≤ 1) s chit v → v.sw.swap = none → v.shadowOk = true →
      exec (.tableSwap m n ops) s =
        .next (if opw ops 2 = 1 then v.complete chit 0 [0, 0] else v.beginSwap chit (opw ops 0) (opw ops 1)).finish) ∧
  (∀ (s t u v : State) (m : RalowIn) (n : Nat) (ops : List Word) (chit : Word) (slots : List Nat),
    let r := v.report (ops.take 8) slots
    accepted m s t → m.reservedOk = true → n = 9 → ops.length = 9 → t.claimChit m.slot.val (netOf m.port).val m.mirror = some (chit, u) →
    v = u.reply m 0 0 chit [] → v.reportSlots (opw ops 8) = some slots → r.length ≤ 2 ^ 18 →
      exec (.attestationReport m n ops) s =
        .next ((({ v with free := v.free + 1024 } : State).modSess m.slot.val fun x => { x with rpt := r }).complete chit 0
          [word r.length]).finish) ∧
  (∀ (s : State) (w : Swap), s.sw.swap = some w → s.swapInflight = 0 →
    exec .tableSwapExchange s = .next (s.exchange w).watchFlow.finish) ∧
  ∀ (s : State) (w : Swap), s.sw.swap = some w → s.swapInflight ≠ 0 → s.orb.marks - w.startMark ≥ w.limit →
    exec .swapTimeout s = .next ((s.endHold w).complete w.chit 0x0701).watchFlow.finish

/-- A COMMAND that R355 rejects is answered with its code and no chit, in this order: RALOW_FENCED while no command is
taken (R368, R452), RALOW_FORMAT, RALOW_DENIED, RALOW_OPERANDS, RALOW_NO_RECORD. -/
def Obligations.CommandRejections : Prop :=
  ∀ (s t : State) (m : RalowIn) (n : Nat) (ops : List Word) (roles : List Nat) (argc : Nat) (opsOk : Bool) (f : State → Word → State),
    accepted m s t →
    (t.turnsAway = true → onCommand m n ops roles argc opsOk s f = .next (t.reply m 0x0A07 0 0 []).finish) ∧
    (t.turnsAway = false → (m.reservedOk = false ∨ n ≠ ops.length ∨ n > 32) →
      onCommand m n ops roles argc opsOk s f = .next (t.reply m 0x0A02 0 0 []).finish) ∧
    (t.turnsAway = false → m.reservedOk = true → n = ops.length → n ≤ 32 → roles.contains (t.roleOf m) = false →
      onCommand m n ops roles argc opsOk s f = .next (t.reply m 0x0A01 0 0 []).finish) ∧
    (t.turnsAway = false → m.reservedOk = true → n = ops.length → n ≤ 32 → roles.contains (t.roleOf m) = true → (n ≠ argc ∨ opsOk = false) →
      onCommand m n ops roles argc opsOk s f = .next (t.reply m 0x0A05 0 0 []).finish) ∧
    (t.turnsAway = false → m.reservedOk = true → n = ops.length → n ≤ 32 → roles.contains (t.roleOf m) = true → n = argc → opsOk = true →
      t.claimChit m.slot.val (netOf m.port).val m.mirror = none →
      onCommand m n ops roles argc opsOk s f = .next (t.reply m 0x0A04 0 0 []).finish)

/-- A chit and its home unit (R356, R360): the chit names the session slot, the slot's command counter and the home unit
that P3 of the lowest unfenced region gives the session; it is open from then on, and the counter goes up by 1. -/
def Obligations.ChitLayout : Prop :=
  ∀ (s u : State) (i : Sess) (net : Nat) (mirror : Bool) (c : Word),
    s.sessions.rising → s.claimChit i.val net mirror = some (c, u) →
    ∃ r k v, s.lowRegion = some r ∧ s.poolTake 3 r i.val 1 = some (k, v) ∧ s.isFenced r = false ∧
      c = word (i.val * 2 ^ 28 + (s.sess i.val).cmds.toNat * 2 ^ 16 + 4096 * r + k) ∧
      (u.sess i.val).cmds = (s.sess i.val).cmds + 1 ∧
      ∃ x ∈ u.chits, x.chit = c ∧ x.sess = i.val ∧ x.region = r ∧ x.unit = k ∧ x.final = false


/-! ### Collectives (spec/03_exact_reduction.md, spec/04_collectives.md) -/

/-- A CONTRIB or PARTIAL that R21 admits is taken where it passes R74 and R68: its arrival bit is set and it is queued
to the chunk's cell, or on a relay row sent on. -/
def Obligations.ContributionsComplete : Prop :=
  ∀ (s t : State) (a : Arrival) (m : Msg) (j : Nat) (c : JobCfg) (k : Chunk) (row : PlanRow) (at_ seg : Nat) (part : Bool),
    delivers s a (fun m => m.h.type == if part then 1 else 0) t m j c →
    (t.job j).late = false → t.isFenced (c.home m.h.chunk) = false → arrives t m (c.home m.h.chunk) →
    t.chunkOf j (word m.h.step) (BitVec.ofNat 8 m.h.attempt) m.h.chunk = some k → c.rowOf m.h.chunk = some (at_, row) →
    (t.job j).names m.h = true → formatOk c.cgrp row (m.h.type == 0) m.h.format m.h.cls = true → segmentOf k m.h = some seg →
    k.arrived.contains (m.h.member * k.s + seg) = false → partialBad m.h m.payload = false →
      exec (if part then .partialMsg a else .contrib a) s = .next (t.takeSegment k c row seg m).watchFlow.finish

/-- A message of the open instance from its deadline angle on is late and counted (R23). An uncorrectable word on the region
link to the home region drops a message and fails its job with BUFFER_UE (R411). Else the checks of R74 in their order: the first that fails counts the drop in its own counter and leaves every chunk
record, entry and cell queue unchanged; a malformed PARTIAL is counted as R68 says. -/
def Obligations.ContributionChecks : Prop :=
  ∀ (s : State) (m : Msg) (j : Nat) (c : JobCfg) (k : Chunk) (row : PlanRow) (at_ seg : Nat),
    let r := c.home m.h.chunk
    let old := s.chunkOf j (word m.h.step) (BitVec.ofNat 8 m.h.attempt) m.h.chunk
    ((s.job j).names m.h = true → (s.job j).late = true →
      s.contribution m j c = s.bump (pgRgc (portRegion m.port)) Off.RGC_DROP_LATE j) ∧
    (((s.job j).names m.h = false ∨ (s.job j).late = false) → s.isFenced r = false →
      portRegion m.port ≠ r → 2 ≤ s.eccOf (.link (portRegion m.port) r) →
      s.contribution m j c = (((s.eccClear (.link (portRegion m.port) r)).countUe (pgRgc r)).raise
        { pg := pgRgc r, ev := 1, unit := portRegion m.port, access := 0xA,
          syn := s.ueSyndrome (pgRgc r) (Store.link (portRegion m.port) r).key, job := some j, act := [.failJob j 0x0308] })) ∧
    (((s.job j).names m.h = false ∨ (s.job j).late = false) → s.isFenced r = false → arrives s m r → c.rowOf m.h.chunk = some (at_, row) →
    ((old = none ∨ (s.job j).names m.h = false) → s.contribution m j c = s.dropRst r Off.RST_DROP_UNGRANTED j) ∧
    (old = some k → (s.job j).names m.h = true →
      (formatOk c.cgrp row (m.h.type == 0) m.h.format m.h.cls = false → s.contribution m j c = s.dropRst r Off.RST_DROP_FORMAT j) ∧
      (formatOk c.cgrp row (m.h.type == 0) m.h.format m.h.cls = true →
        (segmentOf k m.h = none → s.contribution m j c = s.dropRst r Off.RST_DROP_SEGMENT j) ∧
        (segmentOf k m.h = some seg →
          (k.arrived.contains (m.h.member * k.s + seg) = true → s.contribution m j c = s.dropRst r Off.RST_DROP_DUP j) ∧
          (k.arrived.contains (m.h.member * k.s + seg) = false → partialBad m.h m.payload = true →
            s.contribution m j c =
              (s.dropRst r Off.RST_DROP_FORMAT j).raise { pg := pgRst r, ev := 0, access := 7, job := some j }))))) ∧
    ∀ off, (s.dropRst r off j).red = s.red

/-- The parent's messages and the contributors' notices complete: a GRANT of the open instance on a leaf row is held,
and a chunk that waits for it sends its partials (R101), before the deadline (R23); an open notice at a leaf coordinator with no instance open
opens it (R105); a contributor's ready notice counts where `ready_wait` is set (R107); the parent's seal notice seals
(R106); an abandon notice abandons with PARENT_ABANDON or CHILD_ABANDON (R108). -/
def Obligations.NoticesComplete : Prop :=
  (∀ (s t : State) (a : Arrival) (m : Msg) (j at_ : Nat) (c : JobCfg) (row : PlanRow),
    delivers s a (fun m => m.h.isGrant) t m j c → c.rowOf m.h.chunk = some (at_, row) → row.role = 1 →
    row.upGroup = m.h.group → row.upMember = m.h.member → (t.job j).names m.h = true → (t.job j).late = false →
      exec (.grant a) s =
        .next (let u := t.modInst j fun i => { i with grants := insertOnce i.grants m.h.chunk }
               (match u.chunkOf j (word m.h.step) (BitVec.ofNat 8 m.h.attempt) m.h.chunk with
                | some k => if k.phase = ChunkPhase.waitingGrant then u.leafSend k c row else u
                | none => u).watchFlow.finish)) ∧
  (∀ (s t : State) (a : Arrival) (m : Msg) (j : Nat) (c : JobCfg),
    delivers s a (fun m => m.h.isOpenNotice) t m j c → c.isLeaf = true → c.fromParent m.h = true → (t.job j).st = .running →
    (t.job j).inst.passed m.h = false → (t.job j).isOpen = false →
      exec (.openNotice a) s =
        .next (t.openLeaf j c (word m.h.step) (BitVec.ofNat 8 m.h.attempt) (word m.h.elemOffset)).watchFlow.finish) ∧
  (∀ (s t : State) (a : Arrival) (m : Msg) (j : Nat) (c : JobCfg),
    delivers s a (fun m => m.h.isSealNotice && !s.parentNotice m.h) t m j c → c.plan.readyWait = true →
    (t.job j).names m.h = true → (t.job j).late = false → c.fromContributor m.h = true →
      exec (.readyNotice a) s =
        .next ((t.modInst j fun i => { i with ready := insertOnce i.ready m.h.member }).progress j).watchFlow.finish) ∧
  (∀ (s t : State) (a : Arrival) (m : Msg) (j : Nat) (c : JobCfg),
    delivers s a (fun m => m.h.isSealNotice && s.parentNotice m.h) t m j c → c.isLeaf = true →
    (t.job j).names m.h = true → c.fromParent m.h = true →
      exec (.sealNotice a) s = .next ((t.sealInst j c).afterEnd j c).watchFlow.finish) ∧
  ∀ (s t : State) (a : Arrival) (m : Msg) (j : Nat) (c : JobCfg),
    delivers s a (fun m => m.h.isAbandonNotice) t m j c → (t.job j).names m.h = true →
    (c.isLeaf = true → c.fromParent m.h = true → exec (.abandonNotice a) s = .next (t.abandonInst j 0x0202).watchFlow.finish) ∧
    ((c.isLeaf = false ∨ c.fromParent m.h = false) → c.fromContributor m.h = true →
      exec (.abandonNotice a) s = .next (t.abandonInst j 0x0203).watchFlow.finish)

/-- The Comet path completes: a COMET_C at an unfenced region that passes the checks of R113 is added exactly (R114); an
open round whose timeout in marks has run out is abandoned and raises `comet_timeout` (R115), with its code of R124 in
the syndrome (the model's choice, notes/assumptions/108.md). -/
def Obligations.CometComplete : Prop :=
  (∀ (s t : State) (a : Arrival) (m : Msg) (j : Nat) (c : JobCfg),
    s.receive a (fun m => m.h.type == 5) = .got t m → t.slotOf m.h.job = some j → (t.job j).cfg = some c →
    t.isFenced c.cmtRegion = false → arrives t m c.cmtRegion → t.cometCheck m.h j c = none →
      exec (.cometC a) s = .next (t.cometAdd m j c ((c.group m.h.group).getD noGroup)).watchFlow.finish) ∧
  ∀ (s : State) (r : Region) (i : JobSlot) (j : Nat) (c : JobCfg),
    (s.cometSlot r.val i.val).isOpen = true → s.isFenced r.val = false → s.cometOwner r.val i.val = some (j, c) →
    c.cmtTmo ≤ (s.cometSlot r.val i.val).marks →
      exec (.cometTimeout r i) s =
        .next ((s.abandonRound j c (i.val - c.cmtBase)).raise
          { pg := pgCmt c.cmtRegion, ev := 0, akind := 5, addr := i.val, syn := 0x0401, job := some j }).finish

/-- Chunks and grants complete: the first waiting chunk of the round robin that its claims allow is admitted (R70 to
R72); a chunk of the open instance that pacing and backlog allow has its grants released, and the grants that a
calibration window has withheld leave once it allows them (R99, R272, R274); a lane of an unfenced region takes the next addend of its residue class (R53, R58). -/
def Obligations.ChunksComplete : Prop :=
  (∀ (s t : State) (r : Region) (j : Nat) (before after : List Nat), s.isFenced r.val = false → s.slotsFrom r.val = before ++ j :: after →
    (∀ i ∈ before, s.admitWaiting r.val i = none) → s.admitWaiting r.val j = some t → exec (.chunkAdmit r) s = .next t.watchFlow.finish) ∧
  (∀ (s : State) (r : Region) (j : JobSlot) (c : JobCfg) (k : Chunk) (row : PlanRow) (at_ : Nat),
    (s.job j.val).cfg = some c → (s.job j.val).st = .running → (s.job j.val).isOpen = true → s.isFenced r.val = false →
    (s.red.chunks.find? fun k => k.ofInst j.val (s.job j.val).inst.step (s.job j.val).inst.attempt && k.region == r.val && s.grantsDue c k) = some k →
    (k.released = true ∨ (c.paceRate = 0 ∨ 65536 ≤ s.red.pace.look 0 (r.val * 1024 + j.val)) ∧
      (c.paceBacklog = 0 ∨ (s.red.cellQ.look [] (r.val * 16 + k.cell)).length < c.paceBacklog * 16384)) →
    c.rowOf k.index = some (at_, row) →
      exec (.grantRelease r j) s = .next (s.sendGrants r.val j.val c k row).finish) ∧
  ∀ (s : State) (r : Region) (x l : Fin 16) (a : Addend) (rest : List Addend), s.isFenced r.val = false →
    takeAddend l.val (s.red.cellQ.look [] (r.val * 16 + x.val)) = some (a, rest) →
      exec (.addendAccumulate r x l) s = .next (s.addNext r.val x.val a rest).watchFlow.finish

/-- What a lane adds (R53, R58, R64, R65): an active chunk's entry without word error, with its own tag and a residue
that holds becomes `accumulate` of it with the addend; with a tag or residue that does not hold it raises the fault of
its kind and adds nothing. -/
def Obligations.LaneAdds : Prop :=
  ∀ (s : State) (k : Chunk) (c : JobCfg) (a : Addend),
    let e := k.entry a.elem
    e.err = 0 →
    (e.jobSlot = a.tagSlot → e.chunkSeq = a.tagSeq → e.residueOk = true →
      s.addOne k c a =
        (s.putChunk (k.putEntry a.elem (accumulate e (addendOf c.cgrp a.code)))).tryFinish (k.putEntry a.elem (accumulate e (addendOf c.cgrp a.code)))) ∧
    ((e.jobSlot ≠ a.tagSlot ∨ e.chunkSeq ≠ a.tagSeq) → s.addOne k c a = s.chunkFault (k.putEntry a.elem e) 2 0x0206 0) ∧
    (e.jobSlot = a.tagSlot → e.chunkSeq = a.tagSeq → e.residueOk = false →
      s.addOne k c a = s.chunkFault (k.putEntry a.elem { e with residueErr := true }) 0 0x0204 e.residueSyn)

/-- The transitions of a job complete: at its deadline an instance that cannot end is abandoned with cause DEADLINE
(R23, R108); an ARMED job whose start angle has passed runs, its program streams start, and a root opens its first
instance (R90, R104); a job that has drained is RETIRED (R93). -/
def Obligations.JobTransitionsComplete : Prop :=
  (∀ (s : State) (j : JobSlot), (s.job j.val).isOpen = true → (s.job j.val).inst.due = true →
    s.queuedInst j.val (s.job j.val).inst.step (s.job j.val).inst.attempt = false →
      exec (.deadline j) s = .next (s.deadline j.val).finish) ∧
  (∀ (s : State) (j : JobSlot) (c : JobCfg), (s.job j.val).st = .armed → (s.job j.val).startDue = true → (s.job j.val).cfg = some c →
      exec (.jobStart j) s = .next (s.startJob j.val c).finish) ∧
  ∀ (s : State) (j : JobSlot) (c : JobCfg), s.drained j.val = some c → exec (.jobDrainEnd j) s = .next (s.retireJob j.val c).finish

/-! ### Parameter service (spec/05_parameter_service.md) -/

/-- Window messages complete: a request at an unfenced engine that passes R147 is accepted, a write with its words
posted to their channels, a read in the engine's queue (R147 to R149); an engine's next piece leaves where P5 and P0
allow it (R149, R228), and its next acknowledgement once its words are written (R148). -/
def Obligations.WindowMessagesComplete : Prop :=
  (∀ (s t : State) (a : Arrival) (m : Msg) (j : Nat) (w : Window) (wr : Bool),
    s.receive a (fun m => m.h.type == if wr then 8 else 7) = .got t m → t.slotOf m.h.job = some j →
    (t.cfgNow j).window (winSpace m.h) = some w → t.isFenced (engineOf w m.port) = false → arrives t m (engineOf w m.port) →
    t.memReady = true → (t.cfgNow j).winCheck (t.job j).st m.h m.payload = 0 →
      exec (if wr then .winWrite a else .winRead a) s =
        .next (t.winAccept (engineOf w m.port) j (t.cfgNow j) w m).watchFlow.finish) ∧
  (∀ (s u : State) (r : Region) (q : WinReq) (w : Window), s.winReadHead r.val = some q →
    (s.cfgNow q.slot).window q.window = some w → s.winFenced w = false → s.winReady w = true → s.isFenced r.val = false →
    s.winPiece r.val (s.cfgNow q.slot) w q = some u → exec (.winReply r) s = .next u.finish) ∧
  ∀ (s : State) (r : Region) (q : WinReq) (w : Window) (rest : List WinReq), s.isFenced r.val = false →
    s.winq.look [] r.val = q :: rest → (s.cfgNow q.slot).window q.window = some w → q.isWrite = true →
    s.rangeWritten w q.offset q.len = true →
      exec (.winWriteAck r) s =
        .next ((s.winUpdate r.val q none).build
          { region := r.val, slot := some q.slot, payload := [], targets := q.targets,
            hdr := winReplyHdr (s.cfgNow q.slot).id q.group q.member q.window q.tag.toNat q.offset 0 flSeal 0 }).finish

/-- Slices complete, each for the slice of a job: with no OPEN pushed and room in the feed queue, the next OPEN record
is pushed (R132); a finished chunk of the opened instance goes into its unit's free buffer (R130); a commit with
request, seal and stores done writes the commit word, with `gen` up by 1 and the other area, and COMMITTED follows
(R135); a distribution port whose queue holds the next PARAM's bytes sends them where P0 allows it (R138 to R140). -/
def Obligations.SlicesComplete : Prop :=
  (∀ (s : State) (i : SliceIx) (j : Nat) (c : JobCfg) (x : SliceCfg) (p : Word × Byte × OpenStatus) (rest : List (Word × Byte × OpenStatus)),
    s.sliceOwner i.val = some (j, c, x) → (s.feed i.val).pendingOpen = p :: rest → (s.feed i.val).opened = none → s.feedRoom x = true →
    s.openHeld j c x = false → exec (.feedOpen i) s = .next (s.feedOpen j c x p).finish) ∧
  (∀ (s : State) (i : SliceIx) (ch : BitVec 24) (j : Nat) (c : JobCfg) (x : SliceCfg) (w : Window) (k : Chunk) (inst : Word × Byte),
    s.sliceOwner i.val = some (j, c, x) → (s.feed i.val).opened = some inst → c.window x.win = some w → x.first ≤ ch.toNat →
    ch.toNat < x.first + x.nchunk → (s.feed i.val).last = none → s.winReady w = true →
    (s.feed i.val).bufferFree x ((ch.toNat - x.first) / x.unit) = true → s.chunkOf j inst.1 inst.2 ch.toNat = some k →
    k.phase = .waitingFeed → exec (.feedDeliver i ch) s = .next (s.feedDeliver c x w k).finish) ∧
  (∀ (s : State) (i : SliceIx) (j : Nat) (c : JobCfg) (x : SliceCfg) (w : Window) (inst : Word × Byte),
    s.sliceOwner i.val = some (j, c, x) → (s.feed i.val).opened = some inst → c.window x.win = some w →
    (s.feed i.val).request = true → (s.feed i.val).sealed = true → (s.feed i.val).last = none → s.storesDone x = true →
    s.winReady w = true →
      let new : CommitWord :=
        { gen := ((s.commitWord c x).gen + 1) % 2 ^ 32, step := inst.1.toNat, attempt := inst.2.toNat, area := !(s.commitWord c x).area }
      exec (.commitWordWrite i) s =
        .next (((((s.readsCommit j c x).writeRange w x.off new.bytes (some j)).noteImages j x.index new).modFeed x.index fun f =>
          { f with last := some true }).pump x.index).finish) ∧
  ∀ (s u : State) (i : SliceIx) (j : Nat) (c : JobCfg) (x : SliceCfg) (d : Dist) (rest : List Dist),
    let n := min (paramCount (c.distFmt x)) (x.n c.len - d.sent)
    let size := storedSize (c.distFmt x) n
    let q := (s.cpb x.block).queue x.distq
    s.sliceOwner i.val = some (j, c, x) → (s.feed i.val).dists = d :: rest → size ≤ q.avail → q.err = 0 →
    s.claimBuild
      { region := x.region, slot := some j, hdr := paramHdr c x d n, payload := q.peek size,
        targets := ((c.group x.dgroup).getD noGroup).members.map Member.target } = some u →
      exec (.param i) s =
        .next ((u.modCpb x.block fun k => k.modQueue x.distq fun q => (q.take size).2).modFeed i.val fun f =>
          { f with dists := if d.sent + n < x.n c.len then { d with sent := d.sent + n } :: rest else rest }).finish

/-! ### Frames (spec/08_switch_core.md) -/

/-- Frames that leave the port block complete: one for another module is queued toward it (R211, R217); a
maintenance frame is taken, and a frame that no unit takes is dropped and counted in `SWC_DROP_TERM`, each with its
cells returned (R211, R212); every frame is sampled for mirroring (R237); PFC at an edge port and per-class-and-VC flow control from a peer LH8120 set the stop
timers of their classes (R119, R225). -/
def Obligations.FramesComplete : Prop :=
  (∀ (s t : State) (a : Arrival) (f : WireFrame) (tc vc : Nat) (b : Buf), s.arrive a = .passed t f tc vc b →
    (s.routeOf a.port.val f = .forward → exec (.frameForward a) s =
      .next ((t.forwardOrHold a.port vc tc f b).mirrored t a tc vc).watchFlow.finish) ∧
    (s.routeOf a.port.val f = .maintenance → exec (.maintenanceFrame a) s =
      .next ((t.giveCells b).mirrored t a tc vc).watchFlow.finish) ∧
    (s.routeOf a.port.val f = .nobody →
      exec (.terminatedFrameDrop a) s = .next (((t.giveCells b).dropSwc (portRegion a.port) Off.SWC_DROP_TERM).mirrored t a tc vc).watchFlow.finish)) ∧
  (∀ (s : State) (a : Arrival), s.arrive a = .control → isPfc a.bytes = true → (s.attr a.port).role = 1 →
    exec (.pfcFrame a) s = .next (s.pfc a.port a.bytes).finish) ∧
  ∀ (s : State) (a : Arrival), s.arrive a = .control → isCvfc a.bytes = true → 2 ≤ (s.attr a.port).role → (s.attr a.port).role ≤ 5 →
    exec (.classVcFlowControl a) s = .next (s.cvfc a.port a.bytes).finish

/-- Sending completes: the first build of a region that its claims allow is stored and queued (R235); a free port
starts the frame that R224 and R277 choose; a frame that ends leaves the port (R236); 1,000 ns after the last time the
buckets are refilled (R276, R277); the stops in force on a port are sent again, and a stop or pause whose time is over ends (R225, R286). -/
def Obligations.SendingComplete : Prop :=
  (∀ (s t : State) (r : Region) (before after : List Build) (b : Build), buildHeads r.val [] s.freeBuilds = before ++ b :: after →
    (∀ x ∈ before, s.tryBuild x = none) → s.tryBuild b = some t → exec (.frameBuild r) s = .next t.watchFlow.finish) ∧
  (∀ (s : State) (p : Port), s.portUp p.val = true → (s.port p.val).sending = none → (s.port p.val).txQuiet = false →
    (s.port p.val).txHoldUntil ≤ s.now → s.calHolds p.val = false → s.quiesced (pgFab (p.val / 8)) = false →
      exec (.frameStart p) s = .next (s.frameStart p.val).finish) ∧
  (∀ (s : State) (p : Port) (d : Desc) (k : Nat), (s.port p.val).sending = some (d, k) →
    exec (.frameTxEnd p) s = .next (s.frameEnd p.val d k).watchFlow.finish) ∧
  (∀ s : State, s.sw.refillAt + 1000 ≤ s.now → exec .bucketRefill s = .next s.refill.finish) ∧
  (∀ (s : State) (p : Port), s.portUp p.val = true → (s.port p.val).stopsTx ≠ [] →
    exec (.flowControlRefresh p) s = .next (s.refreshStops p.val).finish) ∧
  ∀ (s : State) (x : PausedPort), s.pauseOver x = true → exec (.pauseTimerExpiry x) s = .next (s.endPause x).finish

/-- What a frame start leaves (R224, R277): the head frame of the class and VC chosen leaves its queue and is on the
wire, its shaper pays its length with 20 bytes more, and only ports and shapers change. -/
def Obligations.FrameStartTakes : Prop :=
  ∀ (s : State) (p tc vc : Nat) (d : Desc) (sv : Tbl Nat) (rest : List Desc),
    s.ports.rising → (s.port p).egress.rising →
    (s.port p).egress.look [] (tc * 2 + vc) = d :: rest →
      ((s.startFrame p tc vc d sv).port p).egress.look [] (tc * 2 + vc) = rest ∧
      ((s.startFrame p tc vc d sv).port p).sending = some (d, tc * 2 + vc) ∧
      (∀ q, q ≠ p → (s.startFrame p tc vc d sv).port q = s.port q) ∧
      (∀ k, k ≠ tc * 2 + vc → ((s.startFrame p tc vc d sv).port p).egress.look [] k = (s.port p).egress.look [] k) ∧
      (s.shapers.rising → (s.shapers.look {} (p * 8 + tc)).on = true →
        ((s.startFrame p tc vc d sv).shapers.look {} (p * 8 + tc)).level = (s.shapers.look {} (p * 8 + tc)).level - 8 * ((d.len : Int) + 20)) ∧
      s.startFrame p tc vc d sv = { s with ports := (s.startFrame p tc vc d sv).ports, shapers := (s.startFrame p tc vc d sv).shapers }

/-- Telemetry completes: a sample and an export of a region's congestion map at the angle that asks for them (R240,
R241), the first strobe that is due (R275). The messages of module to module complete: BEACON and DISCOVER are taken, and go out when they are due (R250,
R444, R445). -/
def Obligations.TelemetryAndModulesComplete : Prop :=
  (∀ (s : State) (r : Region), s.orb.cmapDue.contains r.val = true → exec (.cmapSample r) s = .next (s.sampleMap r.val).finish) ∧
  (∀ (s : State) (r : Region), s.orb.exportDue.contains r.val = true → exec (.cmapExport r) s = .next (s.exportMap r.val).finish) ∧
  (∀ (s : State) (a : Angle) (l : List Angle), s.orb.strobeDue = a :: l → exec .telemetryStrobe s = .next (s.strobeAll a).finish) ∧
  (∀ (s t : State) (a : Arrival) (m : Msg), s.receive a (fun m => m.h.type == 0xA) = .got t m →
    exec (.beacon a) s = .next (t.takeBeacon m).watchFlow.finish) ∧
  (∀ (s t : State) (a : Arrival) (m : Msg), s.receive a (fun m => m.h.type == 0xB) = .got t m →
    exec (.discover a) s = .next (t.takeDiscover m).watchFlow.finish) ∧
  (∀ s : State, s.orb.beaconDue = true → (s.orb.st = .locked ∨ s.orb.st = .master) →
    exec .beaconSend s = .next s.sendBeacons.finish) ∧
  ∀ (s : State) (p : Port), s.portUp p.val = true → (s.discoverSecond p.val = true ∨ (s.port p.val).discNow = true) →
    exec (.discoverSend p) s = .next (s.sendDiscover p.val).finish

/-! ### Orbit, wall clock, gates and calibration (spec/09_orbit_and_gates.md) -/

/-- Orbit events complete: MARK, HOLD and RESUME reach the block on a running chip (R245 to R254); a PROBE is
answered at once in every orbit state, a due one is sent, and the ECHO of the probe under way joins the port's
measurements (R248); the master's next boundary passes (R255 to R257); a loss is acted on (R261). The wall clock completes (R279): a PTP message of the domain on the network in use, by its transport, reaches the
servo; a SYNC's arrival and its request's departure are stamped less the PHY latencies (R302); the DELAY_RESP moves the clock by the offset; a master that is no longer heard is left. -/
def Obligations.OrbitComplete : Prop :=
  (∀ (s : State) (e : OrbitIn), s.awake = true →
    (OrbitIn.has [1, 2] e = true → exec (.mark e) s = .next (s.markEvent e).finish) ∧
    (OrbitIn.has [3] e = true → exec (.hold e) s = .next (s.holdEvent e).finish) ∧
    (OrbitIn.has [4] e = true → exec (.resume e) s = .next (s.resumeEvent e).finish)) ∧
  (∀ (s : State) (p : Port) (j : BitVec 16) (d : BitVec 12), s.beaconPort p.val = true → (s.port p.val).heldByPeer = false →
      exec (.probe p j d) s = .next (s.emit (.orderedSet p 5 j s.stratum 0)).finish) ∧
  (∀ (s : State) (p : Port), s.beaconFree p.val = true → (s.orb.probes.look {} p.val).due = true →
    exec (.probeSend p) s = .next (s.sendProbe p.val).finish) ∧
  (∀ (s : State) (p : Port) (j : BitVec 16) (d : BitVec 12) (t : Nat), s.beaconPort p.val = true →
    (s.orb.probes.look {} p.val).sent = some (j, t) →
      exec (.echo p j d) s = .next (s.takeEcho p.val (s.now - t) d.toNat).finish) ∧
  (∀ s : State, s.awake = true → s.masterDue = true → exec .masterMark s = .next s.masterMark.finish) ∧
  (∀ s : State, s.lossDue = true → exec .sourceLoss s = .next s.sourceLoss.finish) ∧
  (∀ (s : State) (h : HostPort) (x : PtpIn), s.rbit pgOrb Off.ORB_PTP_CTRL 0 = true → hostNet h = s.wall.net →
    s.rbit pgOrb Off.ORB_PTP_CTRL 3 = PtpIn.v6 x → s.rfld pgOrb Off.ORB_PTP_CTRL 8 8 = (PtpIn.domain x).toNat →
    (s.hostPort h.val).rxErr = 0 →
      exec (.ptpMessage h x) s = .next (s.takePtp h x).finish) ∧
  (∀ (s : State) (h : HostPort) (v : Bool) (d : Byte) (t1 : Nat),
    (s.takePtp h (.sync v d t1)).wall.sync =
      some (t1, (s.wall.ns : Int) - s.rfld pgHst Off.HST_PTP_LAT 16 16 h, (s.wall.ns : Int) - s.rfld pgHst Off.HST_PTP_LAT 0 16 h)) ∧
  (∀ (s : State) (h : HostPort) (v : Bool) (d : Byte) (t1 t4 : Nat) (t2 t3 : Int), s.wall.sync = some (t1, t2, t3) →
    let off : Int := ((t2 - t1) - (t4 - t3)) / 2
    (s.takePtp h (.delayResp v d t4)).wall.ns = ((s.wall.ns : Int) - off).toNat ∧
    (s.takePtp h (.delayResp v d t4)).wall.state = 2) ∧
  ∀ s : State, s.rbit pgOrb Off.ORB_PTP_CTRL 0 = true → s.wall.state ≠ 0 → exec .ptpLost s = .next s.losePtp.finish

/-- Gates complete (R263 to R267): at an entry's angle the port's gate takes the mask of its list, or an
uncorrectable word makes it all-open (R280); at a scheduled angle the banks are exchanged; a frame of a class that closes while it is on the wire is an overrun. Calibration completes: lead, open and end of a window at their angles (R268, R269, R272); a peer's CAL_ENTER,
CAL_ACK and CAL_EXIT (R269); a requested step of a quiet target that fits its window starts, and one that has lasted
its time is done (R270, R271, R293, R326); a link that has not recovered 10 ms after its window raises `cal_fail`
(R294). -/
def Obligations.GatesAndCalibrationComplete : Prop :=
  (∀ (s : State) (p : Port) (a : Angle), (s.gate p.val).passFrom = some a → s.orb.st.gated = true →
    ((s.gate p.val).err = 0 → exec (.gateEntryPassage p) s = .next (s.gatePass p.val).finish) ∧
    (2 ≤ (s.gate p.val).err →
      exec (.gateEntryPassage p) s = .next ((s.modGate p.val fun g => { g with err := 0, passFrom := none }).schedUe p.val).finish)) ∧
  (∀ (s : State) (p : Nat), (s.port p).sending = none →
    s.gatePass p = s.modGate p fun g => { g with openMask := g.openAt s.angle, passFrom := none }) ∧
  (∀ (s : State) (p : Port), (s.gate p.val).swapDue = true → (s.gate p.val).pendingAt.isSome = true → s.orb.st.gated = true →
    exec (.gateSwap p) s = .next (s.gateSwap p.val).finish) ∧
  (∀ (s : State) (p k : Nat) (d : Desc) (a : Angle), (s.port p).sending = some (d, k) → (s.gate p).passFrom = some a →
    s.closingsSince p (k / 2) a = 1 →
      s.gatePass p = ((s.modGate p fun g => { g with openMask := g.openAt s.angle, passFrom := none }).bump pgOrb
        Off.ORB_GPORT_OVERRUN p).raise { pg := pgOrb, ev := 5 }) ∧
  (∀ (s : State) (e : JobSlot) (a : Angle), s.leadDue e.val = some a → exec (.calWindowLead e) s = .next (s.calLeadPass e.val a).finish) ∧
  (∀ (s : State) (e : JobSlot) (a : Angle), s.openDue e.val = some a → exec (.calWindowOpen e) s = .next (s.calOpenPass e.val a).finish) ∧
  (∀ (s : State) (e : JobSlot) (t : Nat), s.windowEnding e.val = some t → exec (.calWindowEnd e) s = .next (s.endWindow t).finish) ∧
  (∀ (s : State) (p : Port), s.beaconPort p.val = true →
    exec (.calEnter p) s = .next (s.calEnter p.val).finish ∧ exec (.calExit p) s = .next (s.calExit p.val).finish ∧
    ((s.calWin p.val).lead = true ∨ (s.calWin p.val).isOpen = true →
      exec (.calAck p) s = .next (s.modCal p.val CalWin.takeAck).finish)) ∧
  (∀ (s : State) (t : CalTarget) (k : CalStep), CalStep.fits t k = true → s.stepReady (CalTarget.key t) k = true →
    exec (.calStepStart t k) s = .next (s.stepStart (CalTarget.key t) k).finish) ∧
  (∀ (s : State) (t : CalTarget) (r : CalResult) (k : CalStep) (e : Nat), (s.calWin (CalTarget.key t)).step = some (k, e) → e ≤ s.now →
    exec (.calStepDone t r) s = .next (s.stepDone (CalTarget.key t) k r).finish) ∧
  ∀ (s : State) (p : Port) (t : Nat), (s.calWin p.val).exitPending = true → (s.port p.val).st ≠ .up →
    (s.calWin p.val).endedAt = some t → t + 10000000 ≤ s.now →
      exec (.calRecoveryTimeout p) s =
        .next (((s.raise { pg := pgFab (p.val / 8), ev := 4, unit := p.val % 8, access := 0xA }).portDown p.val .disabled).startBringup
          p.val false).watchFlow.finish

/-! ### Links and host ports (spec/10_links.md, spec/16_bringup_and_modes.md) -/

/-- Bring-up completes (R287 to R290): a status word of a port in training is recorded, with 16 ready words each way
the port goes on, and one during a tap renegotiation is answered too (R293); link training that is done takes its figures of merit; a port in ALIGN of an unfenced region is UP; a
state that has lasted its limit ends the attempt; 1 ms later the next one starts. A port in UP completes what meets it: a link fault takes it down (R295), a figure of merit is recorded and judged
(R291, R293), either direction sleeps and wakes (R298, R299). -/
def Obligations.LinksComplete : Prop :=
  (∀ (s : State) (l : Port) (w : BitVec 56) (fom : Byte), s.training l.val = true →
    exec (.statusWord l w fom) s = .next (s.takeWord l.val w.toNat fom).finish) ∧
  (∀ (s : State) (l : Port) (w : BitVec 56) (fom : Byte), s.training l.val = false → s.renegotiating l.val = true →
    exec (.statusWord l w fom) s = .next (s.renegotiate l.val w.toNat fom).finish) ∧
  (∀ (s : State) (p : Port) (foms : List Byte), (s.port p.val).st = .step3 →
    s.rbit (pgFab (p.val / 8)) Off.FAB_PORT_CTRL 0 (p.val % 8) = true → (s.port p.val).retryAt = none →
      exec (.linkTrainingDone p foms) s = .next (s.trained p.val foms).finish) ∧
  (∀ (s : State) (p : Port), (s.port p.val).st = .align → s.isFenced (portRegion p.val) = false →
    exec (.portAligned p) s = .next (s.enterUp p.val).finish) ∧
  (∀ (s : State) (p : Port) (n : Nat), (s.port p.val).st.limit = some n →
    ((s.port p.val).st = .align → (s.calWin p.val).isOpen = false ∧ (s.calWin p.val).exitPending = false) →
    (s.port p.val).retryAt = none → (s.port p.val).entered + n ≤ s.now →
      exec (.bringupStateTimeout p) s = .next (s.endAttempt p.val).finish) ∧
  (∀ (s : State) (p : Port) (t : Nat), (s.port p.val).retryAt = some t → t ≤ s.now → s.portEnabled p.val = true →
    s.isFenced (portRegion p.val) = false → exec (.bringupRetry p) s = .next (s.startBringup p.val false).finish) ∧
  (∀ (s : State) (p : Port) (c : LinkFaultCause), s.portUp p.val = true →
    (∀ n, c = .hiSer n → s.rfld (pgFab (p.val / 8)) Off.FAB_HISER 0 16 < n) →
      exec (.linkFault p c) s = .next ((s.raiseHiSer p.val c).linkFault p.val).watchFlow.finish) ∧
  (∀ (s : State) (l : Port) (fom : Byte), s.portUp (s.lanePort l.val) = true → (s.port (s.lanePort l.val)).rxQuiet = false →
    exec (.fomUpdate l fom) s = .next (s.fomUpdate l.val fom).finish) ∧
  (∀ (s : State) (p : Port), s.portUp p.val = true →
    ((s.port p.val).rxQuiet = false → exec (.quiet p) s = .next (s.takeQuiet p.val).finish) ∧
    ((s.port p.val).rxQuiet = true →
      exec (.rxWake p) s = .next (s.modPort p.val fun x => { x with rxQuiet := false }).finish ∧
      exec (.rxWakeTimeout p) s = .next (s.linkFault p.val).watchFlow.finish)) ∧
  (∀ (s : State) (p : Port), s.quietDue p.val = true →
    exec (.txQuietEnter p) s =
      .next (((s.modPort p.val fun x => { x with txQuiet := true }).bumpPort p.val Off.FAB_SLEEP_TX_N).emit
        (.quiet p.val)).finish) ∧
  ∀ (s : State) (p : Port) (c : WakeCause), (s.port p.val).txQuiet = true → s.wakeCause p.val c = true →
    exec (.txWake p c) s = .next (s.wakeTx p.val).finish

/-- Host ports complete (R286, R301, R303, R443): a frame of a port in UP is answered, or dropped and counted; a PAUSE
sets its timer, and one of no quanta lets go what it kept back; a link comes up, goes down and after 1 s starts again; a due announcement leaves. -/
def Obligations.HostPortsComplete : Prop :=
  (∀ (s : State) (h : HostPort), (s.hostPort h.val).state = 3 → (s.hostPort h.val).rxErr = 0 →
    (∀ f, s.answers h.val f = true → exec (.hostFrameReceive h f) s = .next (s.emit (.hostReply h f)).finish) ∧
    (∀ f, s.answers h.val f = false → exec (.hostFrameReceive h f) s = .next (s.bump pgHst (hostDropOff f) h.val).finish) ∧
    (∀ q : BitVec 16, q ≠ 0 → exec (.hostPause h q) s =
      .next (s.modHost h.val fun x => { x with pausedUntil := some (s.now + quantaNs q.toNat 100) }).finish) ∧
    exec (.hostPause h 0) s = .next ((s.modHost h.val fun x => { x with pausedUntil := none }).releaseHeld h).finish ∧
    exec (.hostLinkDown h) s = .next (s.hostDown h.val).finish) ∧
  (∀ (s : State) (h : HostPort), ((s.hostPort h.val).state = 1 ∨ (s.hostPort h.val).state = 2) →
    exec (.hostLinkUp h) s =
      .next (s.modHost h.val fun x => { x with state := 3, downAt := none, announced := 0, lastAnnounce := s.now }).finish) ∧
  (∀ (s : State) (h : HostPort) (t : Nat), (s.hostPort h.val).downAt = some t → t + 10 ^ 9 ≤ s.now → (s.hostPort h.val).state = 0 →
    exec (.hostAutonegRestart h) s = .next (s.modHost h.val fun x => { x with state := 1, downAt := none }).finish) ∧
  ∀ (s : State) (h : HostPort), s.announceDue h.val = true →
    exec (.announce h) s =
      .next ((s.modHost h.val fun x => { x with announced := min 3 (x.announced + 1), lastAnnounce := s.now }).emit
        (.announce h (s.hostLinkLocal h.val :: (if s.netV6 h.val = 0 then [] else [s.netV6 h.val]))
          (if s.netV4 h.val = 0 then none else some (s.netV4 h.val)))).finish

/-! ### Instruction streams (spec/06_engine_isa.md) -/

/-- Control instructions complete (R152, R166 to R170): each goes on in sequence or at its target within scope; LOOP
enters its body for a count, or skips it for a count of 0; WAIT goes on where the flag is set, clearing it where bit
36 says so; SET, CLEAR and MODE have their effect; FENCE goes on where the stream has no transfer under way; HALT
halts, and the last stream to halt stops the set. -/
def Obligations.ControlInstructions : Prop :=
  ∀ (s : State) (b : Cpb) (i : StreamIx) (t : Thread),
    let c := s.cpb t.b
    let f := iw t.w 52 6
    let last := iw t.w 0 15
    let count := bits (c.sreg (iw t.w 42 5)).toNat 0 32
    (issues s b i .halt t → exec (.halt b i) s = .next (goesOn (s.haltStream t) t fun x => { x with st := .halted }).finish) ∧
    (settled s →
      (issues s b i .nop t → exec (.nop b i) s = .next (goesOn s t Stream.next)) ∧
      (issues s b i .jmp t → s.inScope t last = true → exec (.jmp b i) s = .next (goesOn s t (Stream.jump last))) ∧
      (issues s b i .br t → brCond (iw t.w 48 4) (c.sreg (iw t.w 42 5)) (brOperand c t.w) = true → s.inScope t last = true →
        exec (.br b i) s = .next (goesOn s t (Stream.jump last))) ∧
      (issues s b i .br t → brCond (iw t.w 48 4) (c.sreg (iw t.w 42 5)) (brOperand c t.w) = false →
        exec (.br b i) s = .next (goesOn s t Stream.next)) ∧
      (issues s b i .loop t → t.st.pc < last → count ≠ 0 → t.st.loops.length < 4 →
        exec (.loop b i) s = .next (goesOn s t fun x =>
          { x with loops := { start := x.pc + 1, last := last, count := count, iter := 0 } :: x.loops, pc := x.pc + 1 })) ∧
      (issues s b i .loop t → t.st.pc < last → count = 0 → exec (.loop b i) s = .next (goesOn s t (Stream.after last))) ∧
      (issues s b i .set t → exec (.set b i) s = .next (goesOnWith s t fun c => c.setAfter t.i f s.orb.marks)) ∧
      (issues s b i .clear t → exec (.clear b i) s = .next (goesOnWith s t fun c => c.setFlag f false)) ∧
      (issues s b i .wait t → c.flag f = true →
        exec (.wait b i) s = .next (goesOnWith s t fun c => if ib t.w 36 then c.setFlag f false else c)) ∧
      (issues s b i .fence t → c.transfersOf t.i = [] → exec (.fence b i) s = .next (goesOn s t Stream.next)) ∧
      (issues s b i .mode t → exec (.mode b i) s = .next (goesOn s t fun x => { Stream.next x with ftz := ib t.w 35 })))

/-- Scalar instructions complete (R166, R168, R157): ALU and ALUI write their function of the operands, LIDX the
iteration of its loop, QRD eight bytes of the head entry; where R168 has no such loop, or the entry no such bytes, the
register takes a free value and all else is as it says (notes/assumptions/57.md); QPOP removes the head entry, QCLOSE
pushes the open tail. -/
def Obligations.ScalarInstructions : Prop :=
  ∀ (s : State) (b : Cpb) (i : StreamIx) (t : Thread),
    let c := s.cpb t.b
    let q := iw t.w 34 4
    let rd := iw t.w 53 5
    let off := 8 * iw t.w 0 7
    settled s →
    (issues s b i .alu t →
      exec (.alu b i) s = .next (goesOnWith s t fun c =>
        c.setSreg rd (aluFn (iw t.w 38 5) (c.sreg (iw t.w 48 5)) (c.sreg (iw t.w 43 5))))) ∧
    (issues s b i .alui t →
      exec (.alui b i) s = .next (goesOnWith s t fun c => c.setSreg rd (aluFn (iw t.w 38 5) (c.sreg (iw t.w 48 5)) (sx64 32 (iw t.w 0 32))))) ∧
    (issues s b i .lidx t →
      (∀ l, t.st.loops[iw t.w 32 2]? = some l →
        exec (.lidx b i) s = .next (goesOnWith s t fun c => c.setSreg rd (BitVec.ofNat 64 l.iter))) ∧
      (t.st.loops[iw t.w 32 2]? = none →
        exec (.lidx b i) s = .next (goesOnWith { s with free := s.free + 1 } t fun c =>
          c.setSreg rd (BitVec.ofNat 64 (Config.freeNat s.free))))) ∧
    (∀ e rest, (c.queue q).entries = e :: rest → c.inOrder c.issued [q] [] = true → (c.queue q).err = 0 →
      (issues s b i .qrd t → off + 8 ≤ e.length →
        exec (.qrd b i) s = .next (goesOnWith s t fun c => c.setSreg rd (BitVec.ofNat 64 (leAt e off 8)))) ∧
      (issues s b i .qrd t → e.length < off + 8 →
        exec (.qrd b i) s = .next (goesOnWith { s with free := s.free + 1 } t fun c =>
          c.setSreg rd (BitVec.ofNat 64 (leNat ((slice e off 8 ++ leBytes 8 (Config.freeNat s.free)).take 8))))) ∧
      (issues s b i .qpop t →
        exec (.qpop b i) s = .next (goesOn ((s.modCpb t.b fun c => c.modQueue q fun x => { x with entries := rest, cursor := 0 }).popped t.b q [e])
          t Stream.next).finish)) ∧
    (issues s b i .qclose t → c.inOrder c.issued [] [q] = true →
      ((c.queue q).tail = [] → exec (.qclose b i) s = .next (goesOn s t Stream.next)) ∧
      ((c.queue q).tail ≠ [] → (c.queue q).room ≠ 0 →
        exec (.qclose b i) s = .next (goesOnWith s t fun c => c.modQueue q fun x => { x with entries := x.entries ++ [x.tail], tail := [] })))

/-- The ALU functions (R166, R167): what each of the 18 codes computes on 64-bit scalars, shifts by the low 6 bits;
register S0 reads 0 and ignores writes, and every other scalar reads what was written last (R151). -/
def Obligations.ScalarFunctions : Prop :=
  (∀ a b : DWord,
    aluFn 0x00 a b = a + b ∧ aluFn 0x01 a b = a - b ∧ aluFn 0x02 a b = a &&& b ∧ aluFn 0x03 a b = a ||| b ∧ aluFn 0x04 a b = a ^^^ b ∧
    (aluFn 0x05 a b).toNat = a.toNat * 2 ^ (b.toNat % 64) % 2 ^ 64 ∧ (aluFn 0x06 a b).toNat = a.toNat / 2 ^ (b.toNat % 64) ∧
    (aluFn 0x07 a b).toInt = a.toInt / 2 ^ (b.toNat % 64) ∧ aluFn 0x08 a b = a * b ∧
    (aluFn 0x09 a b).toInt = min a.toInt b.toInt ∧ (aluFn 0x0A a b).toInt = max a.toInt b.toInt ∧
    (aluFn 0x0B a b).toNat = min a.toNat b.toNat ∧ (aluFn 0x0C a b).toNat = max a.toNat b.toNat ∧
    aluFn 0x0D a b = (if a = b then 1 else 0) ∧ aluFn 0x0E a b = (if a.toInt < b.toInt then 1 else 0) ∧
    aluFn 0x0F a b = (if a.toNat < b.toNat then 1 else 0) ∧ aluFn 0x10 a b = b ∧
    (aluFn 0x11 a b).toNat = a.toNat % 2 ^ 32 + b.toNat % 2 ^ 32 * 2 ^ 32) ∧
  ∀ (c : CpbSt) (r k : Nat) (v : DWord), c.sregs.rising →
    c.sreg 0 = 0 ∧ c.setSreg 0 v = c ∧ (r ≠ 0 → (c.setSreg r v).sreg r = v) ∧ (k ≠ r → (c.setSreg r v).sreg k = c.sreg k)

/-- Instructions of the address generators complete (R160, R161): AGBASE and AGDIM of an idle generator set it, LD and
ST of an idle generator hand it a transfer of a granule or more, SLD and SST16 of a ready access that passes R162 move
their bytes. -/
def Obligations.GeneratorInstructions : Prop :=
  ∀ (s : State) (b : Cpb) (i : StreamIx) (t : Thread),
    let c := s.cpb t.b
    let a := iw t.w 55 3
    let n := if ib t.w 43 then bits (c.sreg (iw t.w 38 5)).toNat 0 32 else iw t.w 0 20
    let ldx := t.access c (iw t.w 35 3) 8 8 false
    let stx := t.access c (iw t.w 35 3) 16 16 true
    settled s →
    ((c.ag a).cur = none →
      (issues s b i .agbase t →
        exec (.agbase b i) s = .next (goesOnWith s t fun c => c.modAg a fun g =>
          { g with space := iw t.w 48 5, base := ((c.sreg (iw t.w 38 5)).toNat + iw t.w 0 32) % 2 ^ 52, glog := iw t.w 35 3,
                   idx := [0, 0, 0, 0] })) ∧
      (issues s b i .agdim t →
        exec (.agdim b i) s = .next (goesOnWith s t fun c => c.modAg a fun g =>
          { g with counts := setAt g.counts (iw t.w 53 2) (if iw t.w 33 20 = 0 then 2 ^ 20 else iw t.w 33 20),
                   strides := setAt g.strides (iw t.w 53 2) (sext 32 (iw t.w 0 32)), idx := [0, 0, 0, 0] })) ∧
      (∀ ld : Bool, issues s b i (if ld then .ld else .st) t →
        (n = 0 → exec (if ld then .ld b i else .st b i) s = .next (goesOn s t Stream.next)) ∧
        (n ≠ 0 → exec (if ld then .ld b i else .st b i) s = .next (goesOnWith s t fun c =>
          let x : Transfer :=
            { isLoad := ld, queue := iw t.w 44 4, left := n, stream := t.i, pc := t.st.pc, id := (s.cpb t.b).issued }
          { c.modAg a (fun g => { g with cur := some x }) with issued := (s.cpb t.b).issued + 1 })))) ∧
    (∀ d u, issues s b i .sld t → ldx.check = none → s.accessReady ldx = true → s.loadFor ldx = (.ok d, u) →
      exec (.sld b i) s =
        .next (goesOn (u.modCpb t.b fun c => c.setSreg (iw t.w 53 5) (BitVec.ofNat 64 (leNat d))) t Stream.next).finish) ∧
    ∀ u, issues s b i .sst16 t → stx.check = none → s.accessReady stx = true →
      s.storeChecked stx (leBytes 8 (c.sreg (iw t.w 48 5)).toNat ++ leBytes 8 (c.sreg (iw t.w 43 5)).toNat) = (none, u) →
        exec (.sst16 b i) s = .next (goesOn u t Stream.next).finish

/-- Long instructions complete their issue (R152, R155): a vector instruction goes to the vector unit when that holds
no operation of the stream, a matrix instruction joins its accumulator's buffer while it holds fewer than four; a
matrix product with a repeat of 0 does nothing. -/
def Obligations.LongInstructions : Prop :=
  ∀ (s : State) (b : Cpb) (i : StreamIx) (t : Thread),
    let c := s.cpb t.b
    let op : Nat → UnitOp := fun left =>
      { word := t.w, stream := t.i, pc := t.st.pc, id := c.issued, s1 := c.sreg (iw t.w 24 5), s2 := c.sreg (iw t.w 19 5), left := left }
    let held : Nat → Out := fun left => .next (goesOnWith s t fun c =>
      { c.modAcc (iwAcc t.w) (fun a => { a with buffer := a.buffer ++ [op left] }) with issued := (s.cpb t.b).issued + 1 })
    settled s →
    (t.st.vec = [] → ∀ (o : Opc) (x : Instr),
      (o, x) ∈ [(.vop, .vop b i), (.vops, .vops b i), (.vred, .vred b i), (.vunpk, .vunpk b i), (.vcvt, .vcvt b i)] →
      issues s b i o t →
        exec x s = .next (goesOn (s.modCpb t.b fun c => { c with issued := (s.cpb t.b).issued + 1 }) t fun y =>
          { Stream.next y with vec := [{ op 0 with ftz := t.st.ftz }] })) ∧
    ((c.accAt (iwAcc t.w)).buffer.length < 4 →
      (∀ (o : Opc) (x : Instr), (o, x) ∈ [(.mma, .mma b i), (.mmat, .mmat b i)] → issues s b i o t → iw t.w 0 16 ≠ 0 →
        exec x s = held (iw t.w 0 16)) ∧
      (∀ (o : Opc) (x : Instr), (o, x) ∈ [(.release, .release b (.issue i)), (.zacc, .zacc b (.issue i)), (.accld, .accld b (.issue i))] →
        issues s b i o t → exec x s = held 0)) ∧
    (iw t.w 0 16 = 0 →
      (issues s b i .mma t → exec (.mma b i) s = .next (goesOn s t Stream.next)) ∧
      (issues s b i .mmat t → exec (.mmat b i) s = .next (goesOn s t Stream.next)))

/-- An instruction word that R153 or R164 excludes raises ILLEGAL (R184); one that the store holds with an uncorrectable
error raises `store_ue`, and one with a corrected error is counted and has its effect (R14, R185); so it is with the
words that a reader takes from queues; a stream whose next instruction is another one, or that does not run or wait, is
not changed by the row. -/
def Obligations.IllegalInstruction : Prop :=
  (∀ (s u : State) (b slot unit : Nat) (qs : List Nat),
    (∀ q, (qs.find? fun q => 2 ≤ ((s.cpb b).queue q).err) = some q →
      s.readingQueues b slot unit qs u = s.storeUe b slot unit 6 q) ∧
    (∀ q, qs = [q] → ((s.cpb b).queue q).err = 1 →
      s.readingQueues b slot unit qs u = (u.countCe (pgCpb b)).modCpb b fun c => c.modQueue q fun x => { x with err := 0 })) ∧
  ∀ (s : State) (b : Cpb) (i : StreamIx) (o : Opc) (f : Thread → Issued),
    (∀ t, s.thread b.val i.val = some t → opcOf t.w = some o → legal t.w t.place t.set.flags = false → s.fetchErr t = 0 →
      issue b i o s f = .next (s.trap t.b t.i t.st.pc 1).finish) ∧
    (∀ t, s.thread b.val i.val = some t → opcOf t.w = some o → 2 ≤ s.fetchErr t →
      issue b i o s f = .next (s.storeUe t.b t.slot t.i 7 t.st.pc).finish) ∧
    (∀ t, s.thread b.val i.val = some t → opcOf t.w = some o → legal t.w t.place t.set.flags = true → s.fetchErr t = 1 →
      issue b i o s f = .next (((s.issued t (f t)).countCe (pgCpb t.b)).modCpb t.b fun c =>
        { c with storeErr := c.storeErr.put 0 (t.place.base + t.st.pc) 0 }).finish) ∧
    (∀ t, s.thread b.val i.val = some t → opcOf t.w = none → s.fetchErr t = 0 →
      exec (.nop b i) s = .next (s.trap t.b t.i t.st.pc 1).finish) ∧
    (∀ t, s.thread b.val i.val = some t → opcOf t.w ≠ some o → issue b i o s f = .next s) ∧
    (s.thread b.val i.val = none → issue b i o s f = .next s)

/-- Units complete their work (R155, R160, R161, R171 to R182), each on a block of an unfenced region: an engine moves
its next granule; the vector unit runs the operation of the stream whose turn it is, whose sources are there and whose
destinations have room; a cell runs a K-group step, a RELEASE, a ZACC or an ACCLD at the head of the buffer of the
accumulator whose turn it is. The words that are taken from queues hold no errors; with errors
Obligations.IllegalInstruction says what comes of it. -/
def Obligations.UnitsComplete : Prop :=
  (∀ (s u : State) (b : Cpb) (a : Fin 8) (x : Transfer) (p : ProgSet) (t : Placed) (c : JobCfg) (d : List Byte), s.isFenced (b.val / 8) = false →
    let g := (s.cpb b.val).ag a.val
    let q := (s.cpb b.val).queue x.queue
    let acc : Access :=
      { b := b.val, slot := p.slot, cfg := c, place := t, ag := a.val, space := g.space, addr := g.address, n := g.granule,
        align := 16, store := !x.isLoad }
    let last := (1024 ≤ x.partialEntry.length + acc.n ∨ x.left ≤ 1 : Prop)
    g.cur = some x → s.placedOn b.val x.stream = some (p, t, c) → acc.check = none → s.accessReady acc = true →
    (x.isLoad = true → (s.cpb b.val).inOrder x.id [] [x.queue] = true → s.loadFor acc = (.ok d, u) →
      (last → (if q.tail.isEmpty then 1 else 2) ≤ q.room → exec (.agGranuleTransfer b a) s =
        .next ((u.modCpb b.val fun c => c.modQueue x.queue fun q => q.pushWhole (x.partialEntry ++ d)).granuleMoved b.val a.val x []).finish) ∧
      (¬last → exec (.agGranuleTransfer b a) s = .next (u.granuleMoved b.val a.val x (x.partialEntry ++ d)).finish)) ∧
    (x.isLoad = false → (s.cpb b.val).inOrder x.id [x.queue] [] = true → cleanQueues (s.cpb b.val) [x.queue] → acc.n ≤ q.avail → s.storeChecked acc (q.peek acc.n) = (none, u) →
      exec (.agGranuleTransfer b a) s =
        .next (((u.modCpb b.val fun c => c.modQueue x.queue fun q => (q.take acc.n).2).popped b.val x.queue (q.take acc.n).1).granuleMoved
          b.val a.val x []).finish)) ∧
  (∀ (s : State) (b : Cpb) (i : StreamIx) (u : UnitOp) (rest : List UnitOp) (p : ProgSet) (t : Placed) (cfg : JobCfg) (o : Opc)
      (src : List (List Byte)) (c c' : CpbSt) (gone : List (Nat × List (List Byte))),
    s.isFenced (b.val / 8) = false → s.vecTurn b.val i.val = true → ((s.cpb b.val).stream i.val).vec = u :: rest → s.placedOn b.val i.val = some (p, t, cfg) →
    opcOf u.word = some o → (s.cpb b.val).inOrder u.id (o.uses u.word).cons (o.uses u.word).prod = true →
    cleanQueues (s.cpb b.val) ((vecSources o u.word).map (·.q)) →
    (s.cpb b.val).takeAll (vecSources o u.word) = some (src, c, gone) →
    c.pushAll (vecOutputs o u.word (vecResult o cfg u src).1 (vecResult o cfg u src).2.1) = some c' →
      exec (.vectorOperation b i) s =
        .next (gone.foldl (fun s p => s.popped b.val p.1 p.2) (s.modCpb b.val fun _ =>
          { ((c'.modStream i.val fun x => { x with vec := x.vec.drop 1 }).addCond i.val (vecResult o cfg u src).2.2) with
            vecLast := i.val })).finish) ∧
  (∀ (s : State) (b : Cpb) (cell : Fin 8) (acc : Fin 4) (u : UnitOp) (o : Opc),
    let n := 4 * cell.val + acc.val
    s.isFenced (b.val / 8) = false → s.cellTurn b.val cell.val acc.val = true →
    (s.cpb b.val).accHead n [.mma, .mmat] = some (u, o) →
      exec (.kgroupStep b cell acc) s = .next ((s.kgroup b.val n u o).cellServed b.val cell.val acc.val).finish) ∧
  ∀ (s : State) (b : Cpb) (cell : Fin 8) (acc : Fin 4) (u : UnitOp) (p : ProgSet) (t : Placed) (cfg : JobCfg),
    let n := 4 * cell.val + acc.val
    let q := iw u.word 49 4
    s.isFenced (b.val / 8) = false → s.cellTurn b.val cell.val acc.val = true →
    s.placedOn b.val u.stream = some (p, t, cfg) →
    ((s.cpb b.val).accHead n [.release] = some (u, .release) → (s.cpb b.val).inOrder u.id [] [q] = true →
      ∀ c, (s.cpb b.val).pushAll [{ q := q, pack := ib u.word 32, bytes := (releaseBytes cfg ((s.cpb b.val).accAt n) u).1 }] = some c →
        exec (.release b (.run cell acc)) s =
          .next ((s.modCpb b.val fun _ => (c.modAcc n fun a => (if ib u.word 36 then a.zero a.intMode else a).popHead).addCond u.stream
            (condBits true (releaseBytes cfg ((s.cpb b.val).accAt n) u).2)).cellServed b.val cell.val acc.val).finish) ∧
    ((s.cpb b.val).accHead n [.zacc] = some (u, .zacc) →
      exec (.zacc b (.run cell acc)) s =
        .next ((s.modCpb b.val fun c => c.modAcc n fun a => (a.zero (ib u.word 36)).popHead).cellServed b.val cell.val acc.val).finish) ∧
    ((s.cpb b.val).accHead n [.accld] = some (u, .accld) → (s.cpb b.val).inOrder u.id [q] [] = true →
      cleanQueues (s.cpb b.val) [q] →
      ∀ src c gone, (s.cpb b.val).takeAll [{ q := q, n := 8192, keep := false }] = some (src, c, gone) →
        exec (.accld b (.run cell acc)) s =
          .next ((gone.foldl (fun s x => s.popped b.val x.1 x.2) (s.modCpb b.val fun _ =>
            c.modAcc n fun a => ({ a.zero (ib u.word 36) with vals := loadVals (src.getD 0 []) } : Acc).popHead)).cellServed
            b.val cell.val acc.val).finish)

/-- The reduction that a K-group step makes (R177, R178, R182): with queues that hold its panels the accumulator takes
`stepAcc` of them and counts the step, and no other accumulator of the block changes; a float format on an integer
accumulator raises exception 0x07. -/
def Obligations.KgroupStepAccumulates : Prop :=
  ∀ (s : State) (b n : Nat) (u : UnitOp) (o : Opc) (p : ProgSet) (t : Placed) (cfg : JobCfg),
    let fmt := iw u.word 37 4
    let a := (s.cpb b).accAt n
    s.placedOn b u.stream = some (p, t, cfg) →
    (a.intMode = true → fmt ≠ 6 → fmt ≠ 7 → s.kgroup b n u o = s.trap b u.stream u.pc 7) ∧
    ∀ (src : List (List Byte)) (c : CpbSt) (gone : List (Nat × List (List Byte))),
      s.cpbs.rising → (s.cpb b).accs.rising →
      (a.intMode = false ∨ fmt = 6 ∨ fmt = 7) → (s.cpb b).inOrder u.id (o.uses u.word).cons [] = true →
      cleanQueues (s.cpb b) ((stepSources u.word).map (·.q)) →
      (s.cpb b).takeAll (stepSources u.word) = some (src, c, gone) →
        let r := stepAcc a.intMode fmt (panel fmt (src.getD 0 [])) (panel fmt (src.getD 1 [])) (src.getD 2 [])
          (o == .mmat && ib u.word 34) (o == .mmat && ib u.word 33) a.vals
        (((s.kgroup b n u o).cpb b).accAt n).vals = r.vals ∧ (((s.kgroup b n u o).cpb b).accAt n).ksteps = a.ksteps + 1 ∧
        ∀ k, k ≠ n → ((s.kgroup b n u o).cpb b).accAt k = (s.cpb b).accAt k

/-- Program sets complete (R197 to R205): Gliel takes the first load for a block that accepts work; a draining job with
nothing left to feed or to distribute stops its set; the first stream of its set that has waited `wait_tmo` marks
raises WAIT_TIMEOUT. -/
def Obligations.ProgramSetsComplete : Prop :=
  (∀ (s : State) (b : Cpb) (l : Load) (rest : List Load), s.loads = l :: rest → l.cpb = b.val → s.quiesced (pgCpb b.val) = false →
    exec (.programVerify b) s = .next (s.verifyLoad l).finish) ∧
  (∀ (s : State) (b : Cpb) (j : JobSlot), s.setFinishes b.val j.val = true →
    exec (.programSetFinish b j) s = .next (s.stopSet b.val j.val 0x0611 false).finish) ∧
  ∀ (s : State) (b : Cpb) (i : StreamIx), s.firstExpired b.val i.val = true →
    exec (.waitTimeout b i) s = .next (s.trap b.val i.val ((s.cpb b.val).stream i.val).pc 0x0A).finish

/-! ### Memory channels (spec/11_memory.md) -/

/-- Channels complete (R309, R315, R324 to R328, R332): the write at the head of a serving channel's queue takes
effect, refresh and the oscillator run at their intervals, the scrubber reads its burst; training of
a block ends with its common rate, and zeroing leaves every byte of the block 0 and every other byte as it was. -/
def Obligations.ChannelsComplete : Prop :=
  (∀ (s : State) (ch : Channel),
    (∀ q, s.chanHead ch.val = some q → exec (.channelRequest ch) s =
      .next ((s.modChan ch.val fun x => { x with queue := x.queue.drop 1 }).serveReq ch.val q).finish) ∧
    (∀ m, s.chanServes ch.val = true → (s.chan ch.val).lastRefresh + 4000000 ≤ s.now →
      exec (.refresh ch m) s = .next (s.modChan ch.val fun x => { x with tmult := m, lastRefresh := s.now }).finish) ∧
    (∀ d, s.chanServes ch.val = true → (s.chan ch.val).lastOsc + 1000000 ≤ s.now →
      exec (.wckDqOscillator ch d) s = .next (s.oscillate ch.val d.toInt).finish) ∧
    (s.scrubDue ch.val = true → exec (.scrubRead ch) s = .next (s.scrub ch.val).finish)) ∧
  ∀ (s : State) (m : MemBlk),
    (∀ r : Fin 4, s.blockTrains m.val = true → exec (.memoryTrainingDone m r) s = .next (s.blockTrained m.val r.val).finish) ∧
    (s.blockZeroing m.val = true → exec (.memoryReady m) s = .next (s.zeroBlock m.val).finish) ∧
    (∀ a, Tbl.look 0 (s.zeroBlock m.val).mem a = if a / 2 ^ 37 = m.val then 0 else Tbl.look 0 s.mem a)

/-- A demand write of a word, with nothing queued to its channel and no word of its burst with three or more symbols in
error, for which R310 promises nothing (R310, R313): the word then reads as the bytes written
and decodes with no error, no other byte of memory changes, and memory keeps its canonical form. -/
def Obligations.MemoryWordWrite : Prop :=
  ∀ (s : State) (addr : Nat) (bs : List Byte), s.mem.wf = true → s.memErr.rising →
    addr % 16 = 0 → bs.length = 16 → (s.chan (addrChan addr)).queue = [] → (∀ k < 4, s.memErr.look 0 (addr / 64 * 4 + k) ≤ 2) →
      (s.writeWord addr bs).mem.wf = true ∧ Memory.bytes (s.writeWord addr bs).mem addr 16 = bs ∧
      (∀ a, (a < addr ∨ addr + 16 ≤ a) → Tbl.look 0 (s.writeWord addr bs).mem a = Tbl.look 0 s.mem a) ∧
      (s.writeWord addr bs).decodeWord addr = 0 ∧ (s.writeWord addr bs).wordBytesAt addr = bs

/-- The channel hash (R317): channel and channel-local address of a window offset are computed as the rule's `place`
computes them; the mapping is one-to-one; and different bursts of one aligned run of 128, or of 32 for scope region,
fall on different channels. -/
def Obligations.WindowPlacement : Prop :=
  ∀ (w : Window) (o o' : Nat),
    (w.scopeRegion = false →
      w.place o = ((List.range 6).foldl (fun x k => x ^^^ ((o >>> (7 * k + 6)) &&& 0x7F)) 0,
        w.lo * 2 ^ 20 + (((o >>> 13) <<< 6) ||| (o &&& 0x3F)))) ∧
    (w.scopeRegion = true →
      w.place o = (32 * w.region + (List.range 7).foldl (fun x k => x ^^^ ((o >>> (5 * k + 6)) &&& 0x1F)) 0,
        w.lo * 2 ^ 20 + (((o >>> 11) <<< 6) ||| (o &&& 0x3F)))) ∧
    (w.place o = w.place o' → o = o') ∧
    (o / 64 ≠ o' / 64 → o / (if w.scopeRegion then 2048 else 8192) = o' / (if w.scopeRegion then 2048 else 8192) →
      (w.place o).1 ≠ (w.place o').1)

/-! ### Exact reduction (spec/03_exact_reduction.md) -/

/-- The residue of a 192-bit value (R63): the sum of its bytes modulo 255, and 254 more for a negative value, which is
the value itself modulo 255. The prediction of R58 takes the stored residue and the addend alone: entries with one
residue and different accumulators predict the same one. -/
def Obligations.ResiduePredicted : Prop :=
  (∀ v : BitVec 192,
    (residueOf v).toNat =
      (((List.range 24).foldl (fun r i => r + bits v.toNat (8 * i) 8) 0) % 255 + if v.msb then 254 else 0) % 255 ∧
    ((residueOf v).toNat : Int) = v.toInt % 255) ∧
  ∀ (e e' : Entry) (a : BitVec 192) (b : Bool), e.residue = e'.residue →
    (accumulate e (.finite a b)).residue = BitVec.ofNat 8 ((e.residue.toNat + (residueOf a).toNat) % 255) ∧
    (accumulate e' (.finite a b)).residue = (accumulate e (.finite a b)).residue

/-- The predicted residue follows the accumulator as long as the sum stays within 192 bits (R58, R63), and an
accumulator with one bit wrong fails the test of R64. -/
def Obligations.ResidueTracks : Prop :=
  (∀ (e : Entry) (a : Addend2), e.residueOk = true →
    (∀ v b, a = .finite v b → -(2 ^ 191 : Int) ≤ e.acc.toInt + v.toInt ∧ e.acc.toInt + v.toInt < 2 ^ 191) →
      (accumulate e a).residueOk = true) ∧
  ∀ (e : Entry) (i : Nat), i < 192 → e.residueOk = true →
    ({ e with acc := e.acc ^^^ (1#192 <<< i) } : Entry).residueOk = false

/-- Reduction is exact (R58): a special addend sets its flag and leaves `acc` and `residue`; every other is added to
both, and each is counted. A converted endpoint addend is smaller than 2^(190 - G) units, or 2^31 in integer mode; so
with at most 2^G of them a fresh entry holds their exact sum, smaller than 2^190 (2^(31 + G) in integer mode) with bits
191 and 190 equal, and in whatever order they come the entry is the same. -/
def Obligations.ReductionIsExact : Prop :=
  (∀ e : Entry,
    accumulate e .nan = { e with nan := true, count := e.count + 1 } ∧
    accumulate e (.inf false) = { e with posInf := true, count := e.count + 1 } ∧
    accumulate e (.inf true) = { e with negInf := true, count := e.count + 1 } ∧
    ∀ (a : BitVec 192) (b : Bool),
      accumulate e (.finite a b) =
        { e with acc := e.acc + a, residue := BitVec.ofNat 8 ((e.residue.toNat + (residueOf a).toNat) % 255),
                 belowFloor := e.belowFloor || b, count := e.count + 1 }) ∧
  (∀ (floor : Int) (g : Nat) (x : Word) (a : BitVec 192) (b : Bool), 12 ≤ g → g ≤ 24 →
    (addendF32 floor g x = .finite a b → a.toInt.natAbs < 2 ^ (190 - g)) ∧
    (addendI32 x = .finite a b → a.toInt.natAbs ≤ 2 ^ 31)) ∧
  (∀ (e : Entry) (l l' : List Addend2), l.Perm l' → l.foldl accumulate e = l'.foldl accumulate e) ∧
  ∀ (e : Entry) (l : List (BitVec 192 × Bool)) (g k : Nat), 12 ≤ g → g ≤ 24 → k = 190 - g ∨ k = 31 → e.acc = 0 → l.length ≤ 2 ^ g →
    (∀ a ∈ l, a.1.toInt.natAbs < 2 ^ k ∨ (k = 31 ∧ a.1.toInt.natAbs = 2 ^ k)) →
      let acc := ((l.map fun a => Addend2.finite a.1 a.2).foldl accumulate e).acc
      acc.toInt = (l.map fun a => a.1.toInt).sum ∧ (acc.toInt.natAbs < 2 ^ (k + g) ∨ (k = 31 ∧ acc.toInt.natAbs = 2 ^ (k + g))) ∧
      acc.getLsbD 191 = acc.getLsbD 190

/-- Two levels equal one (R67, R68): a parent that adds the Class T partial of a fresh entry which took addends `l`,
and which passes the range test of R464, holds the accumulator and the special flags that adding `l` itself leaves,
and no such partial is malformed. -/
def Obligations.PartialsCompose : Prop :=
  ∀ (p leaf : Entry) (l : List Addend2), leaf.acc = 0 → leaf.posInf = false → leaf.negInf = false → leaf.nan = false →
    (l.foldl accumulate leaf).wrapped = false →
      let w := (l.foldl accumulate leaf).partialT
      let two := accumulate p (addendExact w)
      let one := l.foldl accumulate p
      malformedPartial w = false ∧ two.posInf = one.posInf ∧ two.negInf = one.negInf ∧ two.nan = one.nan ∧
      ((one.posInf || one.negInf || one.nan) = false → two.acc = one.acc) ∧ ∀ f, two.value f = one.value f

/-! ### Messages of the fabric protocol (spec/04_collectives.md R94 to R97) -/

/-- Writing and reading a message agree: every field of a header that fits its bits comes back, the payload comes
back, and a message of version 1 with its type's traffic class, no reserved format and a payload of the size that its
format and count give passes the three checks of R97. -/
def Obligations.LfpRoundTrip : Prop :=
  ∀ (h : LfpHeader) (payload : List Byte), h.fits = true →
    LfpHeader.parse (lfpBytes h payload) = h ∧ lfpPayload (lfpBytes h payload) = payload ∧
    (h.version = 1 → typeTc h.type = some h.tc → h.format ≠ 0xF → payload.length = storedSize h.format h.count →
      payload.length ≤ 8192 → lfpCheck (36 + payload.length) (lfpBytes h payload) = 0)

/-! ### Registers (spec/12_control_plane.md, spec/17_register_summary.md) -/

/-- Every row of a register access completes (R345 to R347): a write by an open session whose role may make it, of a
mapped register that is not fenced, and a read of one, have the register's own effect and answer one entry. -/
def Obligations.RegisterRowsComplete : Prop :=
  ∀ (s : State) (c : Instr) (p : Pfx) (n : Nat) (r : RegRow), c.wf = true →
    (∀ x, rowWrite s c = some x → x.due = true → s.canAccess x.sess.val = true → mapped x.pg x.off p n r →
      s.mayWrite p x.off (s.selected x.pg r.sel) x.sess.val x.data = true →
      s.accessFenced p x.pg x.off (s.selected x.pg r.sel) true = false →
        let w := s.writeReg p n x.pg r x.sess.val x.data
        exec c s = .next ((w.2.emit (.entry x.sess.val w.1 0)).endAccess x.sess.val).finish) ∧
    ∀ (i : Sess) (a : Nat), rowRead c = some (i, a) → s.canAccess i.val = true → mapped (a / 2 ^ 14) (a % 2 ^ 14) p n r →
      s.accessFenced p (a / 2 ^ 14) (a % 2 ^ 14) (s.selected (a / 2 ^ 14) r.sel) false = false →
        let v := s.readReg p n (a / 2 ^ 14) r i.val
        exec c s = .next ((v.2.emit (.entry i.val 0 v.1)).endAccess i.val).finish

/-- The order of the checks of R347: an unmapped address is UNMAPPED, a write that the role may not make is DENIED
before the register is FENCED, and none of the three changes anything; any other operation is OK or LOCKED. -/
def Obligations.AccessOrder : Prop :=
  ∀ (s : State) (i addr : Nat) (w : Option Word),
    let pg := addr / 2 ^ 14
    let off := addr % 2 ^ 14
    let a := s.access i addr w
    (a.status = 2 ↔ ∀ p n r, ¬mapped pg off p n r) ∧
    (∀ p n r, mapped pg off p n r →
      (a.status = 3 ↔ ∃ v, w = some v ∧ s.mayWrite p off (s.selected pg r.sel) i v = false) ∧
      (a.status = 4 ↔ a.status ≠ 3 ∧ s.accessFenced p pg off (s.selected pg r.sel) w.isSome = true)) ∧
    (2 ≤ a.status → a.after = s ∧ a.value = 0) ∧ a.status ≤ 4 ∧ (w = none → a.status ≠ 1) ∧ (w.isSome = true → a.value = 0)

/-- The common header (R348, R391, R395, R457 to R460): a write of 1 clears event bits and no others, a write of bit 31
clears the capture, selecting an event zeroes its counter, no class goes below its default, `cfg_lock` once set stays
set and a write of 0 to it answers LOCKED. -/
def Obligations.HeaderWrites : Prop :=
  ∀ (s : State) (p : Pfx) (n pg : Nat) (r : RegRow) (w : Word), s.regs.rising → mapped pg r.off p n r →
    let t := s.writeHeader p pg r w
    (r.off = Off.BLK_EVENT → t.1 = 0 ∧ ∀ k, t.2.rbit pg Off.BLK_EVENT k = (s.rbit pg Off.BLK_EVENT k && !(decide (k < 16) && bit w k))) ∧
    (r.off = Off.BLK_FIRST_ERR0 → t.2.capture pg = if bit w 31 then List.replicate 8 0 else s.capture pg) ∧
    (∀ k, k < 4 → r.off = Off.BLK_PERF_SEL0 + 4 * k →
      t.2.rfld pg r.off 0 16 = fld w 0 16 ∧ t.2.reg pg (Off.BLK_PERF_CNT + 8 * k) = 0 ∧ t.2.reg pg (Off.BLK_PERF_CNT + 8 * k + 4) = 0) ∧
    (r.off = Off.BLK_FAULT_MAP → s.cfgLocked pg = false → ∀ e, e < p.events.length →
      t.2.rfld pg Off.BLK_FAULT_MAP (2 * e) 2 = max (p.events.getD e 0) (fld w (2 * e) 2)) ∧
    (r.off = Off.BLK_CTRL → s.cfgLocked pg = true → t.2.cfgLocked pg = true ∧ (bit w 3 = false → t.1 = 1)) ∧
    (r.off = Off.BLK_CTRL → bit w 3 = true → t.2.cfgLocked pg = true)

/-- What writes of registers with an effect of their own do: a table word of an unlocked entry takes its writable bits
through the lowest unfenced region, a locked entry and any other region keep it and answer LOCKED (R83, R92), and so
does a member entry that no group covers under `cfg_lock` (R7, R348); a
staging word is stored and the address moves on (R383); thresholds that do not rise are ignored (R439); the clock
floor is stored (R434). -/
def Obligations.RegisterEffects : Prop :=
  ∀ (s : State) (sel : Nat) (v : Word), s.regs.rising → s.tables.rising →
    (∀ r k i w, i < 262144 → w < 256 →
      (s.lowRegion ≠ some r → s.writeTable r k i w v = (1, s)) ∧
      (s.lowRegion = some r → tableMask k w ≠ 0 → s.lockers k i ≠ [] →
        (s.writeTable r k i w v).1 = 1 ∧ (s.writeTable r k i w v).2.tables = s.tables) ∧
      (s.lowRegion = some r → tableMask k w ≠ 0 → s.lockers k i = [] → k = .member → s.cfgLocked (pgRgc r) = true →
        s.memberBound i = false → s.writeTable r k i w v = (1, s)) ∧
      (s.lowRegion = some r → tableMask k w ≠ 0 → s.lockers k i = [] →
        (k = .member → s.cfgLocked (pgRgc r) = false ∨ s.memberBound i = true) →
        (s.writeTable r k i w v).1 = 0 ∧
        (s.writeTable r k i w v).2.tbl k i w = (s.tbl k i w &&& ~~~(tableMask k w)) ||| (v &&& tableMask k w) ∧
        ∀ k' i' w', i' < 262144 → w' < 256 → (k', i', w') ≠ (k, i, w) → (s.writeTable r k i w v).2.tbl k' i' w' = s.tbl k' i' w')) ∧
    (∀ a, a = s.rfld pgSec Off.SEC_STAGE_ADDR 0 22 → Memory.wf s.sec.stage = true →
      Memory.bytes (s.stageWord v).sec.stage a 4 = leBytes 4 v.toNat ∧
      (∀ k, (k < a ∨ a + 4 ≤ k) → Tbl.look 0 (s.stageWord v).sec.stage k = Tbl.look 0 s.sec.stage k) ∧
      (s.stageWord v).rfld pgSec Off.SEC_STAGE_ADDR 0 22 = (a + 4) % 2 ^ 22) ∧
    (∀ r : RegRow, r.off = Off.PWR_THERM → (fld v 8 8 ≤ fld v 0 8 ∨ 110 ≤ fld v 8 8) → s.writePWR r sel v = (0, s)) ∧
    ∀ r : RegRow, r.off = Off.CLK_STEP → (s.writeCLK r sel v).1 = 0 ∧ (s.writeCLK r sel v).2.clockFloor = min 2 (fld v 0 2)

/-! ### Events, faults and power (spec/14_faults.md, spec/15_module_hardware.md) -/

/-- Raising an event (R391, R395, R396): its bit is set; with no capture held, or one of class `corrected` and an
event of a higher class, the block captures it; any other capture is kept, and an event of class `contained` or
higher sets `more` in one of class `contained` or higher; the action of the class waits to be taken; nothing but the
registers, the event ring, the sessions' messages and the fault log's queue changes, and the registers of a fenced
block stay as they are. -/
def Obligations.RaiseRecords : Prop :=
  ∀ (s : State) (e : Occ), s.regs.rising → e.ev < 16 →
    let t := s.raise e
    let cls := s.classOf e.pg e.ev
    let old := s.reg e.pg Off.BLK_FIRST_ERR0
    t = { s with regs := t.regs, ring := t.ring, sessions := t.sessions, out := t.out, held := t.held, flt := t.flt, todo := t.todo } ∧
    t.flt = { s.flt with queue := t.flt.queue, containedLogged := t.flt.containedLogged } ∧
    t.todo = s.todo ++ e.reactions (defaultClass e.pg e.ev) cls ∧
    (s.frozen e.pg = true → ∀ off, off < 2 ^ 14 → t.reg e.pg off = s.reg e.pg off) ∧
    (s.frozen e.pg = false →
      t.rbit e.pg Off.BLK_EVENT e.ev = true ∧
      (bit old 31 = false ∨ (fld old 4 2 = 0 ∧ 0 < cls) → t.capture e.pg = s.captureWords e cls) ∧
      (bit old 31 = true → fld old 4 2 = 0 → cls = 0 → t.capture e.pg = s.capture e.pg) ∧
      (bit old 31 = true → fld old 4 2 ≠ 0 →
        t.capture e.pg = (if cls = 0 then old else setBit old 7 true) :: (s.capture e.pg).drop 1))

/-- FAULT_N and the maintenance lock (R400, R403, R384): an assertion lasts 10 µs from now and cancels a pending release; a
release during the pulse waits for its end, after it the pin is deasserted; a test of a deasserted pin gives a pulse
that ends whatever `hold` holds; the pulse of a held pin ends with the pin asserted; the first fatal cause is recorded
once; the lock opens where both consents lie within 60 s of each other. -/
def Obligations.PinAndLock : Prop :=
  ∀ s : State,
    (s.assertFaultn.flt.faultn = true ∧ s.assertFaultn.flt.pulseEnd = some (s.now + 10000) ∧ s.assertFaultn.flt.releasePending = false) ∧
    (s.flt.faultn = true → s.flt.pulseEnd = none → s.releaseFaultn.flt.faultn = false) ∧
    (∀ t, s.flt.faultn = true → s.flt.pulseEnd = some t → s.releaseFaultn = { s with flt := { s.flt with releasePending := true } } ∧
      s.releaseFaultn.endPulse.flt.faultn = false) ∧
    (s.flt.faultn = false → s.testFaultn.flt.faultn = true ∧ s.testFaultn.flt.pulseEnd = some (s.now + 10000) ∧
      s.testFaultn.endPulse.flt.faultn = false) ∧
    (s.flt.faultn = true → s.flt.testPulse = false → s.flt.releasePending = false →
      s.endPulse.flt.faultn = s.faultnHold ∧ s.endPulse.flt.pulseEnd = none) ∧
    (∀ w, s.rbit pgFlt Off.FLT_FIRST_FATAL 31 = true → s.firstFatal w = s) ∧
    (∀ a b, s.sec.consentM = some a → s.sec.consentO = some b → s.sec.maintOpen = false →
      (s.tryLock.sec.maintOpen = true ↔ max a b - min a b ≤ 60 * 10 ^ 9)) ∧
    ∀ role, s.mayWriteHeader Off.BLK_EVENT_FORCE role = true → role = 4 ∧ s.sec.maintOpen = true

/-- Faults and power complete (R403 to R411, R419 to R428, R432 to R437): a region link that goes down fences the higher
region, a page program of the fault log, the end of FAULT_N's pulse; the supply's levels and PWR_EN and RESET_N, a
rail that fails, the release of reset; a sensor reading, a clock fault, a power estimate and a governor stage. -/
def Obligations.FaultsAndPowerComplete : Prop :=
  (∀ (s : State) (a b : Region), a ≠ b → s.isFenced a = false → s.isFenced b = false →
    exec (.regionLinkDown a b) s =
      .next (s.raise { pg := pgRgc (max a.val b.val), ev := 0, access := 0xA, addr := min a.val b.val }).finish) ∧
  (∀ s : State, (s.flt.writing.isSome = true ∨ s.flt.queue ≠ []) → exec .faultLogWrite s = .next s.logPage.finish) ∧
  (∀ (s : State) (t : Nat), s.flt.pulseEnd = some t → t ≤ s.now → exec .faultnPulseEnd s = .next s.endPulse.finish) ∧
  (∀ (s : State) (vin : BitVec 16),
    (3600 ≤ vin.toNat → exec (.auxPowerUp vin) s = .next ({ s with pwr := { s.pwr with vin := vin, aux := true } }).inputSeen.finish) ∧
    (s.pwr.aux = true → vin.toNat < 3600 → exec (.auxPowerDown vin) s = .next (s.auxOff vin).finish) ∧
    (s.pwr.rails = true → vin.toNat < 4400 → exec (.powerFailure vin) s = .next (s.underVoltage vin).finish) ∧
    (s.pwr.rails = true → 5750 < vin.toNat → exec (.inputOvervoltage vin) s = .next (s.overVoltage vin).finish) ∧
    (s.pwr.aux = true → s.awake = true → 4400 ≤ vin.toNat → vin.toNat < 4600 →
      exec (.inputLow vin) s = .next (({ s with pwr := { s.pwr with vin := vin } }).raise { pg := pgPwr, ev := 0 }).finish)) ∧
  (∀ s : State,
    (s.pwr.pwrEn = false → exec .pwrEnHigh s = .next ({ s with pwr := { s.pwr with pwrEn := true } }).startStages.finish) ∧
    (s.pwr.pwrEn = true → exec .pwrEnLow s = .next s.enableLow.finish) ∧
    (s.pwr.aux = true → exec .resetN s = .next s.chipReset.startStages.finish) ∧
    (s.pwr.rails = true → exec .railFault s = .next s.railFails.finish) ∧
    (∀ v, s.mayLeaveReset = true → exec (.resetRelease v) s = .next (s.releaseReset v).finish) ∧
    (∀ r : SensorReadings, s.pwr.aux = true → r.temps.length = 100 → exec (.sensorRead r) s = .next (s.readSensors r).finish) ∧
    (s.awake = true →
      (∀ f, exec (.clockFault f) s = .next (s.clockFails f).finish) ∧
      (∀ w, exec (.powerEstimateUpdate w) s = .next ({ s with pwr := { s.pwr with estimate := w } }).judgeLoad.finish) ∧
      (s.pwr.stageDue = true → exec .governorStage s = .next s.governorStage.finish)))

/-- Autonomous mode, shutdown and the reset of a block complete (R26, R27, R451, R452, R458): a decision within the
bounds in force moves its field, a field outside them goes to the nearest end, the first mark after `auto` activates
the mode, a closing module with nothing left to finish shuts, a quiescing block that has finished its work is
quiesced, and a block in reset comes out of it. -/
def Obligations.ModesComplete : Prop :=
  ∀ s : State,
    (∀ d v old, s.decision d v = some old → exec (.autonomousDecision d v) s = .next (s.movePolicy d old v).watchFlow.finish) ∧
    (∀ d x, s.correction d = some x → exec (.autonomousBoundCorrection d) s = .next (s.movePolicy d x.1 (word x.2)).watchFlow.finish) ∧
    (s.awake = true → s.boot.autoDue = true → exec .autonomousActivate s =
      .next ({ s with boot := { s.boot with autoActive := true, autoDue := false, autoArmed := false } } : State).finish) ∧
    (s.closed = true → exec .shutdownComplete s =
      .next ({ s.shedLoad with boot := { s.shedLoad.boot with shutState := 2 } } : State).finish) ∧
    (∀ b : BlockRef, BlockRef.page b / 256 < 4 →
      (s.rfld (BlockRef.page b) Off.BLK_STATE 0 2 = 2 → s.blockIdle (BlockRef.page b) = true →
        exec (.blockQuiesced b) s = .next (s.setRfld (BlockRef.page b) Off.BLK_STATE 0 2 3).finish) ∧
      (s.rfld (BlockRef.page b) Off.BLK_STATE 0 2 = 0 →
        exec (.blockResetDone b) s = .next (((s.resetDatapath (BlockRef.page b)).setRfld (BlockRef.page b) Off.BLK_STATE 0 2
          (if s.rbit (BlockRef.page b) Off.BLK_CTRL 1 then 3 else 1)).watchFlow).finish))
end
end

