-- ==== Sys2Proof/Laws/State.lean ====
section
/-!
SUPPORT. What each elementary update of the state does to each field: one lemma for each field and
update, so that no proof unfolds a record update.
-/

namespace Sys2Proof.Machine

variable (s : State)

/-! ### `State.emit` -/

@[simp] theorem State.emit_now (e : Emission) : (s.emit e).now = s.now := rfl
@[simp] theorem State.emit_free (e : Emission) : (s.emit e).free = s.free := rfl
@[simp] theorem State.emit_regs (e : Emission) : (s.emit e).regs = s.regs := rfl
@[simp] theorem State.emit_tables (e : Emission) : (s.emit e).tables = s.tables := rfl
@[simp] theorem State.emit_orb (e : Emission) : (s.emit e).orb = s.orb := rfl
@[simp] theorem State.emit_wall (e : Emission) : (s.emit e).wall = s.wall := rfl
@[simp] theorem State.emit_gates (e : Emission) : (s.emit e).gates = s.gates := rfl
@[simp] theorem State.emit_cal (e : Emission) : (s.emit e).cal = s.cal := rfl
@[simp] theorem State.emit_policers (e : Emission) : (s.emit e).policers = s.policers := rfl
@[simp] theorem State.emit_shapers (e : Emission) : (s.emit e).shapers = s.shapers := rfl
@[simp] theorem State.emit_sw (e : Emission) : (s.emit e).sw = s.sw := rfl
@[simp] theorem State.emit_ports (e : Emission) : (s.emit e).ports = s.ports := rfl
@[simp] theorem State.emit_lanes (e : Emission) : (s.emit e).lanes = s.lanes := rfl
@[simp] theorem State.emit_hostPorts (e : Emission) : (s.emit e).hostPorts = s.hostPorts := rfl
@[simp] theorem State.emit_red (e : Emission) : (s.emit e).red = s.red := rfl
@[simp] theorem State.emit_jobs (e : Emission) : (s.emit e).jobs = s.jobs := rfl
@[simp] theorem State.emit_comet (e : Emission) : (s.emit e).comet = s.comet := rfl
@[simp] theorem State.emit_feeds (e : Emission) : (s.emit e).feeds = s.feeds := rfl
@[simp] theorem State.emit_ckpts (e : Emission) : (s.emit e).ckpts = s.ckpts := rfl
@[simp] theorem State.emit_winq (e : Emission) : (s.emit e).winq = s.winq := rfl
@[simp] theorem State.emit_loads (e : Emission) : (s.emit e).loads = s.loads := rfl
@[simp] theorem State.emit_cpbs (e : Emission) : (s.emit e).cpbs = s.cpbs := rfl
@[simp] theorem State.emit_mem (e : Emission) : (s.emit e).mem = s.mem := rfl
@[simp] theorem State.emit_memErr (e : Emission) : (s.emit e).memErr = s.memErr := rfl
@[simp] theorem State.emit_ecc (e : Emission) : (s.emit e).ecc = s.ecc := rfl
@[simp] theorem State.emit_chans (e : Emission) : (s.emit e).chans = s.chans := rfl
@[simp] theorem State.emit_fwl (e : Emission) : (s.emit e).fwl = s.fwl := rfl
@[simp] theorem State.emit_sessions (e : Emission) : (s.emit e).sessions = s.sessions := rfl
@[simp] theorem State.emit_chits (e : Emission) : (s.emit e).chits = s.chits := rfl
@[simp] theorem State.emit_ring (e : Emission) : (s.emit e).ring = s.ring := rfl
@[simp] theorem State.emit_sec (e : Emission) : (s.emit e).sec = s.sec := rfl
@[simp] theorem State.emit_flt (e : Emission) : (s.emit e).flt = s.flt := rfl
@[simp] theorem State.emit_pwr (e : Emission) : (s.emit e).pwr = s.pwr := rfl
@[simp] theorem State.emit_boot (e : Emission) : (s.emit e).boot = s.boot := rfl
@[simp] theorem State.emit_todo (e : Emission) : (s.emit e).todo = s.todo := rfl
@[simp] theorem State.emit_out (e : Emission) :
    (s.emit e).out = if s.txPaused e then s.out else s.out ++ [e] := rfl
@[simp] theorem State.emit_held (e : Emission) :
    (s.emit e).held = if s.txPaused e then s.held ++ [e] else s.held := rfl
@[simp] theorem State.emit_pending (e : Emission) : (s.emit e).pending = s.pending := rfl

/-! ### `State.react` -/

@[simp] theorem State.react_now (r : Reaction) : (s.react r).now = s.now := rfl
@[simp] theorem State.react_free (r : Reaction) : (s.react r).free = s.free := rfl
@[simp] theorem State.react_regs (r : Reaction) : (s.react r).regs = s.regs := rfl
@[simp] theorem State.react_tables (r : Reaction) : (s.react r).tables = s.tables := rfl
@[simp] theorem State.react_orb (r : Reaction) : (s.react r).orb = s.orb := rfl
@[simp] theorem State.react_wall (r : Reaction) : (s.react r).wall = s.wall := rfl
@[simp] theorem State.react_gates (r : Reaction) : (s.react r).gates = s.gates := rfl
@[simp] theorem State.react_cal (r : Reaction) : (s.react r).cal = s.cal := rfl
@[simp] theorem State.react_policers (r : Reaction) : (s.react r).policers = s.policers := rfl
@[simp] theorem State.react_shapers (r : Reaction) : (s.react r).shapers = s.shapers := rfl
@[simp] theorem State.react_sw (r : Reaction) : (s.react r).sw = s.sw := rfl
@[simp] theorem State.react_ports (r : Reaction) : (s.react r).ports = s.ports := rfl
@[simp] theorem State.react_lanes (r : Reaction) : (s.react r).lanes = s.lanes := rfl
@[simp] theorem State.react_hostPorts (r : Reaction) : (s.react r).hostPorts = s.hostPorts := rfl
@[simp] theorem State.react_red (r : Reaction) : (s.react r).red = s.red := rfl
@[simp] theorem State.react_jobs (r : Reaction) : (s.react r).jobs = s.jobs := rfl
@[simp] theorem State.react_comet (r : Reaction) : (s.react r).comet = s.comet := rfl
@[simp] theorem State.react_feeds (r : Reaction) : (s.react r).feeds = s.feeds := rfl
@[simp] theorem State.react_ckpts (r : Reaction) : (s.react r).ckpts = s.ckpts := rfl
@[simp] theorem State.react_winq (r : Reaction) : (s.react r).winq = s.winq := rfl
@[simp] theorem State.react_loads (r : Reaction) : (s.react r).loads = s.loads := rfl
@[simp] theorem State.react_cpbs (r : Reaction) : (s.react r).cpbs = s.cpbs := rfl
@[simp] theorem State.react_mem (r : Reaction) : (s.react r).mem = s.mem := rfl
@[simp] theorem State.react_memErr (r : Reaction) : (s.react r).memErr = s.memErr := rfl
@[simp] theorem State.react_ecc (r : Reaction) : (s.react r).ecc = s.ecc := rfl
@[simp] theorem State.react_chans (r : Reaction) : (s.react r).chans = s.chans := rfl
@[simp] theorem State.react_fwl (r : Reaction) : (s.react r).fwl = s.fwl := rfl
@[simp] theorem State.react_sessions (r : Reaction) : (s.react r).sessions = s.sessions := rfl
@[simp] theorem State.react_chits (r : Reaction) : (s.react r).chits = s.chits := rfl
@[simp] theorem State.react_ring (r : Reaction) : (s.react r).ring = s.ring := rfl
@[simp] theorem State.react_sec (r : Reaction) : (s.react r).sec = s.sec := rfl
@[simp] theorem State.react_flt (r : Reaction) : (s.react r).flt = s.flt := rfl
@[simp] theorem State.react_pwr (r : Reaction) : (s.react r).pwr = s.pwr := rfl
@[simp] theorem State.react_boot (r : Reaction) : (s.react r).boot = s.boot := rfl
@[simp] theorem State.react_todo (r : Reaction) :
    (s.react r).todo = s.todo ++ [r] := rfl
@[simp] theorem State.react_out (r : Reaction) : (s.react r).out = s.out := rfl
@[simp] theorem State.react_held (r : Reaction) : (s.react r).held = s.held := rfl
@[simp] theorem State.react_pending (r : Reaction) : (s.react r).pending = s.pending := rfl

/-! ### `State.modPort` -/

@[simp] theorem State.modPort_now (p : Nat) (f : FabPort → FabPort) : (s.modPort p f).now = s.now := rfl
@[simp] theorem State.modPort_free (p : Nat) (f : FabPort → FabPort) : (s.modPort p f).free = s.free := rfl
@[simp] theorem State.modPort_regs (p : Nat) (f : FabPort → FabPort) : (s.modPort p f).regs = s.regs := rfl
@[simp] theorem State.modPort_tables (p : Nat) (f : FabPort → FabPort) : (s.modPort p f).tables = s.tables := rfl
@[simp] theorem State.modPort_orb (p : Nat) (f : FabPort → FabPort) : (s.modPort p f).orb = s.orb := rfl
@[simp] theorem State.modPort_wall (p : Nat) (f : FabPort → FabPort) : (s.modPort p f).wall = s.wall := rfl
@[simp] theorem State.modPort_gates (p : Nat) (f : FabPort → FabPort) : (s.modPort p f).gates = s.gates := rfl
@[simp] theorem State.modPort_cal (p : Nat) (f : FabPort → FabPort) : (s.modPort p f).cal = s.cal := rfl
@[simp] theorem State.modPort_policers (p : Nat) (f : FabPort → FabPort) : (s.modPort p f).policers = s.policers := rfl
@[simp] theorem State.modPort_shapers (p : Nat) (f : FabPort → FabPort) : (s.modPort p f).shapers = s.shapers := rfl
@[simp] theorem State.modPort_sw (p : Nat) (f : FabPort → FabPort) : (s.modPort p f).sw = s.sw := rfl
@[simp] theorem State.modPort_ports (p : Nat) (f : FabPort → FabPort) :
    (s.modPort p f).ports = s.ports.upd {} p f := rfl
@[simp] theorem State.modPort_lanes (p : Nat) (f : FabPort → FabPort) : (s.modPort p f).lanes = s.lanes := rfl
@[simp] theorem State.modPort_hostPorts (p : Nat) (f : FabPort → FabPort) : (s.modPort p f).hostPorts = s.hostPorts := rfl
@[simp] theorem State.modPort_red (p : Nat) (f : FabPort → FabPort) : (s.modPort p f).red = s.red := rfl
@[simp] theorem State.modPort_jobs (p : Nat) (f : FabPort → FabPort) : (s.modPort p f).jobs = s.jobs := rfl
@[simp] theorem State.modPort_comet (p : Nat) (f : FabPort → FabPort) : (s.modPort p f).comet = s.comet := rfl
@[simp] theorem State.modPort_feeds (p : Nat) (f : FabPort → FabPort) : (s.modPort p f).feeds = s.feeds := rfl
@[simp] theorem State.modPort_ckpts (p : Nat) (f : FabPort → FabPort) : (s.modPort p f).ckpts = s.ckpts := rfl
@[simp] theorem State.modPort_winq (p : Nat) (f : FabPort → FabPort) : (s.modPort p f).winq = s.winq := rfl
@[simp] theorem State.modPort_loads (p : Nat) (f : FabPort → FabPort) : (s.modPort p f).loads = s.loads := rfl
@[simp] theorem State.modPort_cpbs (p : Nat) (f : FabPort → FabPort) : (s.modPort p f).cpbs = s.cpbs := rfl
@[simp] theorem State.modPort_mem (p : Nat) (f : FabPort → FabPort) : (s.modPort p f).mem = s.mem := rfl
@[simp] theorem State.modPort_memErr (p : Nat) (f : FabPort → FabPort) : (s.modPort p f).memErr = s.memErr := rfl
@[simp] theorem State.modPort_ecc (p : Nat) (f : FabPort → FabPort) : (s.modPort p f).ecc = s.ecc := rfl
@[simp] theorem State.modPort_chans (p : Nat) (f : FabPort → FabPort) : (s.modPort p f).chans = s.chans := rfl
@[simp] theorem State.modPort_fwl (p : Nat) (f : FabPort → FabPort) : (s.modPort p f).fwl = s.fwl := rfl
@[simp] theorem State.modPort_sessions (p : Nat) (f : FabPort → FabPort) : (s.modPort p f).sessions = s.sessions := rfl
@[simp] theorem State.modPort_chits (p : Nat) (f : FabPort → FabPort) : (s.modPort p f).chits = s.chits := rfl
@[simp] theorem State.modPort_ring (p : Nat) (f : FabPort → FabPort) : (s.modPort p f).ring = s.ring := rfl
@[simp] theorem State.modPort_sec (p : Nat) (f : FabPort → FabPort) : (s.modPort p f).sec = s.sec := rfl
@[simp] theorem State.modPort_flt (p : Nat) (f : FabPort → FabPort) : (s.modPort p f).flt = s.flt := rfl
@[simp] theorem State.modPort_pwr (p : Nat) (f : FabPort → FabPort) : (s.modPort p f).pwr = s.pwr := rfl
@[simp] theorem State.modPort_boot (p : Nat) (f : FabPort → FabPort) : (s.modPort p f).boot = s.boot := rfl
@[simp] theorem State.modPort_todo (p : Nat) (f : FabPort → FabPort) : (s.modPort p f).todo = s.todo := rfl
@[simp] theorem State.modPort_out (p : Nat) (f : FabPort → FabPort) : (s.modPort p f).out = s.out := rfl
@[simp] theorem State.modPort_held (p : Nat) (f : FabPort → FabPort) : (s.modPort p f).held = s.held := rfl
@[simp] theorem State.modPort_pending (p : Nat) (f : FabPort → FabPort) : (s.modPort p f).pending = s.pending := rfl

/-! ### `State.modLane` -/

@[simp] theorem State.modLane_now (l : Nat) (f : Lane → Lane) : (s.modLane l f).now = s.now := rfl
@[simp] theorem State.modLane_free (l : Nat) (f : Lane → Lane) : (s.modLane l f).free = s.free := rfl
@[simp] theorem State.modLane_regs (l : Nat) (f : Lane → Lane) : (s.modLane l f).regs = s.regs := rfl
@[simp] theorem State.modLane_tables (l : Nat) (f : Lane → Lane) : (s.modLane l f).tables = s.tables := rfl
@[simp] theorem State.modLane_orb (l : Nat) (f : Lane → Lane) : (s.modLane l f).orb = s.orb := rfl
@[simp] theorem State.modLane_wall (l : Nat) (f : Lane → Lane) : (s.modLane l f).wall = s.wall := rfl
@[simp] theorem State.modLane_gates (l : Nat) (f : Lane → Lane) : (s.modLane l f).gates = s.gates := rfl
@[simp] theorem State.modLane_cal (l : Nat) (f : Lane → Lane) : (s.modLane l f).cal = s.cal := rfl
@[simp] theorem State.modLane_policers (l : Nat) (f : Lane → Lane) : (s.modLane l f).policers = s.policers := rfl
@[simp] theorem State.modLane_shapers (l : Nat) (f : Lane → Lane) : (s.modLane l f).shapers = s.shapers := rfl
@[simp] theorem State.modLane_sw (l : Nat) (f : Lane → Lane) : (s.modLane l f).sw = s.sw := rfl
@[simp] theorem State.modLane_ports (l : Nat) (f : Lane → Lane) : (s.modLane l f).ports = s.ports := rfl
@[simp] theorem State.modLane_lanes (l : Nat) (f : Lane → Lane) :
    (s.modLane l f).lanes = s.lanes.upd {} l f := rfl
@[simp] theorem State.modLane_hostPorts (l : Nat) (f : Lane → Lane) : (s.modLane l f).hostPorts = s.hostPorts := rfl
@[simp] theorem State.modLane_red (l : Nat) (f : Lane → Lane) : (s.modLane l f).red = s.red := rfl
@[simp] theorem State.modLane_jobs (l : Nat) (f : Lane → Lane) : (s.modLane l f).jobs = s.jobs := rfl
@[simp] theorem State.modLane_comet (l : Nat) (f : Lane → Lane) : (s.modLane l f).comet = s.comet := rfl
@[simp] theorem State.modLane_feeds (l : Nat) (f : Lane → Lane) : (s.modLane l f).feeds = s.feeds := rfl
@[simp] theorem State.modLane_ckpts (l : Nat) (f : Lane → Lane) : (s.modLane l f).ckpts = s.ckpts := rfl
@[simp] theorem State.modLane_winq (l : Nat) (f : Lane → Lane) : (s.modLane l f).winq = s.winq := rfl
@[simp] theorem State.modLane_loads (l : Nat) (f : Lane → Lane) : (s.modLane l f).loads = s.loads := rfl
@[simp] theorem State.modLane_cpbs (l : Nat) (f : Lane → Lane) : (s.modLane l f).cpbs = s.cpbs := rfl
@[simp] theorem State.modLane_mem (l : Nat) (f : Lane → Lane) : (s.modLane l f).mem = s.mem := rfl
@[simp] theorem State.modLane_memErr (l : Nat) (f : Lane → Lane) : (s.modLane l f).memErr = s.memErr := rfl
@[simp] theorem State.modLane_ecc (l : Nat) (f : Lane → Lane) : (s.modLane l f).ecc = s.ecc := rfl
@[simp] theorem State.modLane_chans (l : Nat) (f : Lane → Lane) : (s.modLane l f).chans = s.chans := rfl
@[simp] theorem State.modLane_fwl (l : Nat) (f : Lane → Lane) : (s.modLane l f).fwl = s.fwl := rfl
@[simp] theorem State.modLane_sessions (l : Nat) (f : Lane → Lane) : (s.modLane l f).sessions = s.sessions := rfl
@[simp] theorem State.modLane_chits (l : Nat) (f : Lane → Lane) : (s.modLane l f).chits = s.chits := rfl
@[simp] theorem State.modLane_ring (l : Nat) (f : Lane → Lane) : (s.modLane l f).ring = s.ring := rfl
@[simp] theorem State.modLane_sec (l : Nat) (f : Lane → Lane) : (s.modLane l f).sec = s.sec := rfl
@[simp] theorem State.modLane_flt (l : Nat) (f : Lane → Lane) : (s.modLane l f).flt = s.flt := rfl
@[simp] theorem State.modLane_pwr (l : Nat) (f : Lane → Lane) : (s.modLane l f).pwr = s.pwr := rfl
@[simp] theorem State.modLane_boot (l : Nat) (f : Lane → Lane) : (s.modLane l f).boot = s.boot := rfl
@[simp] theorem State.modLane_todo (l : Nat) (f : Lane → Lane) : (s.modLane l f).todo = s.todo := rfl
@[simp] theorem State.modLane_out (l : Nat) (f : Lane → Lane) : (s.modLane l f).out = s.out := rfl
@[simp] theorem State.modLane_held (l : Nat) (f : Lane → Lane) : (s.modLane l f).held = s.held := rfl
@[simp] theorem State.modLane_pending (l : Nat) (f : Lane → Lane) : (s.modLane l f).pending = s.pending := rfl

/-! ### `State.modHost` -/

@[simp] theorem State.modHost_now (p : Nat) (f : HostPortSt → HostPortSt) : (s.modHost p f).now = s.now := rfl
@[simp] theorem State.modHost_free (p : Nat) (f : HostPortSt → HostPortSt) : (s.modHost p f).free = s.free := rfl
@[simp] theorem State.modHost_regs (p : Nat) (f : HostPortSt → HostPortSt) : (s.modHost p f).regs = s.regs := rfl
@[simp] theorem State.modHost_tables (p : Nat) (f : HostPortSt → HostPortSt) : (s.modHost p f).tables = s.tables := rfl
@[simp] theorem State.modHost_orb (p : Nat) (f : HostPortSt → HostPortSt) : (s.modHost p f).orb = s.orb := rfl
@[simp] theorem State.modHost_wall (p : Nat) (f : HostPortSt → HostPortSt) : (s.modHost p f).wall = s.wall := rfl
@[simp] theorem State.modHost_gates (p : Nat) (f : HostPortSt → HostPortSt) : (s.modHost p f).gates = s.gates := rfl
@[simp] theorem State.modHost_cal (p : Nat) (f : HostPortSt → HostPortSt) : (s.modHost p f).cal = s.cal := rfl
@[simp] theorem State.modHost_policers (p : Nat) (f : HostPortSt → HostPortSt) : (s.modHost p f).policers = s.policers := rfl
@[simp] theorem State.modHost_shapers (p : Nat) (f : HostPortSt → HostPortSt) : (s.modHost p f).shapers = s.shapers := rfl
@[simp] theorem State.modHost_sw (p : Nat) (f : HostPortSt → HostPortSt) : (s.modHost p f).sw = s.sw := rfl
@[simp] theorem State.modHost_ports (p : Nat) (f : HostPortSt → HostPortSt) : (s.modHost p f).ports = s.ports := rfl
@[simp] theorem State.modHost_lanes (p : Nat) (f : HostPortSt → HostPortSt) : (s.modHost p f).lanes = s.lanes := rfl
@[simp] theorem State.modHost_hostPorts (p : Nat) (f : HostPortSt → HostPortSt) :
    (s.modHost p f).hostPorts = s.hostPorts.upd {} p f := rfl
@[simp] theorem State.modHost_red (p : Nat) (f : HostPortSt → HostPortSt) : (s.modHost p f).red = s.red := rfl
@[simp] theorem State.modHost_jobs (p : Nat) (f : HostPortSt → HostPortSt) : (s.modHost p f).jobs = s.jobs := rfl
@[simp] theorem State.modHost_comet (p : Nat) (f : HostPortSt → HostPortSt) : (s.modHost p f).comet = s.comet := rfl
@[simp] theorem State.modHost_feeds (p : Nat) (f : HostPortSt → HostPortSt) : (s.modHost p f).feeds = s.feeds := rfl
@[simp] theorem State.modHost_ckpts (p : Nat) (f : HostPortSt → HostPortSt) : (s.modHost p f).ckpts = s.ckpts := rfl
@[simp] theorem State.modHost_winq (p : Nat) (f : HostPortSt → HostPortSt) : (s.modHost p f).winq = s.winq := rfl
@[simp] theorem State.modHost_loads (p : Nat) (f : HostPortSt → HostPortSt) : (s.modHost p f).loads = s.loads := rfl
@[simp] theorem State.modHost_cpbs (p : Nat) (f : HostPortSt → HostPortSt) : (s.modHost p f).cpbs = s.cpbs := rfl
@[simp] theorem State.modHost_mem (p : Nat) (f : HostPortSt → HostPortSt) : (s.modHost p f).mem = s.mem := rfl
@[simp] theorem State.modHost_memErr (p : Nat) (f : HostPortSt → HostPortSt) : (s.modHost p f).memErr = s.memErr := rfl
@[simp] theorem State.modHost_ecc (p : Nat) (f : HostPortSt → HostPortSt) : (s.modHost p f).ecc = s.ecc := rfl
@[simp] theorem State.modHost_chans (p : Nat) (f : HostPortSt → HostPortSt) : (s.modHost p f).chans = s.chans := rfl
@[simp] theorem State.modHost_fwl (p : Nat) (f : HostPortSt → HostPortSt) : (s.modHost p f).fwl = s.fwl := rfl
@[simp] theorem State.modHost_sessions (p : Nat) (f : HostPortSt → HostPortSt) : (s.modHost p f).sessions = s.sessions := rfl
@[simp] theorem State.modHost_chits (p : Nat) (f : HostPortSt → HostPortSt) : (s.modHost p f).chits = s.chits := rfl
@[simp] theorem State.modHost_ring (p : Nat) (f : HostPortSt → HostPortSt) : (s.modHost p f).ring = s.ring := rfl
@[simp] theorem State.modHost_sec (p : Nat) (f : HostPortSt → HostPortSt) : (s.modHost p f).sec = s.sec := rfl
@[simp] theorem State.modHost_flt (p : Nat) (f : HostPortSt → HostPortSt) : (s.modHost p f).flt = s.flt := rfl
@[simp] theorem State.modHost_pwr (p : Nat) (f : HostPortSt → HostPortSt) : (s.modHost p f).pwr = s.pwr := rfl
@[simp] theorem State.modHost_boot (p : Nat) (f : HostPortSt → HostPortSt) : (s.modHost p f).boot = s.boot := rfl
@[simp] theorem State.modHost_todo (p : Nat) (f : HostPortSt → HostPortSt) : (s.modHost p f).todo = s.todo := rfl
@[simp] theorem State.modHost_out (p : Nat) (f : HostPortSt → HostPortSt) : (s.modHost p f).out = s.out := rfl
@[simp] theorem State.modHost_held (p : Nat) (f : HostPortSt → HostPortSt) : (s.modHost p f).held = s.held := rfl
@[simp] theorem State.modHost_pending (p : Nat) (f : HostPortSt → HostPortSt) : (s.modHost p f).pending = s.pending := rfl

/-! ### `State.modJob` -/

@[simp] theorem State.modJob_now (j : Nat) (f : Job → Job) : (s.modJob j f).now = s.now := rfl
@[simp] theorem State.modJob_free (j : Nat) (f : Job → Job) : (s.modJob j f).free = s.free := rfl
@[simp] theorem State.modJob_regs (j : Nat) (f : Job → Job) : (s.modJob j f).regs = s.regs := rfl
@[simp] theorem State.modJob_tables (j : Nat) (f : Job → Job) : (s.modJob j f).tables = s.tables := rfl
@[simp] theorem State.modJob_orb (j : Nat) (f : Job → Job) : (s.modJob j f).orb = s.orb := rfl
@[simp] theorem State.modJob_wall (j : Nat) (f : Job → Job) : (s.modJob j f).wall = s.wall := rfl
@[simp] theorem State.modJob_gates (j : Nat) (f : Job → Job) : (s.modJob j f).gates = s.gates := rfl
@[simp] theorem State.modJob_cal (j : Nat) (f : Job → Job) : (s.modJob j f).cal = s.cal := rfl
@[simp] theorem State.modJob_policers (j : Nat) (f : Job → Job) : (s.modJob j f).policers = s.policers := rfl
@[simp] theorem State.modJob_shapers (j : Nat) (f : Job → Job) : (s.modJob j f).shapers = s.shapers := rfl
@[simp] theorem State.modJob_sw (j : Nat) (f : Job → Job) : (s.modJob j f).sw = s.sw := rfl
@[simp] theorem State.modJob_ports (j : Nat) (f : Job → Job) : (s.modJob j f).ports = s.ports := rfl
@[simp] theorem State.modJob_lanes (j : Nat) (f : Job → Job) : (s.modJob j f).lanes = s.lanes := rfl
@[simp] theorem State.modJob_hostPorts (j : Nat) (f : Job → Job) : (s.modJob j f).hostPorts = s.hostPorts := rfl
@[simp] theorem State.modJob_red (j : Nat) (f : Job → Job) : (s.modJob j f).red = s.red := rfl
@[simp] theorem State.modJob_jobs (j : Nat) (f : Job → Job) :
    (s.modJob j f).jobs = s.jobs.upd {} j f := rfl
@[simp] theorem State.modJob_comet (j : Nat) (f : Job → Job) : (s.modJob j f).comet = s.comet := rfl
@[simp] theorem State.modJob_feeds (j : Nat) (f : Job → Job) : (s.modJob j f).feeds = s.feeds := rfl
@[simp] theorem State.modJob_ckpts (j : Nat) (f : Job → Job) : (s.modJob j f).ckpts = s.ckpts := rfl
@[simp] theorem State.modJob_winq (j : Nat) (f : Job → Job) : (s.modJob j f).winq = s.winq := rfl
@[simp] theorem State.modJob_loads (j : Nat) (f : Job → Job) : (s.modJob j f).loads = s.loads := rfl
@[simp] theorem State.modJob_cpbs (j : Nat) (f : Job → Job) : (s.modJob j f).cpbs = s.cpbs := rfl
@[simp] theorem State.modJob_mem (j : Nat) (f : Job → Job) : (s.modJob j f).mem = s.mem := rfl
@[simp] theorem State.modJob_memErr (j : Nat) (f : Job → Job) : (s.modJob j f).memErr = s.memErr := rfl
@[simp] theorem State.modJob_ecc (j : Nat) (f : Job → Job) : (s.modJob j f).ecc = s.ecc := rfl
@[simp] theorem State.modJob_chans (j : Nat) (f : Job → Job) : (s.modJob j f).chans = s.chans := rfl
@[simp] theorem State.modJob_fwl (j : Nat) (f : Job → Job) : (s.modJob j f).fwl = s.fwl := rfl
@[simp] theorem State.modJob_sessions (j : Nat) (f : Job → Job) : (s.modJob j f).sessions = s.sessions := rfl
@[simp] theorem State.modJob_chits (j : Nat) (f : Job → Job) : (s.modJob j f).chits = s.chits := rfl
@[simp] theorem State.modJob_ring (j : Nat) (f : Job → Job) : (s.modJob j f).ring = s.ring := rfl
@[simp] theorem State.modJob_sec (j : Nat) (f : Job → Job) : (s.modJob j f).sec = s.sec := rfl
@[simp] theorem State.modJob_flt (j : Nat) (f : Job → Job) : (s.modJob j f).flt = s.flt := rfl
@[simp] theorem State.modJob_pwr (j : Nat) (f : Job → Job) : (s.modJob j f).pwr = s.pwr := rfl
@[simp] theorem State.modJob_boot (j : Nat) (f : Job → Job) : (s.modJob j f).boot = s.boot := rfl
@[simp] theorem State.modJob_todo (j : Nat) (f : Job → Job) : (s.modJob j f).todo = s.todo := rfl
@[simp] theorem State.modJob_out (j : Nat) (f : Job → Job) : (s.modJob j f).out = s.out := rfl
@[simp] theorem State.modJob_held (j : Nat) (f : Job → Job) : (s.modJob j f).held = s.held := rfl
@[simp] theorem State.modJob_pending (j : Nat) (f : Job → Job) : (s.modJob j f).pending = s.pending := rfl

/-! ### `State.modFeed` -/

@[simp] theorem State.modFeed_now (i : Nat) (f : Feed → Feed) : (s.modFeed i f).now = s.now := rfl
@[simp] theorem State.modFeed_free (i : Nat) (f : Feed → Feed) : (s.modFeed i f).free = s.free := rfl
@[simp] theorem State.modFeed_regs (i : Nat) (f : Feed → Feed) : (s.modFeed i f).regs = s.regs := rfl
@[simp] theorem State.modFeed_tables (i : Nat) (f : Feed → Feed) : (s.modFeed i f).tables = s.tables := rfl
@[simp] theorem State.modFeed_orb (i : Nat) (f : Feed → Feed) : (s.modFeed i f).orb = s.orb := rfl
@[simp] theorem State.modFeed_wall (i : Nat) (f : Feed → Feed) : (s.modFeed i f).wall = s.wall := rfl
@[simp] theorem State.modFeed_gates (i : Nat) (f : Feed → Feed) : (s.modFeed i f).gates = s.gates := rfl
@[simp] theorem State.modFeed_cal (i : Nat) (f : Feed → Feed) : (s.modFeed i f).cal = s.cal := rfl
@[simp] theorem State.modFeed_policers (i : Nat) (f : Feed → Feed) : (s.modFeed i f).policers = s.policers := rfl
@[simp] theorem State.modFeed_shapers (i : Nat) (f : Feed → Feed) : (s.modFeed i f).shapers = s.shapers := rfl
@[simp] theorem State.modFeed_sw (i : Nat) (f : Feed → Feed) : (s.modFeed i f).sw = s.sw := rfl
@[simp] theorem State.modFeed_ports (i : Nat) (f : Feed → Feed) : (s.modFeed i f).ports = s.ports := rfl
@[simp] theorem State.modFeed_lanes (i : Nat) (f : Feed → Feed) : (s.modFeed i f).lanes = s.lanes := rfl
@[simp] theorem State.modFeed_hostPorts (i : Nat) (f : Feed → Feed) : (s.modFeed i f).hostPorts = s.hostPorts := rfl
@[simp] theorem State.modFeed_red (i : Nat) (f : Feed → Feed) : (s.modFeed i f).red = s.red := rfl
@[simp] theorem State.modFeed_jobs (i : Nat) (f : Feed → Feed) : (s.modFeed i f).jobs = s.jobs := rfl
@[simp] theorem State.modFeed_comet (i : Nat) (f : Feed → Feed) : (s.modFeed i f).comet = s.comet := rfl
@[simp] theorem State.modFeed_feeds (i : Nat) (f : Feed → Feed) :
    (s.modFeed i f).feeds = s.feeds.upd {} i f := rfl
@[simp] theorem State.modFeed_ckpts (i : Nat) (f : Feed → Feed) : (s.modFeed i f).ckpts = s.ckpts := rfl
@[simp] theorem State.modFeed_winq (i : Nat) (f : Feed → Feed) : (s.modFeed i f).winq = s.winq := rfl
@[simp] theorem State.modFeed_loads (i : Nat) (f : Feed → Feed) : (s.modFeed i f).loads = s.loads := rfl
@[simp] theorem State.modFeed_cpbs (i : Nat) (f : Feed → Feed) : (s.modFeed i f).cpbs = s.cpbs := rfl
@[simp] theorem State.modFeed_mem (i : Nat) (f : Feed → Feed) : (s.modFeed i f).mem = s.mem := rfl
@[simp] theorem State.modFeed_memErr (i : Nat) (f : Feed → Feed) : (s.modFeed i f).memErr = s.memErr := rfl
@[simp] theorem State.modFeed_ecc (i : Nat) (f : Feed → Feed) : (s.modFeed i f).ecc = s.ecc := rfl
@[simp] theorem State.modFeed_chans (i : Nat) (f : Feed → Feed) : (s.modFeed i f).chans = s.chans := rfl
@[simp] theorem State.modFeed_fwl (i : Nat) (f : Feed → Feed) : (s.modFeed i f).fwl = s.fwl := rfl
@[simp] theorem State.modFeed_sessions (i : Nat) (f : Feed → Feed) : (s.modFeed i f).sessions = s.sessions := rfl
@[simp] theorem State.modFeed_chits (i : Nat) (f : Feed → Feed) : (s.modFeed i f).chits = s.chits := rfl
@[simp] theorem State.modFeed_ring (i : Nat) (f : Feed → Feed) : (s.modFeed i f).ring = s.ring := rfl
@[simp] theorem State.modFeed_sec (i : Nat) (f : Feed → Feed) : (s.modFeed i f).sec = s.sec := rfl
@[simp] theorem State.modFeed_flt (i : Nat) (f : Feed → Feed) : (s.modFeed i f).flt = s.flt := rfl
@[simp] theorem State.modFeed_pwr (i : Nat) (f : Feed → Feed) : (s.modFeed i f).pwr = s.pwr := rfl
@[simp] theorem State.modFeed_boot (i : Nat) (f : Feed → Feed) : (s.modFeed i f).boot = s.boot := rfl
@[simp] theorem State.modFeed_todo (i : Nat) (f : Feed → Feed) : (s.modFeed i f).todo = s.todo := rfl
@[simp] theorem State.modFeed_out (i : Nat) (f : Feed → Feed) : (s.modFeed i f).out = s.out := rfl
@[simp] theorem State.modFeed_held (i : Nat) (f : Feed → Feed) : (s.modFeed i f).held = s.held := rfl
@[simp] theorem State.modFeed_pending (i : Nat) (f : Feed → Feed) : (s.modFeed i f).pending = s.pending := rfl

/-! ### `State.modCpb` -/

@[simp] theorem State.modCpb_now (b : Nat) (f : CpbSt → CpbSt) : (s.modCpb b f).now = s.now := rfl
@[simp] theorem State.modCpb_free (b : Nat) (f : CpbSt → CpbSt) : (s.modCpb b f).free = s.free := rfl
@[simp] theorem State.modCpb_regs (b : Nat) (f : CpbSt → CpbSt) : (s.modCpb b f).regs = s.regs := rfl
@[simp] theorem State.modCpb_tables (b : Nat) (f : CpbSt → CpbSt) : (s.modCpb b f).tables = s.tables := rfl
@[simp] theorem State.modCpb_orb (b : Nat) (f : CpbSt → CpbSt) : (s.modCpb b f).orb = s.orb := rfl
@[simp] theorem State.modCpb_wall (b : Nat) (f : CpbSt → CpbSt) : (s.modCpb b f).wall = s.wall := rfl
@[simp] theorem State.modCpb_gates (b : Nat) (f : CpbSt → CpbSt) : (s.modCpb b f).gates = s.gates := rfl
@[simp] theorem State.modCpb_cal (b : Nat) (f : CpbSt → CpbSt) : (s.modCpb b f).cal = s.cal := rfl
@[simp] theorem State.modCpb_policers (b : Nat) (f : CpbSt → CpbSt) : (s.modCpb b f).policers = s.policers := rfl
@[simp] theorem State.modCpb_shapers (b : Nat) (f : CpbSt → CpbSt) : (s.modCpb b f).shapers = s.shapers := rfl
@[simp] theorem State.modCpb_sw (b : Nat) (f : CpbSt → CpbSt) : (s.modCpb b f).sw = s.sw := rfl
@[simp] theorem State.modCpb_ports (b : Nat) (f : CpbSt → CpbSt) : (s.modCpb b f).ports = s.ports := rfl
@[simp] theorem State.modCpb_lanes (b : Nat) (f : CpbSt → CpbSt) : (s.modCpb b f).lanes = s.lanes := rfl
@[simp] theorem State.modCpb_hostPorts (b : Nat) (f : CpbSt → CpbSt) : (s.modCpb b f).hostPorts = s.hostPorts := rfl
@[simp] theorem State.modCpb_red (b : Nat) (f : CpbSt → CpbSt) : (s.modCpb b f).red = s.red := rfl
@[simp] theorem State.modCpb_jobs (b : Nat) (f : CpbSt → CpbSt) : (s.modCpb b f).jobs = s.jobs := rfl
@[simp] theorem State.modCpb_comet (b : Nat) (f : CpbSt → CpbSt) : (s.modCpb b f).comet = s.comet := rfl
@[simp] theorem State.modCpb_feeds (b : Nat) (f : CpbSt → CpbSt) : (s.modCpb b f).feeds = s.feeds := rfl
@[simp] theorem State.modCpb_ckpts (b : Nat) (f : CpbSt → CpbSt) : (s.modCpb b f).ckpts = s.ckpts := rfl
@[simp] theorem State.modCpb_winq (b : Nat) (f : CpbSt → CpbSt) : (s.modCpb b f).winq = s.winq := rfl
@[simp] theorem State.modCpb_loads (b : Nat) (f : CpbSt → CpbSt) : (s.modCpb b f).loads = s.loads := rfl
@[simp] theorem State.modCpb_cpbs (b : Nat) (f : CpbSt → CpbSt) :
    (s.modCpb b f).cpbs = s.cpbs.upd {} b f := rfl
@[simp] theorem State.modCpb_mem (b : Nat) (f : CpbSt → CpbSt) : (s.modCpb b f).mem = s.mem := rfl
@[simp] theorem State.modCpb_memErr (b : Nat) (f : CpbSt → CpbSt) : (s.modCpb b f).memErr = s.memErr := rfl
@[simp] theorem State.modCpb_ecc (b : Nat) (f : CpbSt → CpbSt) : (s.modCpb b f).ecc = s.ecc := rfl
@[simp] theorem State.modCpb_chans (b : Nat) (f : CpbSt → CpbSt) : (s.modCpb b f).chans = s.chans := rfl
@[simp] theorem State.modCpb_fwl (b : Nat) (f : CpbSt → CpbSt) : (s.modCpb b f).fwl = s.fwl := rfl
@[simp] theorem State.modCpb_sessions (b : Nat) (f : CpbSt → CpbSt) : (s.modCpb b f).sessions = s.sessions := rfl
@[simp] theorem State.modCpb_chits (b : Nat) (f : CpbSt → CpbSt) : (s.modCpb b f).chits = s.chits := rfl
@[simp] theorem State.modCpb_ring (b : Nat) (f : CpbSt → CpbSt) : (s.modCpb b f).ring = s.ring := rfl
@[simp] theorem State.modCpb_sec (b : Nat) (f : CpbSt → CpbSt) : (s.modCpb b f).sec = s.sec := rfl
@[simp] theorem State.modCpb_flt (b : Nat) (f : CpbSt → CpbSt) : (s.modCpb b f).flt = s.flt := rfl
@[simp] theorem State.modCpb_pwr (b : Nat) (f : CpbSt → CpbSt) : (s.modCpb b f).pwr = s.pwr := rfl
@[simp] theorem State.modCpb_boot (b : Nat) (f : CpbSt → CpbSt) : (s.modCpb b f).boot = s.boot := rfl
@[simp] theorem State.modCpb_todo (b : Nat) (f : CpbSt → CpbSt) : (s.modCpb b f).todo = s.todo := rfl
@[simp] theorem State.modCpb_out (b : Nat) (f : CpbSt → CpbSt) : (s.modCpb b f).out = s.out := rfl
@[simp] theorem State.modCpb_held (b : Nat) (f : CpbSt → CpbSt) : (s.modCpb b f).held = s.held := rfl
@[simp] theorem State.modCpb_pending (b : Nat) (f : CpbSt → CpbSt) : (s.modCpb b f).pending = s.pending := rfl

/-! ### `State.modChan` -/

@[simp] theorem State.modChan_now (c : Nat) (f : Chan → Chan) : (s.modChan c f).now = s.now := rfl
@[simp] theorem State.modChan_free (c : Nat) (f : Chan → Chan) : (s.modChan c f).free = s.free := rfl
@[simp] theorem State.modChan_regs (c : Nat) (f : Chan → Chan) : (s.modChan c f).regs = s.regs := rfl
@[simp] theorem State.modChan_tables (c : Nat) (f : Chan → Chan) : (s.modChan c f).tables = s.tables := rfl
@[simp] theorem State.modChan_orb (c : Nat) (f : Chan → Chan) : (s.modChan c f).orb = s.orb := rfl
@[simp] theorem State.modChan_wall (c : Nat) (f : Chan → Chan) : (s.modChan c f).wall = s.wall := rfl
@[simp] theorem State.modChan_gates (c : Nat) (f : Chan → Chan) : (s.modChan c f).gates = s.gates := rfl
@[simp] theorem State.modChan_cal (c : Nat) (f : Chan → Chan) : (s.modChan c f).cal = s.cal := rfl
@[simp] theorem State.modChan_policers (c : Nat) (f : Chan → Chan) : (s.modChan c f).policers = s.policers := rfl
@[simp] theorem State.modChan_shapers (c : Nat) (f : Chan → Chan) : (s.modChan c f).shapers = s.shapers := rfl
@[simp] theorem State.modChan_sw (c : Nat) (f : Chan → Chan) : (s.modChan c f).sw = s.sw := rfl
@[simp] theorem State.modChan_ports (c : Nat) (f : Chan → Chan) : (s.modChan c f).ports = s.ports := rfl
@[simp] theorem State.modChan_lanes (c : Nat) (f : Chan → Chan) : (s.modChan c f).lanes = s.lanes := rfl
@[simp] theorem State.modChan_hostPorts (c : Nat) (f : Chan → Chan) : (s.modChan c f).hostPorts = s.hostPorts := rfl
@[simp] theorem State.modChan_red (c : Nat) (f : Chan → Chan) : (s.modChan c f).red = s.red := rfl
@[simp] theorem State.modChan_jobs (c : Nat) (f : Chan → Chan) : (s.modChan c f).jobs = s.jobs := rfl
@[simp] theorem State.modChan_comet (c : Nat) (f : Chan → Chan) : (s.modChan c f).comet = s.comet := rfl
@[simp] theorem State.modChan_feeds (c : Nat) (f : Chan → Chan) : (s.modChan c f).feeds = s.feeds := rfl
@[simp] theorem State.modChan_ckpts (c : Nat) (f : Chan → Chan) : (s.modChan c f).ckpts = s.ckpts := rfl
@[simp] theorem State.modChan_winq (c : Nat) (f : Chan → Chan) : (s.modChan c f).winq = s.winq := rfl
@[simp] theorem State.modChan_loads (c : Nat) (f : Chan → Chan) : (s.modChan c f).loads = s.loads := rfl
@[simp] theorem State.modChan_cpbs (c : Nat) (f : Chan → Chan) : (s.modChan c f).cpbs = s.cpbs := rfl
@[simp] theorem State.modChan_mem (c : Nat) (f : Chan → Chan) : (s.modChan c f).mem = s.mem := rfl
@[simp] theorem State.modChan_memErr (c : Nat) (f : Chan → Chan) : (s.modChan c f).memErr = s.memErr := rfl
@[simp] theorem State.modChan_ecc (c : Nat) (f : Chan → Chan) : (s.modChan c f).ecc = s.ecc := rfl
@[simp] theorem State.modChan_chans (c : Nat) (f : Chan → Chan) :
    (s.modChan c f).chans = s.chans.upd {} c f := rfl
@[simp] theorem State.modChan_fwl (c : Nat) (f : Chan → Chan) : (s.modChan c f).fwl = s.fwl := rfl
@[simp] theorem State.modChan_sessions (c : Nat) (f : Chan → Chan) : (s.modChan c f).sessions = s.sessions := rfl
@[simp] theorem State.modChan_chits (c : Nat) (f : Chan → Chan) : (s.modChan c f).chits = s.chits := rfl
@[simp] theorem State.modChan_ring (c : Nat) (f : Chan → Chan) : (s.modChan c f).ring = s.ring := rfl
@[simp] theorem State.modChan_sec (c : Nat) (f : Chan → Chan) : (s.modChan c f).sec = s.sec := rfl
@[simp] theorem State.modChan_flt (c : Nat) (f : Chan → Chan) : (s.modChan c f).flt = s.flt := rfl
@[simp] theorem State.modChan_pwr (c : Nat) (f : Chan → Chan) : (s.modChan c f).pwr = s.pwr := rfl
@[simp] theorem State.modChan_boot (c : Nat) (f : Chan → Chan) : (s.modChan c f).boot = s.boot := rfl
@[simp] theorem State.modChan_todo (c : Nat) (f : Chan → Chan) : (s.modChan c f).todo = s.todo := rfl
@[simp] theorem State.modChan_out (c : Nat) (f : Chan → Chan) : (s.modChan c f).out = s.out := rfl
@[simp] theorem State.modChan_held (c : Nat) (f : Chan → Chan) : (s.modChan c f).held = s.held := rfl
@[simp] theorem State.modChan_pending (c : Nat) (f : Chan → Chan) : (s.modChan c f).pending = s.pending := rfl

/-! ### `State.modSess` -/

@[simp] theorem State.modSess_now (i : Nat) (f : Session → Session) : (s.modSess i f).now = s.now := rfl
@[simp] theorem State.modSess_free (i : Nat) (f : Session → Session) : (s.modSess i f).free = s.free := rfl
@[simp] theorem State.modSess_regs (i : Nat) (f : Session → Session) : (s.modSess i f).regs = s.regs := rfl
@[simp] theorem State.modSess_tables (i : Nat) (f : Session → Session) : (s.modSess i f).tables = s.tables := rfl
@[simp] theorem State.modSess_orb (i : Nat) (f : Session → Session) : (s.modSess i f).orb = s.orb := rfl
@[simp] theorem State.modSess_wall (i : Nat) (f : Session → Session) : (s.modSess i f).wall = s.wall := rfl
@[simp] theorem State.modSess_gates (i : Nat) (f : Session → Session) : (s.modSess i f).gates = s.gates := rfl
@[simp] theorem State.modSess_cal (i : Nat) (f : Session → Session) : (s.modSess i f).cal = s.cal := rfl
@[simp] theorem State.modSess_policers (i : Nat) (f : Session → Session) : (s.modSess i f).policers = s.policers := rfl
@[simp] theorem State.modSess_shapers (i : Nat) (f : Session → Session) : (s.modSess i f).shapers = s.shapers := rfl
@[simp] theorem State.modSess_sw (i : Nat) (f : Session → Session) : (s.modSess i f).sw = s.sw := rfl
@[simp] theorem State.modSess_ports (i : Nat) (f : Session → Session) : (s.modSess i f).ports = s.ports := rfl
@[simp] theorem State.modSess_lanes (i : Nat) (f : Session → Session) : (s.modSess i f).lanes = s.lanes := rfl
@[simp] theorem State.modSess_hostPorts (i : Nat) (f : Session → Session) : (s.modSess i f).hostPorts = s.hostPorts := rfl
@[simp] theorem State.modSess_red (i : Nat) (f : Session → Session) : (s.modSess i f).red = s.red := rfl
@[simp] theorem State.modSess_jobs (i : Nat) (f : Session → Session) : (s.modSess i f).jobs = s.jobs := rfl
@[simp] theorem State.modSess_comet (i : Nat) (f : Session → Session) : (s.modSess i f).comet = s.comet := rfl
@[simp] theorem State.modSess_feeds (i : Nat) (f : Session → Session) : (s.modSess i f).feeds = s.feeds := rfl
@[simp] theorem State.modSess_ckpts (i : Nat) (f : Session → Session) : (s.modSess i f).ckpts = s.ckpts := rfl
@[simp] theorem State.modSess_winq (i : Nat) (f : Session → Session) : (s.modSess i f).winq = s.winq := rfl
@[simp] theorem State.modSess_loads (i : Nat) (f : Session → Session) : (s.modSess i f).loads = s.loads := rfl
@[simp] theorem State.modSess_cpbs (i : Nat) (f : Session → Session) : (s.modSess i f).cpbs = s.cpbs := rfl
@[simp] theorem State.modSess_mem (i : Nat) (f : Session → Session) : (s.modSess i f).mem = s.mem := rfl
@[simp] theorem State.modSess_memErr (i : Nat) (f : Session → Session) : (s.modSess i f).memErr = s.memErr := rfl
@[simp] theorem State.modSess_ecc (i : Nat) (f : Session → Session) : (s.modSess i f).ecc = s.ecc := rfl
@[simp] theorem State.modSess_chans (i : Nat) (f : Session → Session) : (s.modSess i f).chans = s.chans := rfl
@[simp] theorem State.modSess_fwl (i : Nat) (f : Session → Session) : (s.modSess i f).fwl = s.fwl := rfl
@[simp] theorem State.modSess_sessions (i : Nat) (f : Session → Session) :
    (s.modSess i f).sessions = s.sessions.upd {} i f := rfl
@[simp] theorem State.modSess_chits (i : Nat) (f : Session → Session) : (s.modSess i f).chits = s.chits := rfl
@[simp] theorem State.modSess_ring (i : Nat) (f : Session → Session) : (s.modSess i f).ring = s.ring := rfl
@[simp] theorem State.modSess_sec (i : Nat) (f : Session → Session) : (s.modSess i f).sec = s.sec := rfl
@[simp] theorem State.modSess_flt (i : Nat) (f : Session → Session) : (s.modSess i f).flt = s.flt := rfl
@[simp] theorem State.modSess_pwr (i : Nat) (f : Session → Session) : (s.modSess i f).pwr = s.pwr := rfl
@[simp] theorem State.modSess_boot (i : Nat) (f : Session → Session) : (s.modSess i f).boot = s.boot := rfl
@[simp] theorem State.modSess_todo (i : Nat) (f : Session → Session) : (s.modSess i f).todo = s.todo := rfl
@[simp] theorem State.modSess_out (i : Nat) (f : Session → Session) : (s.modSess i f).out = s.out := rfl
@[simp] theorem State.modSess_held (i : Nat) (f : Session → Session) : (s.modSess i f).held = s.held := rfl
@[simp] theorem State.modSess_pending (i : Nat) (f : Session → Session) : (s.modSess i f).pending = s.pending := rfl

/-! ### `State.modGate` -/

@[simp] theorem State.modGate_now (p : Nat) (f : GatePort → GatePort) : (s.modGate p f).now = s.now := rfl
@[simp] theorem State.modGate_free (p : Nat) (f : GatePort → GatePort) : (s.modGate p f).free = s.free := rfl
@[simp] theorem State.modGate_regs (p : Nat) (f : GatePort → GatePort) : (s.modGate p f).regs = s.regs := rfl
@[simp] theorem State.modGate_tables (p : Nat) (f : GatePort → GatePort) : (s.modGate p f).tables = s.tables := rfl
@[simp] theorem State.modGate_orb (p : Nat) (f : GatePort → GatePort) : (s.modGate p f).orb = s.orb := rfl
@[simp] theorem State.modGate_wall (p : Nat) (f : GatePort → GatePort) : (s.modGate p f).wall = s.wall := rfl
@[simp] theorem State.modGate_gates (p : Nat) (f : GatePort → GatePort) :
    (s.modGate p f).gates = s.gates.upd {} p f := rfl
@[simp] theorem State.modGate_cal (p : Nat) (f : GatePort → GatePort) : (s.modGate p f).cal = s.cal := rfl
@[simp] theorem State.modGate_policers (p : Nat) (f : GatePort → GatePort) : (s.modGate p f).policers = s.policers := rfl
@[simp] theorem State.modGate_shapers (p : Nat) (f : GatePort → GatePort) : (s.modGate p f).shapers = s.shapers := rfl
@[simp] theorem State.modGate_sw (p : Nat) (f : GatePort → GatePort) : (s.modGate p f).sw = s.sw := rfl
@[simp] theorem State.modGate_ports (p : Nat) (f : GatePort → GatePort) : (s.modGate p f).ports = s.ports := rfl
@[simp] theorem State.modGate_lanes (p : Nat) (f : GatePort → GatePort) : (s.modGate p f).lanes = s.lanes := rfl
@[simp] theorem State.modGate_hostPorts (p : Nat) (f : GatePort → GatePort) : (s.modGate p f).hostPorts = s.hostPorts := rfl
@[simp] theorem State.modGate_red (p : Nat) (f : GatePort → GatePort) : (s.modGate p f).red = s.red := rfl
@[simp] theorem State.modGate_jobs (p : Nat) (f : GatePort → GatePort) : (s.modGate p f).jobs = s.jobs := rfl
@[simp] theorem State.modGate_comet (p : Nat) (f : GatePort → GatePort) : (s.modGate p f).comet = s.comet := rfl
@[simp] theorem State.modGate_feeds (p : Nat) (f : GatePort → GatePort) : (s.modGate p f).feeds = s.feeds := rfl
@[simp] theorem State.modGate_ckpts (p : Nat) (f : GatePort → GatePort) : (s.modGate p f).ckpts = s.ckpts := rfl
@[simp] theorem State.modGate_winq (p : Nat) (f : GatePort → GatePort) : (s.modGate p f).winq = s.winq := rfl
@[simp] theorem State.modGate_loads (p : Nat) (f : GatePort → GatePort) : (s.modGate p f).loads = s.loads := rfl
@[simp] theorem State.modGate_cpbs (p : Nat) (f : GatePort → GatePort) : (s.modGate p f).cpbs = s.cpbs := rfl
@[simp] theorem State.modGate_mem (p : Nat) (f : GatePort → GatePort) : (s.modGate p f).mem = s.mem := rfl
@[simp] theorem State.modGate_memErr (p : Nat) (f : GatePort → GatePort) : (s.modGate p f).memErr = s.memErr := rfl
@[simp] theorem State.modGate_ecc (p : Nat) (f : GatePort → GatePort) : (s.modGate p f).ecc = s.ecc := rfl
@[simp] theorem State.modGate_chans (p : Nat) (f : GatePort → GatePort) : (s.modGate p f).chans = s.chans := rfl
@[simp] theorem State.modGate_fwl (p : Nat) (f : GatePort → GatePort) : (s.modGate p f).fwl = s.fwl := rfl
@[simp] theorem State.modGate_sessions (p : Nat) (f : GatePort → GatePort) : (s.modGate p f).sessions = s.sessions := rfl
@[simp] theorem State.modGate_chits (p : Nat) (f : GatePort → GatePort) : (s.modGate p f).chits = s.chits := rfl
@[simp] theorem State.modGate_ring (p : Nat) (f : GatePort → GatePort) : (s.modGate p f).ring = s.ring := rfl
@[simp] theorem State.modGate_sec (p : Nat) (f : GatePort → GatePort) : (s.modGate p f).sec = s.sec := rfl
@[simp] theorem State.modGate_flt (p : Nat) (f : GatePort → GatePort) : (s.modGate p f).flt = s.flt := rfl
@[simp] theorem State.modGate_pwr (p : Nat) (f : GatePort → GatePort) : (s.modGate p f).pwr = s.pwr := rfl
@[simp] theorem State.modGate_boot (p : Nat) (f : GatePort → GatePort) : (s.modGate p f).boot = s.boot := rfl
@[simp] theorem State.modGate_todo (p : Nat) (f : GatePort → GatePort) : (s.modGate p f).todo = s.todo := rfl
@[simp] theorem State.modGate_out (p : Nat) (f : GatePort → GatePort) : (s.modGate p f).out = s.out := rfl
@[simp] theorem State.modGate_held (p : Nat) (f : GatePort → GatePort) : (s.modGate p f).held = s.held := rfl
@[simp] theorem State.modGate_pending (p : Nat) (f : GatePort → GatePort) : (s.modGate p f).pending = s.pending := rfl

/-! ### `State.modCal` -/

@[simp] theorem State.modCal_now (t : Nat) (f : CalWin → CalWin) : (s.modCal t f).now = s.now := rfl
@[simp] theorem State.modCal_free (t : Nat) (f : CalWin → CalWin) : (s.modCal t f).free = s.free := rfl
@[simp] theorem State.modCal_regs (t : Nat) (f : CalWin → CalWin) : (s.modCal t f).regs = s.regs := rfl
@[simp] theorem State.modCal_tables (t : Nat) (f : CalWin → CalWin) : (s.modCal t f).tables = s.tables := rfl
@[simp] theorem State.modCal_orb (t : Nat) (f : CalWin → CalWin) : (s.modCal t f).orb = s.orb := rfl
@[simp] theorem State.modCal_wall (t : Nat) (f : CalWin → CalWin) : (s.modCal t f).wall = s.wall := rfl
@[simp] theorem State.modCal_gates (t : Nat) (f : CalWin → CalWin) : (s.modCal t f).gates = s.gates := rfl
@[simp] theorem State.modCal_cal (t : Nat) (f : CalWin → CalWin) :
    (s.modCal t f).cal = s.cal.upd {} t f := rfl
@[simp] theorem State.modCal_policers (t : Nat) (f : CalWin → CalWin) : (s.modCal t f).policers = s.policers := rfl
@[simp] theorem State.modCal_shapers (t : Nat) (f : CalWin → CalWin) : (s.modCal t f).shapers = s.shapers := rfl
@[simp] theorem State.modCal_sw (t : Nat) (f : CalWin → CalWin) : (s.modCal t f).sw = s.sw := rfl
@[simp] theorem State.modCal_ports (t : Nat) (f : CalWin → CalWin) : (s.modCal t f).ports = s.ports := rfl
@[simp] theorem State.modCal_lanes (t : Nat) (f : CalWin → CalWin) : (s.modCal t f).lanes = s.lanes := rfl
@[simp] theorem State.modCal_hostPorts (t : Nat) (f : CalWin → CalWin) : (s.modCal t f).hostPorts = s.hostPorts := rfl
@[simp] theorem State.modCal_red (t : Nat) (f : CalWin → CalWin) : (s.modCal t f).red = s.red := rfl
@[simp] theorem State.modCal_jobs (t : Nat) (f : CalWin → CalWin) : (s.modCal t f).jobs = s.jobs := rfl
@[simp] theorem State.modCal_comet (t : Nat) (f : CalWin → CalWin) : (s.modCal t f).comet = s.comet := rfl
@[simp] theorem State.modCal_feeds (t : Nat) (f : CalWin → CalWin) : (s.modCal t f).feeds = s.feeds := rfl
@[simp] theorem State.modCal_ckpts (t : Nat) (f : CalWin → CalWin) : (s.modCal t f).ckpts = s.ckpts := rfl
@[simp] theorem State.modCal_winq (t : Nat) (f : CalWin → CalWin) : (s.modCal t f).winq = s.winq := rfl
@[simp] theorem State.modCal_loads (t : Nat) (f : CalWin → CalWin) : (s.modCal t f).loads = s.loads := rfl
@[simp] theorem State.modCal_cpbs (t : Nat) (f : CalWin → CalWin) : (s.modCal t f).cpbs = s.cpbs := rfl
@[simp] theorem State.modCal_mem (t : Nat) (f : CalWin → CalWin) : (s.modCal t f).mem = s.mem := rfl
@[simp] theorem State.modCal_memErr (t : Nat) (f : CalWin → CalWin) : (s.modCal t f).memErr = s.memErr := rfl
@[simp] theorem State.modCal_ecc (t : Nat) (f : CalWin → CalWin) : (s.modCal t f).ecc = s.ecc := rfl
@[simp] theorem State.modCal_chans (t : Nat) (f : CalWin → CalWin) : (s.modCal t f).chans = s.chans := rfl
@[simp] theorem State.modCal_fwl (t : Nat) (f : CalWin → CalWin) : (s.modCal t f).fwl = s.fwl := rfl
@[simp] theorem State.modCal_sessions (t : Nat) (f : CalWin → CalWin) : (s.modCal t f).sessions = s.sessions := rfl
@[simp] theorem State.modCal_chits (t : Nat) (f : CalWin → CalWin) : (s.modCal t f).chits = s.chits := rfl
@[simp] theorem State.modCal_ring (t : Nat) (f : CalWin → CalWin) : (s.modCal t f).ring = s.ring := rfl
@[simp] theorem State.modCal_sec (t : Nat) (f : CalWin → CalWin) : (s.modCal t f).sec = s.sec := rfl
@[simp] theorem State.modCal_flt (t : Nat) (f : CalWin → CalWin) : (s.modCal t f).flt = s.flt := rfl
@[simp] theorem State.modCal_pwr (t : Nat) (f : CalWin → CalWin) : (s.modCal t f).pwr = s.pwr := rfl
@[simp] theorem State.modCal_boot (t : Nat) (f : CalWin → CalWin) : (s.modCal t f).boot = s.boot := rfl
@[simp] theorem State.modCal_todo (t : Nat) (f : CalWin → CalWin) : (s.modCal t f).todo = s.todo := rfl
@[simp] theorem State.modCal_out (t : Nat) (f : CalWin → CalWin) : (s.modCal t f).out = s.out := rfl
@[simp] theorem State.modCal_held (t : Nat) (f : CalWin → CalWin) : (s.modCal t f).held = s.held := rfl
@[simp] theorem State.modCal_pending (t : Nat) (f : CalWin → CalWin) : (s.modCal t f).pending = s.pending := rfl

/-! ### `State.modComet` -/

@[simp] theorem State.modComet_now (r i : Nat) (f : CometSlot → CometSlot) : (s.modComet r i f).now = s.now := rfl
@[simp] theorem State.modComet_free (r i : Nat) (f : CometSlot → CometSlot) : (s.modComet r i f).free = s.free := rfl
@[simp] theorem State.modComet_regs (r i : Nat) (f : CometSlot → CometSlot) : (s.modComet r i f).regs = s.regs := rfl
@[simp] theorem State.modComet_tables (r i : Nat) (f : CometSlot → CometSlot) : (s.modComet r i f).tables = s.tables := rfl
@[simp] theorem State.modComet_orb (r i : Nat) (f : CometSlot → CometSlot) : (s.modComet r i f).orb = s.orb := rfl
@[simp] theorem State.modComet_wall (r i : Nat) (f : CometSlot → CometSlot) : (s.modComet r i f).wall = s.wall := rfl
@[simp] theorem State.modComet_gates (r i : Nat) (f : CometSlot → CometSlot) : (s.modComet r i f).gates = s.gates := rfl
@[simp] theorem State.modComet_cal (r i : Nat) (f : CometSlot → CometSlot) : (s.modComet r i f).cal = s.cal := rfl
@[simp] theorem State.modComet_policers (r i : Nat) (f : CometSlot → CometSlot) : (s.modComet r i f).policers = s.policers := rfl
@[simp] theorem State.modComet_shapers (r i : Nat) (f : CometSlot → CometSlot) : (s.modComet r i f).shapers = s.shapers := rfl
@[simp] theorem State.modComet_sw (r i : Nat) (f : CometSlot → CometSlot) : (s.modComet r i f).sw = s.sw := rfl
@[simp] theorem State.modComet_ports (r i : Nat) (f : CometSlot → CometSlot) : (s.modComet r i f).ports = s.ports := rfl
@[simp] theorem State.modComet_lanes (r i : Nat) (f : CometSlot → CometSlot) : (s.modComet r i f).lanes = s.lanes := rfl
@[simp] theorem State.modComet_hostPorts (r i : Nat) (f : CometSlot → CometSlot) : (s.modComet r i f).hostPorts = s.hostPorts := rfl
@[simp] theorem State.modComet_red (r i : Nat) (f : CometSlot → CometSlot) : (s.modComet r i f).red = s.red := rfl
@[simp] theorem State.modComet_jobs (r i : Nat) (f : CometSlot → CometSlot) : (s.modComet r i f).jobs = s.jobs := rfl
@[simp] theorem State.modComet_comet (r i : Nat) (f : CometSlot → CometSlot) :
    (s.modComet r i f).comet = s.comet.upd {} (r * 1024 + i) f := rfl
@[simp] theorem State.modComet_feeds (r i : Nat) (f : CometSlot → CometSlot) : (s.modComet r i f).feeds = s.feeds := rfl
@[simp] theorem State.modComet_ckpts (r i : Nat) (f : CometSlot → CometSlot) : (s.modComet r i f).ckpts = s.ckpts := rfl
@[simp] theorem State.modComet_winq (r i : Nat) (f : CometSlot → CometSlot) : (s.modComet r i f).winq = s.winq := rfl
@[simp] theorem State.modComet_loads (r i : Nat) (f : CometSlot → CometSlot) : (s.modComet r i f).loads = s.loads := rfl
@[simp] theorem State.modComet_cpbs (r i : Nat) (f : CometSlot → CometSlot) : (s.modComet r i f).cpbs = s.cpbs := rfl
@[simp] theorem State.modComet_mem (r i : Nat) (f : CometSlot → CometSlot) : (s.modComet r i f).mem = s.mem := rfl
@[simp] theorem State.modComet_memErr (r i : Nat) (f : CometSlot → CometSlot) : (s.modComet r i f).memErr = s.memErr := rfl
@[simp] theorem State.modComet_ecc (r i : Nat) (f : CometSlot → CometSlot) : (s.modComet r i f).ecc = s.ecc := rfl
@[simp] theorem State.modComet_chans (r i : Nat) (f : CometSlot → CometSlot) : (s.modComet r i f).chans = s.chans := rfl
@[simp] theorem State.modComet_fwl (r i : Nat) (f : CometSlot → CometSlot) : (s.modComet r i f).fwl = s.fwl := rfl
@[simp] theorem State.modComet_sessions (r i : Nat) (f : CometSlot → CometSlot) : (s.modComet r i f).sessions = s.sessions := rfl
@[simp] theorem State.modComet_chits (r i : Nat) (f : CometSlot → CometSlot) : (s.modComet r i f).chits = s.chits := rfl
@[simp] theorem State.modComet_ring (r i : Nat) (f : CometSlot → CometSlot) : (s.modComet r i f).ring = s.ring := rfl
@[simp] theorem State.modComet_sec (r i : Nat) (f : CometSlot → CometSlot) : (s.modComet r i f).sec = s.sec := rfl
@[simp] theorem State.modComet_flt (r i : Nat) (f : CometSlot → CometSlot) : (s.modComet r i f).flt = s.flt := rfl
@[simp] theorem State.modComet_pwr (r i : Nat) (f : CometSlot → CometSlot) : (s.modComet r i f).pwr = s.pwr := rfl
@[simp] theorem State.modComet_boot (r i : Nat) (f : CometSlot → CometSlot) : (s.modComet r i f).boot = s.boot := rfl
@[simp] theorem State.modComet_todo (r i : Nat) (f : CometSlot → CometSlot) : (s.modComet r i f).todo = s.todo := rfl
@[simp] theorem State.modComet_out (r i : Nat) (f : CometSlot → CometSlot) : (s.modComet r i f).out = s.out := rfl
@[simp] theorem State.modComet_held (r i : Nat) (f : CometSlot → CometSlot) : (s.modComet r i f).held = s.held := rfl
@[simp] theorem State.modComet_pending (r i : Nat) (f : CometSlot → CometSlot) : (s.modComet r i f).pending = s.pending := rfl

/-! ### `State.modSrc` -/

@[simp] theorem State.modSrc_now (i : Nat) (f : SrcState → SrcState) : (s.modSrc i f).now = s.now := rfl
@[simp] theorem State.modSrc_free (i : Nat) (f : SrcState → SrcState) : (s.modSrc i f).free = s.free := rfl
@[simp] theorem State.modSrc_regs (i : Nat) (f : SrcState → SrcState) : (s.modSrc i f).regs = s.regs := rfl
@[simp] theorem State.modSrc_tables (i : Nat) (f : SrcState → SrcState) : (s.modSrc i f).tables = s.tables := rfl
@[simp] theorem State.modSrc_orb (i : Nat) (f : SrcState → SrcState) :
    (s.modSrc i f).orb = { s.orb with srcs := s.orb.srcs.upd {} i f } := rfl
@[simp] theorem State.modSrc_wall (i : Nat) (f : SrcState → SrcState) : (s.modSrc i f).wall = s.wall := rfl
@[simp] theorem State.modSrc_gates (i : Nat) (f : SrcState → SrcState) : (s.modSrc i f).gates = s.gates := rfl
@[simp] theorem State.modSrc_cal (i : Nat) (f : SrcState → SrcState) : (s.modSrc i f).cal = s.cal := rfl
@[simp] theorem State.modSrc_policers (i : Nat) (f : SrcState → SrcState) : (s.modSrc i f).policers = s.policers := rfl
@[simp] theorem State.modSrc_shapers (i : Nat) (f : SrcState → SrcState) : (s.modSrc i f).shapers = s.shapers := rfl
@[simp] theorem State.modSrc_sw (i : Nat) (f : SrcState → SrcState) : (s.modSrc i f).sw = s.sw := rfl
@[simp] theorem State.modSrc_ports (i : Nat) (f : SrcState → SrcState) : (s.modSrc i f).ports = s.ports := rfl
@[simp] theorem State.modSrc_lanes (i : Nat) (f : SrcState → SrcState) : (s.modSrc i f).lanes = s.lanes := rfl
@[simp] theorem State.modSrc_hostPorts (i : Nat) (f : SrcState → SrcState) : (s.modSrc i f).hostPorts = s.hostPorts := rfl
@[simp] theorem State.modSrc_red (i : Nat) (f : SrcState → SrcState) : (s.modSrc i f).red = s.red := rfl
@[simp] theorem State.modSrc_jobs (i : Nat) (f : SrcState → SrcState) : (s.modSrc i f).jobs = s.jobs := rfl
@[simp] theorem State.modSrc_comet (i : Nat) (f : SrcState → SrcState) : (s.modSrc i f).comet = s.comet := rfl
@[simp] theorem State.modSrc_feeds (i : Nat) (f : SrcState → SrcState) : (s.modSrc i f).feeds = s.feeds := rfl
@[simp] theorem State.modSrc_ckpts (i : Nat) (f : SrcState → SrcState) : (s.modSrc i f).ckpts = s.ckpts := rfl
@[simp] theorem State.modSrc_winq (i : Nat) (f : SrcState → SrcState) : (s.modSrc i f).winq = s.winq := rfl
@[simp] theorem State.modSrc_loads (i : Nat) (f : SrcState → SrcState) : (s.modSrc i f).loads = s.loads := rfl
@[simp] theorem State.modSrc_cpbs (i : Nat) (f : SrcState → SrcState) : (s.modSrc i f).cpbs = s.cpbs := rfl
@[simp] theorem State.modSrc_mem (i : Nat) (f : SrcState → SrcState) : (s.modSrc i f).mem = s.mem := rfl
@[simp] theorem State.modSrc_memErr (i : Nat) (f : SrcState → SrcState) : (s.modSrc i f).memErr = s.memErr := rfl
@[simp] theorem State.modSrc_ecc (i : Nat) (f : SrcState → SrcState) : (s.modSrc i f).ecc = s.ecc := rfl
@[simp] theorem State.modSrc_chans (i : Nat) (f : SrcState → SrcState) : (s.modSrc i f).chans = s.chans := rfl
@[simp] theorem State.modSrc_fwl (i : Nat) (f : SrcState → SrcState) : (s.modSrc i f).fwl = s.fwl := rfl
@[simp] theorem State.modSrc_sessions (i : Nat) (f : SrcState → SrcState) : (s.modSrc i f).sessions = s.sessions := rfl
@[simp] theorem State.modSrc_chits (i : Nat) (f : SrcState → SrcState) : (s.modSrc i f).chits = s.chits := rfl
@[simp] theorem State.modSrc_ring (i : Nat) (f : SrcState → SrcState) : (s.modSrc i f).ring = s.ring := rfl
@[simp] theorem State.modSrc_sec (i : Nat) (f : SrcState → SrcState) : (s.modSrc i f).sec = s.sec := rfl
@[simp] theorem State.modSrc_flt (i : Nat) (f : SrcState → SrcState) : (s.modSrc i f).flt = s.flt := rfl
@[simp] theorem State.modSrc_pwr (i : Nat) (f : SrcState → SrcState) : (s.modSrc i f).pwr = s.pwr := rfl
@[simp] theorem State.modSrc_boot (i : Nat) (f : SrcState → SrcState) : (s.modSrc i f).boot = s.boot := rfl
@[simp] theorem State.modSrc_todo (i : Nat) (f : SrcState → SrcState) : (s.modSrc i f).todo = s.todo := rfl
@[simp] theorem State.modSrc_out (i : Nat) (f : SrcState → SrcState) : (s.modSrc i f).out = s.out := rfl
@[simp] theorem State.modSrc_held (i : Nat) (f : SrcState → SrcState) : (s.modSrc i f).held = s.held := rfl
@[simp] theorem State.modSrc_pending (i : Nat) (f : SrcState → SrcState) : (s.modSrc i f).pending = s.pending := rfl

/-! ### `State.modChit` -/

@[simp] theorem State.modChit_now (c : Word) (f : ChitRec → ChitRec) : (s.modChit c f).now = s.now := rfl
@[simp] theorem State.modChit_free (c : Word) (f : ChitRec → ChitRec) : (s.modChit c f).free = s.free := rfl
@[simp] theorem State.modChit_regs (c : Word) (f : ChitRec → ChitRec) : (s.modChit c f).regs = s.regs := rfl
@[simp] theorem State.modChit_tables (c : Word) (f : ChitRec → ChitRec) : (s.modChit c f).tables = s.tables := rfl
@[simp] theorem State.modChit_orb (c : Word) (f : ChitRec → ChitRec) : (s.modChit c f).orb = s.orb := rfl
@[simp] theorem State.modChit_wall (c : Word) (f : ChitRec → ChitRec) : (s.modChit c f).wall = s.wall := rfl
@[simp] theorem State.modChit_gates (c : Word) (f : ChitRec → ChitRec) : (s.modChit c f).gates = s.gates := rfl
@[simp] theorem State.modChit_cal (c : Word) (f : ChitRec → ChitRec) : (s.modChit c f).cal = s.cal := rfl
@[simp] theorem State.modChit_policers (c : Word) (f : ChitRec → ChitRec) : (s.modChit c f).policers = s.policers := rfl
@[simp] theorem State.modChit_shapers (c : Word) (f : ChitRec → ChitRec) : (s.modChit c f).shapers = s.shapers := rfl
@[simp] theorem State.modChit_sw (c : Word) (f : ChitRec → ChitRec) : (s.modChit c f).sw = s.sw := rfl
@[simp] theorem State.modChit_ports (c : Word) (f : ChitRec → ChitRec) : (s.modChit c f).ports = s.ports := rfl
@[simp] theorem State.modChit_lanes (c : Word) (f : ChitRec → ChitRec) : (s.modChit c f).lanes = s.lanes := rfl
@[simp] theorem State.modChit_hostPorts (c : Word) (f : ChitRec → ChitRec) : (s.modChit c f).hostPorts = s.hostPorts := rfl
@[simp] theorem State.modChit_red (c : Word) (f : ChitRec → ChitRec) : (s.modChit c f).red = s.red := rfl
@[simp] theorem State.modChit_jobs (c : Word) (f : ChitRec → ChitRec) : (s.modChit c f).jobs = s.jobs := rfl
@[simp] theorem State.modChit_comet (c : Word) (f : ChitRec → ChitRec) : (s.modChit c f).comet = s.comet := rfl
@[simp] theorem State.modChit_feeds (c : Word) (f : ChitRec → ChitRec) : (s.modChit c f).feeds = s.feeds := rfl
@[simp] theorem State.modChit_ckpts (c : Word) (f : ChitRec → ChitRec) : (s.modChit c f).ckpts = s.ckpts := rfl
@[simp] theorem State.modChit_winq (c : Word) (f : ChitRec → ChitRec) : (s.modChit c f).winq = s.winq := rfl
@[simp] theorem State.modChit_loads (c : Word) (f : ChitRec → ChitRec) : (s.modChit c f).loads = s.loads := rfl
@[simp] theorem State.modChit_cpbs (c : Word) (f : ChitRec → ChitRec) : (s.modChit c f).cpbs = s.cpbs := rfl
@[simp] theorem State.modChit_mem (c : Word) (f : ChitRec → ChitRec) : (s.modChit c f).mem = s.mem := rfl
@[simp] theorem State.modChit_memErr (c : Word) (f : ChitRec → ChitRec) : (s.modChit c f).memErr = s.memErr := rfl
@[simp] theorem State.modChit_ecc (c : Word) (f : ChitRec → ChitRec) : (s.modChit c f).ecc = s.ecc := rfl
@[simp] theorem State.modChit_chans (c : Word) (f : ChitRec → ChitRec) : (s.modChit c f).chans = s.chans := rfl
@[simp] theorem State.modChit_fwl (c : Word) (f : ChitRec → ChitRec) : (s.modChit c f).fwl = s.fwl := rfl
@[simp] theorem State.modChit_sessions (c : Word) (f : ChitRec → ChitRec) : (s.modChit c f).sessions = s.sessions := rfl
@[simp] theorem State.modChit_chits (c : Word) (f : ChitRec → ChitRec) :
    (s.modChit c f).chits = s.chits.map fun x => if x.chit = c then f x else x := rfl
@[simp] theorem State.modChit_ring (c : Word) (f : ChitRec → ChitRec) : (s.modChit c f).ring = s.ring := rfl
@[simp] theorem State.modChit_sec (c : Word) (f : ChitRec → ChitRec) : (s.modChit c f).sec = s.sec := rfl
@[simp] theorem State.modChit_flt (c : Word) (f : ChitRec → ChitRec) : (s.modChit c f).flt = s.flt := rfl
@[simp] theorem State.modChit_pwr (c : Word) (f : ChitRec → ChitRec) : (s.modChit c f).pwr = s.pwr := rfl
@[simp] theorem State.modChit_boot (c : Word) (f : ChitRec → ChitRec) : (s.modChit c f).boot = s.boot := rfl
@[simp] theorem State.modChit_todo (c : Word) (f : ChitRec → ChitRec) : (s.modChit c f).todo = s.todo := rfl
@[simp] theorem State.modChit_out (c : Word) (f : ChitRec → ChitRec) : (s.modChit c f).out = s.out := rfl
@[simp] theorem State.modChit_held (c : Word) (f : ChitRec → ChitRec) : (s.modChit c f).held = s.held := rfl
@[simp] theorem State.modChit_pending (c : Word) (f : ChitRec → ChitRec) : (s.modChit c f).pending = s.pending := rfl

/-! ### `State.setReg` -/

@[simp] theorem State.setReg_now (pg off : Nat) (v : Word) (sel : Nat) : (s.setReg pg off v sel).now = s.now := rfl
@[simp] theorem State.setReg_free (pg off : Nat) (v : Word) (sel : Nat) : (s.setReg pg off v sel).free = s.free := rfl
@[simp] theorem State.setReg_regs (pg off : Nat) (v : Word) (sel : Nat) :
    (s.setReg pg off v sel).regs = s.regs.put (resetWord pg off sel) (rkey pg off sel) v := rfl
@[simp] theorem State.setReg_tables (pg off : Nat) (v : Word) (sel : Nat) : (s.setReg pg off v sel).tables = s.tables := rfl
@[simp] theorem State.setReg_orb (pg off : Nat) (v : Word) (sel : Nat) : (s.setReg pg off v sel).orb = s.orb := rfl
@[simp] theorem State.setReg_wall (pg off : Nat) (v : Word) (sel : Nat) : (s.setReg pg off v sel).wall = s.wall := rfl
@[simp] theorem State.setReg_gates (pg off : Nat) (v : Word) (sel : Nat) : (s.setReg pg off v sel).gates = s.gates := rfl
@[simp] theorem State.setReg_cal (pg off : Nat) (v : Word) (sel : Nat) : (s.setReg pg off v sel).cal = s.cal := rfl
@[simp] theorem State.setReg_policers (pg off : Nat) (v : Word) (sel : Nat) : (s.setReg pg off v sel).policers = s.policers := rfl
@[simp] theorem State.setReg_shapers (pg off : Nat) (v : Word) (sel : Nat) : (s.setReg pg off v sel).shapers = s.shapers := rfl
@[simp] theorem State.setReg_sw (pg off : Nat) (v : Word) (sel : Nat) : (s.setReg pg off v sel).sw = s.sw := rfl
@[simp] theorem State.setReg_ports (pg off : Nat) (v : Word) (sel : Nat) : (s.setReg pg off v sel).ports = s.ports := rfl
@[simp] theorem State.setReg_lanes (pg off : Nat) (v : Word) (sel : Nat) : (s.setReg pg off v sel).lanes = s.lanes := rfl
@[simp] theorem State.setReg_hostPorts (pg off : Nat) (v : Word) (sel : Nat) : (s.setReg pg off v sel).hostPorts = s.hostPorts := rfl
@[simp] theorem State.setReg_red (pg off : Nat) (v : Word) (sel : Nat) : (s.setReg pg off v sel).red = s.red := rfl
@[simp] theorem State.setReg_jobs (pg off : Nat) (v : Word) (sel : Nat) : (s.setReg pg off v sel).jobs = s.jobs := rfl
@[simp] theorem State.setReg_comet (pg off : Nat) (v : Word) (sel : Nat) : (s.setReg pg off v sel).comet = s.comet := rfl
@[simp] theorem State.setReg_feeds (pg off : Nat) (v : Word) (sel : Nat) : (s.setReg pg off v sel).feeds = s.feeds := rfl
@[simp] theorem State.setReg_ckpts (pg off : Nat) (v : Word) (sel : Nat) : (s.setReg pg off v sel).ckpts = s.ckpts := rfl
@[simp] theorem State.setReg_winq (pg off : Nat) (v : Word) (sel : Nat) : (s.setReg pg off v sel).winq = s.winq := rfl
@[simp] theorem State.setReg_loads (pg off : Nat) (v : Word) (sel : Nat) : (s.setReg pg off v sel).loads = s.loads := rfl
@[simp] theorem State.setReg_cpbs (pg off : Nat) (v : Word) (sel : Nat) : (s.setReg pg off v sel).cpbs = s.cpbs := rfl
@[simp] theorem State.setReg_mem (pg off : Nat) (v : Word) (sel : Nat) : (s.setReg pg off v sel).mem = s.mem := rfl
@[simp] theorem State.setReg_memErr (pg off : Nat) (v : Word) (sel : Nat) : (s.setReg pg off v sel).memErr = s.memErr := rfl
@[simp] theorem State.setReg_ecc (pg off : Nat) (v : Word) (sel : Nat) : (s.setReg pg off v sel).ecc = s.ecc := rfl
@[simp] theorem State.setReg_chans (pg off : Nat) (v : Word) (sel : Nat) : (s.setReg pg off v sel).chans = s.chans := rfl
@[simp] theorem State.setReg_fwl (pg off : Nat) (v : Word) (sel : Nat) : (s.setReg pg off v sel).fwl = s.fwl := rfl
@[simp] theorem State.setReg_sessions (pg off : Nat) (v : Word) (sel : Nat) : (s.setReg pg off v sel).sessions = s.sessions := rfl
@[simp] theorem State.setReg_chits (pg off : Nat) (v : Word) (sel : Nat) : (s.setReg pg off v sel).chits = s.chits := rfl
@[simp] theorem State.setReg_ring (pg off : Nat) (v : Word) (sel : Nat) : (s.setReg pg off v sel).ring = s.ring := rfl
@[simp] theorem State.setReg_sec (pg off : Nat) (v : Word) (sel : Nat) : (s.setReg pg off v sel).sec = s.sec := rfl
@[simp] theorem State.setReg_flt (pg off : Nat) (v : Word) (sel : Nat) : (s.setReg pg off v sel).flt = s.flt := rfl
@[simp] theorem State.setReg_pwr (pg off : Nat) (v : Word) (sel : Nat) : (s.setReg pg off v sel).pwr = s.pwr := rfl
@[simp] theorem State.setReg_boot (pg off : Nat) (v : Word) (sel : Nat) : (s.setReg pg off v sel).boot = s.boot := rfl
@[simp] theorem State.setReg_todo (pg off : Nat) (v : Word) (sel : Nat) : (s.setReg pg off v sel).todo = s.todo := rfl
@[simp] theorem State.setReg_out (pg off : Nat) (v : Word) (sel : Nat) : (s.setReg pg off v sel).out = s.out := rfl
@[simp] theorem State.setReg_held (pg off : Nat) (v : Word) (sel : Nat) : (s.setReg pg off v sel).held = s.held := rfl
@[simp] theorem State.setReg_pending (pg off : Nat) (v : Word) (sel : Nat) : (s.setReg pg off v sel).pending = s.pending := rfl

/-! ### `State.setTbl` -/

@[simp] theorem State.setTbl_now (k : TKind) (i w : Nat) (v : Word) : (s.setTbl k i w v).now = s.now := rfl
@[simp] theorem State.setTbl_free (k : TKind) (i w : Nat) (v : Word) : (s.setTbl k i w v).free = s.free := rfl
@[simp] theorem State.setTbl_regs (k : TKind) (i w : Nat) (v : Word) : (s.setTbl k i w v).regs = s.regs := rfl
@[simp] theorem State.setTbl_tables (k : TKind) (i w : Nat) (v : Word) :
    (s.setTbl k i w v).tables = s.tables.put (tableReset k w) (tkey k i w) v := rfl
@[simp] theorem State.setTbl_orb (k : TKind) (i w : Nat) (v : Word) : (s.setTbl k i w v).orb = s.orb := rfl
@[simp] theorem State.setTbl_wall (k : TKind) (i w : Nat) (v : Word) : (s.setTbl k i w v).wall = s.wall := rfl
@[simp] theorem State.setTbl_gates (k : TKind) (i w : Nat) (v : Word) : (s.setTbl k i w v).gates = s.gates := rfl
@[simp] theorem State.setTbl_cal (k : TKind) (i w : Nat) (v : Word) : (s.setTbl k i w v).cal = s.cal := rfl
@[simp] theorem State.setTbl_policers (k : TKind) (i w : Nat) (v : Word) : (s.setTbl k i w v).policers = s.policers := rfl
@[simp] theorem State.setTbl_shapers (k : TKind) (i w : Nat) (v : Word) : (s.setTbl k i w v).shapers = s.shapers := rfl
@[simp] theorem State.setTbl_sw (k : TKind) (i w : Nat) (v : Word) : (s.setTbl k i w v).sw = s.sw := rfl
@[simp] theorem State.setTbl_ports (k : TKind) (i w : Nat) (v : Word) : (s.setTbl k i w v).ports = s.ports := rfl
@[simp] theorem State.setTbl_lanes (k : TKind) (i w : Nat) (v : Word) : (s.setTbl k i w v).lanes = s.lanes := rfl
@[simp] theorem State.setTbl_hostPorts (k : TKind) (i w : Nat) (v : Word) : (s.setTbl k i w v).hostPorts = s.hostPorts := rfl
@[simp] theorem State.setTbl_red (k : TKind) (i w : Nat) (v : Word) : (s.setTbl k i w v).red = s.red := rfl
@[simp] theorem State.setTbl_jobs (k : TKind) (i w : Nat) (v : Word) : (s.setTbl k i w v).jobs = s.jobs := rfl
@[simp] theorem State.setTbl_comet (k : TKind) (i w : Nat) (v : Word) : (s.setTbl k i w v).comet = s.comet := rfl
@[simp] theorem State.setTbl_feeds (k : TKind) (i w : Nat) (v : Word) : (s.setTbl k i w v).feeds = s.feeds := rfl
@[simp] theorem State.setTbl_ckpts (k : TKind) (i w : Nat) (v : Word) : (s.setTbl k i w v).ckpts = s.ckpts := rfl
@[simp] theorem State.setTbl_winq (k : TKind) (i w : Nat) (v : Word) : (s.setTbl k i w v).winq = s.winq := rfl
@[simp] theorem State.setTbl_loads (k : TKind) (i w : Nat) (v : Word) : (s.setTbl k i w v).loads = s.loads := rfl
@[simp] theorem State.setTbl_cpbs (k : TKind) (i w : Nat) (v : Word) : (s.setTbl k i w v).cpbs = s.cpbs := rfl
@[simp] theorem State.setTbl_mem (k : TKind) (i w : Nat) (v : Word) : (s.setTbl k i w v).mem = s.mem := rfl
@[simp] theorem State.setTbl_memErr (k : TKind) (i w : Nat) (v : Word) : (s.setTbl k i w v).memErr = s.memErr := rfl
@[simp] theorem State.setTbl_ecc (k : TKind) (i w : Nat) (v : Word) : (s.setTbl k i w v).ecc = s.ecc := rfl
@[simp] theorem State.setTbl_chans (k : TKind) (i w : Nat) (v : Word) : (s.setTbl k i w v).chans = s.chans := rfl
@[simp] theorem State.setTbl_fwl (k : TKind) (i w : Nat) (v : Word) : (s.setTbl k i w v).fwl = s.fwl := rfl
@[simp] theorem State.setTbl_sessions (k : TKind) (i w : Nat) (v : Word) : (s.setTbl k i w v).sessions = s.sessions := rfl
@[simp] theorem State.setTbl_chits (k : TKind) (i w : Nat) (v : Word) : (s.setTbl k i w v).chits = s.chits := rfl
@[simp] theorem State.setTbl_ring (k : TKind) (i w : Nat) (v : Word) : (s.setTbl k i w v).ring = s.ring := rfl
@[simp] theorem State.setTbl_sec (k : TKind) (i w : Nat) (v : Word) : (s.setTbl k i w v).sec = s.sec := rfl
@[simp] theorem State.setTbl_flt (k : TKind) (i w : Nat) (v : Word) : (s.setTbl k i w v).flt = s.flt := rfl
@[simp] theorem State.setTbl_pwr (k : TKind) (i w : Nat) (v : Word) : (s.setTbl k i w v).pwr = s.pwr := rfl
@[simp] theorem State.setTbl_boot (k : TKind) (i w : Nat) (v : Word) : (s.setTbl k i w v).boot = s.boot := rfl
@[simp] theorem State.setTbl_todo (k : TKind) (i w : Nat) (v : Word) : (s.setTbl k i w v).todo = s.todo := rfl
@[simp] theorem State.setTbl_out (k : TKind) (i w : Nat) (v : Word) : (s.setTbl k i w v).out = s.out := rfl
@[simp] theorem State.setTbl_held (k : TKind) (i w : Nat) (v : Word) : (s.setTbl k i w v).held = s.held := rfl
@[simp] theorem State.setTbl_pending (k : TKind) (i w : Nat) (v : Word) : (s.setTbl k i w v).pending = s.pending := rfl

/-! ### `State.fresh` -/

@[simp] theorem State.fresh_value : s.fresh.1 = Config.freeNat s.free := rfl
@[simp] theorem State.fresh_now : s.fresh.2.now = s.now := rfl
@[simp] theorem State.fresh_free : s.fresh.2.free = s.free + 1 := rfl
@[simp] theorem State.fresh_regs : s.fresh.2.regs = s.regs := rfl
@[simp] theorem State.fresh_tables : s.fresh.2.tables = s.tables := rfl
@[simp] theorem State.fresh_orb : s.fresh.2.orb = s.orb := rfl
@[simp] theorem State.fresh_wall : s.fresh.2.wall = s.wall := rfl
@[simp] theorem State.fresh_gates : s.fresh.2.gates = s.gates := rfl
@[simp] theorem State.fresh_cal : s.fresh.2.cal = s.cal := rfl
@[simp] theorem State.fresh_policers : s.fresh.2.policers = s.policers := rfl
@[simp] theorem State.fresh_shapers : s.fresh.2.shapers = s.shapers := rfl
@[simp] theorem State.fresh_sw : s.fresh.2.sw = s.sw := rfl
@[simp] theorem State.fresh_ports : s.fresh.2.ports = s.ports := rfl
@[simp] theorem State.fresh_lanes : s.fresh.2.lanes = s.lanes := rfl
@[simp] theorem State.fresh_hostPorts : s.fresh.2.hostPorts = s.hostPorts := rfl
@[simp] theorem State.fresh_red : s.fresh.2.red = s.red := rfl
@[simp] theorem State.fresh_jobs : s.fresh.2.jobs = s.jobs := rfl
@[simp] theorem State.fresh_comet : s.fresh.2.comet = s.comet := rfl
@[simp] theorem State.fresh_feeds : s.fresh.2.feeds = s.feeds := rfl
@[simp] theorem State.fresh_ckpts : s.fresh.2.ckpts = s.ckpts := rfl
@[simp] theorem State.fresh_winq : s.fresh.2.winq = s.winq := rfl
@[simp] theorem State.fresh_loads : s.fresh.2.loads = s.loads := rfl
@[simp] theorem State.fresh_cpbs : s.fresh.2.cpbs = s.cpbs := rfl
@[simp] theorem State.fresh_mem : s.fresh.2.mem = s.mem := rfl
@[simp] theorem State.fresh_memErr : s.fresh.2.memErr = s.memErr := rfl
@[simp] theorem State.fresh_ecc : s.fresh.2.ecc = s.ecc := rfl
@[simp] theorem State.fresh_chans : s.fresh.2.chans = s.chans := rfl
@[simp] theorem State.fresh_fwl : s.fresh.2.fwl = s.fwl := rfl
@[simp] theorem State.fresh_sessions : s.fresh.2.sessions = s.sessions := rfl
@[simp] theorem State.fresh_chits : s.fresh.2.chits = s.chits := rfl
@[simp] theorem State.fresh_ring : s.fresh.2.ring = s.ring := rfl
@[simp] theorem State.fresh_sec : s.fresh.2.sec = s.sec := rfl
@[simp] theorem State.fresh_flt : s.fresh.2.flt = s.flt := rfl
@[simp] theorem State.fresh_pwr : s.fresh.2.pwr = s.pwr := rfl
@[simp] theorem State.fresh_boot : s.fresh.2.boot = s.boot := rfl
@[simp] theorem State.fresh_todo : s.fresh.2.todo = s.todo := rfl
@[simp] theorem State.fresh_out : s.fresh.2.out = s.out := rfl
@[simp] theorem State.fresh_held : s.fresh.2.held = s.held := rfl
@[simp] theorem State.fresh_pending : s.fresh.2.pending = s.pending := rfl

end Sys2Proof.Machine
end

