-- ==== Sys2Proof/Laws/Table.lean ====
section
/-!
SUPPORT. What `Tbl.look` and `Tbl.put` do to each other, and that every table and memory
operation keeps the canonical form.
-/

namespace Sys2Proof

section
variable {α : Type} [DecidableEq α] {d : Nat → α} {x v : α} {t : Tbl α} {k k' : Nat}

/-- Another key reads as before. -/
theorem Tbl.look_put_ne (h : k' ≠ k) (t : Tbl α) (x y v : α) :
    Tbl.look y (Tbl.put x t k v) k' = Tbl.look y t k' := by
  induction t with
  | nil => unfold Tbl.put; split <;> simp [Tbl.look, h]
  | cons e t ih =>
    obtain ⟨a, w⟩ := e
    unfold Tbl.put
    split
    · split <;> simp [Tbl.look, h]
    · split
      · subst a; split <;> simp [Tbl.look, h]
      · simp [Tbl.look, ih]

/-- A key below every listed key reads as its default. -/
theorem Tbl.look_below (h : Tbl.wfFrom d (some k) t) : Tbl.look x t k = x := by
  suffices ∀ l, k ≤ l → Tbl.wfFrom d (some l) t → Tbl.look x t k = x from this k (Nat.le_refl k) h
  clear h
  induction t with
  | nil => intros; rfl
  | cons e t ih =>
    obtain ⟨a, w⟩ := e
    intro l hl h
    simp only [Tbl.wfFrom, Bool.and_eq_true, decide_eq_true_eq] at h
    have : k ≠ a := by omega
    simp only [Tbl.look, this, if_false]
    exact ih a (by omega) h.2

/-- A table that is canonical above a bound is canonical above a lower one. -/
theorem Tbl.wfFrom_mono {lo lo' : Option Nat} (h : Tbl.wfFrom d lo t)
    (hl : ∀ a, lo' = some a → ∃ b, lo = some b ∧ a ≤ b) : Tbl.wfFrom d lo' t := by
  cases t with
  | nil => rfl
  | cons e t =>
    simp only [Tbl.wfFrom, Bool.and_eq_true] at h ⊢
    refine ⟨⟨?_, h.1.2⟩, h.2⟩
    cases lo' with
    | none => rfl
    | some a =>
      obtain ⟨b, rfl, hb⟩ := hl a rfl
      have := h.1.1
      simp only [decide_eq_true_eq] at this ⊢
      omega

/-- The key that was put reads the value put. -/
theorem Tbl.look_put_self {lo : Option Nat} (h : Tbl.wfFrom d lo t) :
    Tbl.look x (Tbl.put x t k v) k = v := by
  induction t generalizing lo with
  | nil => unfold Tbl.put; split <;> simp_all [Tbl.look]
  | cons e t ih =>
    obtain ⟨a, w⟩ := e
    have h' := h
    simp only [Tbl.wfFrom, Bool.and_eq_true] at h
    unfold Tbl.put
    split
    · next hk =>
      split
      · next hv =>
        rw [hv]
        refine Tbl.look_below (d := d) (k := k) ?_
        simp only [Tbl.wfFrom, Bool.and_eq_true, decide_eq_true_eq]
        exact ⟨⟨hk, by simpa using h.1.2⟩, h.2⟩
      · simp [Tbl.look]
    · split
      · next hk =>
        subst hk
        split
        · next hv => rw [hv]; exact Tbl.look_below h.2
        · simp [Tbl.look]
      · next hk => simp [Tbl.look, hk, ih h.2]

/-- Putting a value keeps the canonical form. -/
theorem Tbl.put_wfFrom {lo : Option Nat} (h : Tbl.wfFrom d lo t) (hk : ∀ a, lo = some a → a < k) :
    Tbl.wfFrom d lo (Tbl.put (d k) t k v) := by
  induction t generalizing lo with
  | nil =>
    unfold Tbl.put
    split
    · rfl
    · cases lo <;> simp_all [Tbl.wfFrom]
  | cons e t ih =>
    obtain ⟨a, w⟩ := e
    have h' := h
    simp only [Tbl.wfFrom, Bool.and_eq_true] at h
    unfold Tbl.put
    split
    · next hlt =>
      split
      · exact h'
      · cases lo <;> simp_all [Tbl.wfFrom]
    · split
      · next _ hka =>
        subst hka
        split
        · exact Tbl.wfFrom_mono h.2 (fun b hb => ⟨k, rfl, Nat.le_of_lt (hk b hb)⟩)
        · cases lo <;> simp_all [Tbl.wfFrom]
      · next hlt hne =>
        simp only [Tbl.wfFrom, Bool.and_eq_true]
        refine ⟨h.1, ih h.2 ?_⟩
        intro b hb
        cases hb
        omega

/-- Putting a value keeps the canonical form of a whole table. -/
theorem Tbl.put_wf (h : Tbl.wf d t) : Tbl.wf d (Tbl.put (d k) t k v) :=
  Tbl.put_wfFrom h (by simp)

/-! ### Rising keys -/

/-- The canonical form has rising keys, all above the bound. -/
theorem Tbl.rising_of_wfFrom {lo : Option Nat} (h : Tbl.wfFrom d lo t) :
    t.rising ∧ ∀ a, lo = some a → ∀ e ∈ t, a < e.1 := by
  induction t generalizing lo with
  | nil => exact ⟨List.Pairwise.nil, by simp⟩
  | cons e t ih =>
    obtain ⟨b, w⟩ := e
    simp only [Tbl.wfFrom, Bool.and_eq_true] at h
    obtain ⟨hr, hb⟩ := ih h.2
    refine ⟨List.Pairwise.cons (fun e he => hb b rfl e he) hr, fun a ha e he => ?_⟩
    subst ha
    have hab : a < b := by simpa using h.1.1
    rcases List.mem_cons.1 he with rfl | he
    · exact hab
    · exact Nat.lt_trans hab (hb b rfl e he)

/-- The canonical form has rising keys. -/
theorem Tbl.rising_of_wf (h : Tbl.wf d t) : t.rising := (Tbl.rising_of_wfFrom h).1

omit [DecidableEq α] in
/-- A key below every listed key is not listed. -/
theorem Tbl.look_lt (h : ∀ e ∈ t, k < e.1) : Tbl.look x t k = x := by
  induction t with
  | nil => rfl
  | cons e t ih =>
    have := h e (by simp)
    simp only [Tbl.look, if_neg (Nat.ne_of_lt this)]
    exact ih fun e he => h e (by simp [he])

/-- Where keys rise, the key that was put reads the value put. -/
theorem Tbl.look_put_rising (h : t.rising) : Tbl.look x (Tbl.put x t k v) k = v := by
  induction t with
  | nil => unfold Tbl.put; split <;> simp_all [Tbl.look]
  | cons e t ih =>
    obtain ⟨a, w⟩ := e
    have ht := List.pairwise_cons.1 h
    unfold Tbl.put
    split
    · next hk =>
      split
      · next hv =>
        rw [hv]
        refine Tbl.look_lt fun e he => ?_
        rcases List.mem_cons.1 he with rfl | he
        · exact hk
        · exact Nat.lt_trans hk (ht.1 e he)
      · simp [Tbl.look]
    · split
      · next hk =>
        subst hk
        split
        · next hv => rw [hv]; exact Tbl.look_lt ht.1
        · simp [Tbl.look]
      · next hk => simp [Tbl.look, hk, ih ht.2]

/-- A put lists no key but those listed and its own. -/
theorem Tbl.mem_put {y : α} {e : Nat × α} (h : e ∈ Tbl.put y t k v) : e ∈ t ∨ e.1 = k := by
  induction t with
  | nil => unfold Tbl.put at h; split at h <;> simp_all
  | cons f t ih =>
    obtain ⟨a, w⟩ := f
    unfold Tbl.put at h
    split at h
    · split at h <;> simp_all; rcases h with h | h | h <;> simp_all
    · split at h
      · split at h <;> simp_all; rcases h with h | h <;> simp_all
      · rcases List.mem_cons.1 h with h | h
        · simp_all
        · rcases ih h with h | h <;> simp_all

/-- A put keeps keys rising. -/
theorem Tbl.put_rising {y : α} (h : t.rising) : (Tbl.put y t k v).rising := by
  induction t with
  | nil => unfold Tbl.put; split <;> simp [Tbl.rising]
  | cons e t ih =>
    obtain ⟨a, w⟩ := e
    have ht := List.pairwise_cons.1 h
    unfold Tbl.put
    split
    · next hk =>
      split
      · exact h
      · refine List.Pairwise.cons (fun e he => ?_) h
        rcases List.mem_cons.1 he with rfl | he
        · exact hk
        · exact Nat.lt_trans hk (ht.1 e he)
    · split
      · next hk =>
        subst hk
        split
        · exact ht.2
        · exact List.Pairwise.cons ht.1 ht.2
      · next hk hne =>
        refine List.Pairwise.cons (fun e he => ?_) (ih ht.2)
        rcases Tbl.mem_put he with he | he
        · exact ht.1 e he
        · simp only [he]; omega

end

/-! ### Memory -/

/-- Writing bytes keeps the canonical form of memory. -/
theorem Memory.write_wf {m : Memory} (h : m.wf) (a : Nat) (bs : List Byte) : (m.write a bs).wf := by
  induction bs generalizing m a with
  | nil => exact h
  | cons b bs ih => exact ih (Tbl.put_wf (d := fun _ => (0 : Byte)) h) (a + 1)

/-- A byte outside the bytes written reads as before. -/
theorem Memory.look_write_outside (m : Memory) (a k : Nat) (bs : List Byte) (h : k < a ∨ a + bs.length ≤ k) :
    Tbl.look 0 (m.write a bs) k = Tbl.look 0 m k := by
  induction bs generalizing m a with
  | nil => rfl
  | cons b bs ih =>
    simp only [List.length_cons] at h
    simp only [Memory.write]
    rw [ih _ (a + 1) (by omega), Tbl.look_put_ne (by omega)]

/-- A byte that was written reads as what was written. -/
theorem Memory.look_write {m : Memory} (hm : m.wf) (a i : Nat) (bs : List Byte) (h : i < bs.length) :
    Tbl.look 0 (m.write a bs) (a + i) = bs[i] := by
  induction bs generalizing m a i with
  | nil => simp at h
  | cons b bs ih =>
    simp only [Memory.write]
    have hw : Memory.wf (Tbl.put 0 m a b) := Tbl.put_wf (d := fun _ => (0 : Byte)) hm
    cases i with
    | zero =>
      rw [Memory.look_write_outside _ _ _ _ (by omega)]
      simpa using Tbl.look_put_self (d := fun _ => (0 : Byte)) (lo := none) hm
    | succ i =>
      have := ih hw (a + 1) i (by simpa using h)
      simpa [Nat.add_assoc, Nat.add_comm 1 i] using this

/-- Bytes that were written read back. -/
theorem Memory.bytes_write {m : Memory} (hm : m.wf) (a : Nat) (bs : List Byte) :
    (m.write a bs).bytes a bs.length = bs := by
  have key : ∀ (m' : Memory) (n b : Nat), m'.bytes b n = (List.range n).map fun i => Tbl.look 0 m' (b + i) := by
    intro m' n
    induction n with
    | zero => intros; rfl
    | succ n ih =>
      intro b
      simp only [Memory.bytes, ih, List.range_succ_eq_map, List.map_cons, List.map_map, Nat.add_zero]
      congr 1
      apply List.map_congr_left
      intro i _
      simp [Nat.add_assoc, Nat.add_comm 1 i]
  rw [key]
  apply List.ext_getElem
  · simp
  · intro i h1 h2
    simp only [List.getElem_map, List.getElem_range]
    exact Memory.look_write hm a i bs h2

end Sys2Proof
end

