-- ==== Sys2Proof/Laws/Ops.lean ====
section
/-!
SUPPORT. What the shared operations of the meanings can do, each said once: the end of a command, the
row forms, the register file and the parts of the state by number.
-/

namespace Sys2Proof.Machine

/-! ### The end of a command -/

/-- Where no reaction waits, none is taken. -/
@[simp] theorem State.settle_nil (n : Nat) (s : State) (h : s.todo = []) : State.settle n s = s := by
  cases n with
  | zero => rfl
  | succ n => simp [State.settle, topReaction, h]

/-- A command that raises no reaction ends as it stands. -/
@[simp] theorem State.finish_settled (s : State) (h : s.todo = []) : s.finish = s := by
  obtain ⟨⟩ := s
  simp only at h
  subst h
  simp [State.finish]

/-- Every command ends with no reaction waiting. -/
@[simp] theorem State.finish_todo (s : State) : s.finish.todo = [] := rfl

/-- The end of a command is always a next state. -/
theorem done_eq (s : State) : done s = .next s.finish := rfl

/-- A next state that ends a command leaves no reaction. -/
theorem done_todo {s t : State} (h : done s = .next t) : t.todo = [] := by
  cases h
  rfl

/-! ### Counters, codewords and host ports in one PHASE cycle -/

/-- A relation that every step of a fold keeps holds between its ends. -/
theorem foldl_rel {α : Type} (R : State → State → Prop) (hr : ∀ s, R s s) (ht : ∀ s t u, R s t → R t u → R s u)
    (f : State → α → State) (hf : ∀ s a, R s (f s a)) (l : List α) (s : State) : R s (l.foldl f s) := by
  induction l generalizing s with
  | nil => exact hr s
  | cons a l ih => exact ht _ _ _ (hf s a) (ih _)

/-- Performance counters are registers. -/
theorem State.perfCount_frame (s : State) (pg code n : Nat) :
    s.perfCount pg code n = { s with regs := (s.perfCount pg code n).regs } := by
  refine foldl_rel (fun s t => t = { s with regs := t.regs }) (fun _ => rfl) (fun s t u h1 h2 => ?_) _ (fun s i => ?_) _ s
  · rw [h1] at h2; exact h2
  · dsimp only; split <;> rfl

/-- A counter is a register. -/
theorem State.bump_frame (s : State) (pg off sel n : Nat) :
    s.bump pg off sel n = { s with regs := (s.bump pg off sel n).regs } := by
  unfold State.bump
  split
  · rfl
  · exact State.perfCount_frame _ _ _ _

/-- What a receiver counts in one cycle: only its port, the counters and free values change (R300). -/
theorem State.fecTicks_frame (s : State) :
    s.fecTicks = { s with regs := s.fecTicks.regs, free := s.fecTicks.free, ports := s.fecTicks.ports } := by
  let R : State → State → Prop := fun s t => t = { s with regs := t.regs, free := t.free, ports := t.ports }
  have ht : ∀ s t u, R s t → R t u → R s u := fun s t u h1 h2 => by
    simp only [R] at *; rw [h1] at h2; exact h2
  have hb : ∀ s p off, R s (s.bumpPort p off) := fun s p off => by
    simp only [R, State.bumpPort]; rw [State.bump_frame]
  have hc : ∀ s p, R s (s.codeword p) := fun s p => by
    have h0 : R s s.fresh.2 := rfl
    have h1 := ht _ _ _ h0 (hb s.fresh.2 p Off.FAB_FEC_CW_LO)
    have h2 : R s (if (s.fresh.2.bumpPort p Off.FAB_FEC_CW_LO).reg (pgFab (p / 8)) Off.FAB_FEC_CW_LO (p % 8) = 0 then
        (s.fresh.2.bumpPort p Off.FAB_FEC_CW_LO).bumpPort p Off.FAB_FEC_CW_HI else s.fresh.2.bumpPort p Off.FAB_FEC_CW_LO) := by
      split
      · exact ht _ _ _ h1 (hb _ _ _)
      · exact h1
    simp only [State.codeword]
    split
    · exact ht _ _ _ h2 (hb _ _ _)
    · split
      · exact ht _ _ _ h2 (hb _ _ _)
      · refine ht _ _ _ (ht _ _ _ (ht _ _ _ h2 (hb _ _ _)) (hb _ _ _)) (foldl_rel R (fun _ => rfl) ht _ (fun s i => ?_) _ _)
        have h0 : R s s.fresh.2 := rfl
        exact ht _ _ _ (ht _ _ _ h0 (hb _ _ _)) (hb _ _ _)
  refine foldl_rel R (fun _ => rfl) ht _ (fun s p => ?_) _ s
  unfold State.fecTick
  split
  · rfl
  · dsimp only
    split
    · rfl
    · have h0 : R s (s.modPort p fun x => { x with cwAcc := (s.port p).cwAcc + 425 * s.portLanes p - 10880 }) := rfl
      exact ht _ _ _ h0 (hc _ p)

/-- Only the host ports and free values change where an auto-negotiation ends (R286). -/
theorem State.negotiate_frame (s : State) :
    s.negotiate = { s with free := s.negotiate.free, hostPorts := s.negotiate.hostPorts } := by
  refine foldl_rel (fun s t => t = { s with free := t.free, hostPorts := t.hostPorts }) (fun _ => rfl) (fun s t u h1 h2 => ?_) _
    (fun s p => ?_) _ s
  · rw [h1] at h2; exact h2
  · dsimp only; split <;> rfl

/-! ### The row forms -/

/-- A row whose condition holds acts, and otherwise changes nothing. -/
theorem actIf_cases (due : Bool) (s t : State) :
    (due = true ∧ actIf due s t = done t) ∨ (due = false ∧ actIf due s t = .next s) := by
  cases due <;> simp [actIf]

/-- A row that finds a value acts with it, and otherwise changes nothing. -/
theorem actWith_cases {α : Type} (o : Option α) (s : State) (f : α → State) :
    (∃ v, o = some v ∧ actWith o s f = done (f v)) ∨ (o = none ∧ actWith o s f = .next s) := by
  cases o <;> simp [actWith]

/-- A frame row: no frame of the row, a drop, or the message. -/
theorem onRx_cases (s : State) (r : Rx) (f : State → Msg → State) :
    (r = .not ∧ onRx s r f = .next s) ∨ (∃ t, r = .lost t ∧ onRx s r f = done t.watchFlow) ∨
    (∃ t m, r = .got t m ∧ onRx s r f = done (f t m).watchFlow) := by
  cases r with
  | not => exact .inl ⟨rfl, rfl⟩
  | lost t => exact .inr (.inl ⟨t, rfl, rfl⟩)
  | got t m => exact .inr (.inr ⟨t, m, rfl, rfl⟩)

/-- A frame row whose frame is a message of it. -/
theorem onRx_got {s t : State} {r : Rx} {m : Msg} (h : r = .got t m) (f : State → Msg → State) :
    onRx s r f = done (f t m).watchFlow := by
  subst h
  rfl

/-- A message that R21 admits is taken by its job's slot and configuration. -/
theorem State.jobMsg_accepts {t : State} {m : Msg} {j : Nat} {c : JobCfg} (h1 : t.slotOf m.h.job = some j)
    (h2 : (t.job j).cfg = some c) (h3 : (t.job j).accepts m.h = true) (f : Nat → JobCfg → State) : t.jobMsg m f = f j c := by
  simp [State.jobMsg, h1, h2, h3]

/-- What reading a store comes to: a good word leaves the state, a corrected one is counted and stands corrected, an
uncorrectable one is counted and raises the event of the store. -/
theorem State.eccRead_cases (s : State) (x : Store) (job : Option Nat) :
    (s.eccOf x = 0 ∧ s.eccRead x job = (true, s)) ∨
    (s.eccOf x = 1 ∧ s.eccRead x job = (true, (s.eccClear x).countCe (x.occ job).pg)) ∨
    (2 ≤ s.eccOf x ∧ s.eccRead x job = (false, s.eccLost x job)) := by
  obtain h | h | h : s.eccOf x = 0 ∨ s.eccOf x = 1 ∨ 2 ≤ s.eccOf x := by omega
  · exact .inl ⟨h, by rw [State.eccRead, if_pos h]⟩
  · exact .inr (.inl ⟨h, by rw [State.eccRead, if_neg (by omega), if_pos h]⟩)
  · exact .inr (.inr ⟨h, by rw [State.eccRead, if_neg (by omega), if_neg (by omega)]⟩)

/-- A good word of a store is read without effect. -/
theorem State.eccRead_good {s : State} {x : Store} (h : s.eccOf x = 0) (job : Option Nat) : s.eccRead x job = (true, s) := by
  rw [State.eccRead, if_pos h]

/-- A transfer within a region, or by a link without an error, arrives. -/
theorem State.cross_good {s : State} {a b : Nat} (h : a = b ∨ s.eccOf (.link a b) = 0) (job : Option Nat) :
    s.cross a b job = (true, s) := by
  unfold State.cross
  split
  · rfl
  · exact State.eccRead_good (h.resolve_left ‹_›) job

/-- A frame for a unit of an unfenced region that arrives there is taken. -/
theorem State.forUnit_good {s : State} {m : Msg} {slot r : Nat} (h : s.isFenced r = false)
    (hl : portRegion m.port = r ∨ s.eccOf (.link (portRegion m.port) r) = 0) (k : State → State) : s.forUnit m slot r k = k s := by
  simp [State.forUnit, h, State.cross_good hl]

/-- A message row: the message is lost in some state, or it is accepted. -/
theorem onMsg_cases (m : RalowIn) (s : State) (f : State → State) :
    (∃ t, s.hear m = .lost t ∧ onMsg m s f = done t) ∨ (∃ t, s.hear m = .got t ∧ onMsg m s f = done (f t)) := by
  unfold onMsg
  cases s.hear m <;> simp

/-- A message row of an accepted message. -/
theorem onMsg_accepted {m : RalowIn} {s t : State} (h : Safety.accepted m s t) (f : State → State) :
    onMsg m s f = done (f t) := by
  obtain ⟨h1, ⟨h0, hp⟩, ⟨ha, hb⟩, h2, h3, h4, rfl⟩ := h
  simp [onMsg, State.hear, State.heed, State.recall, State.eccRead_good ha, State.eccRead_good hb, State.bySession, h0, hp, h1, h2, h3, h4]

/-- A command row of an accepted command. -/
theorem onCommand_commanded {m : RalowIn} {n : Nat} {ops : List Word} {roles : List Nat} {argc : Nat} {opsOk : Bool}
    {s v : State} {chit : Word} (h : Safety.commanded m n ops roles argc opsOk s chit v) (f : State → Word → State) :
    onCommand m n ops roles argc opsOk s f = done (f v chit) := by
  obtain ⟨t, u, ht, h1, h0, h2, h3, h4, h5, h6, h7, rfl⟩ := h
  have a : ¬((!m.reservedOk) = true ∨ n ≠ ops.length ∨ n > 32) := by simp only [h0, Bool.not_true, Bool.false_eq_true, false_or]; omega
  simp only [onCommand, onMsg_accepted ht, State.command, State.chitFor, h1, h5, h6, h7, if_neg a]
  simp [h4]

/-- A command row of an accepted command that needs memory, with memory ready. -/
theorem onMemCommand_commanded {m : RalowIn} {n : Nat} {ops : List Word} {roles : List Nat} {argc : Nat} {opsOk : Bool}
    {s v : State} {chit : Word} (h : Safety.commanded m n ops roles argc opsOk s chit v) (hm : v.memReady = true)
    (f : State → Word → State) : onMemCommand m n ops roles argc opsOk s f = done (f v chit) := by
  simp only [onMemCommand, onCommand_commanded h, if_pos hm]

/-- The row of a stream that issues an admitted instruction of its opcode. -/
theorem issue_issues {s : State} {b : Cpb} {i : StreamIx} {o : Opc} {t : Thread} (h : Safety.issues s b i o t)
    (f : Thread → Issued) : issue b i o s f = done (s.issued t (f t)) := by
  obtain ⟨h1, h2, h3, h4⟩ := h
  simp [issue, State.fetching, h1, h2, h3, h4]

/-- A reader of queues without errors comes to its own state. -/
theorem State.readingQueues_clean {s : State} {b : Nat} {qs : List Nat} (h : Safety.cleanQueues (s.cpb b) qs) (slot unit : Nat)
    (u : State) : s.readingQueues b slot unit qs u = u := by
  have h1 : (qs.find? fun q => 2 ≤ ((s.cpb b).queue q).err) = none := by
    rw [List.find?_eq_none]; intro q hq; simp [h q hq]
  have h2 : (qs.filter fun q => ((s.cpb b).queue q).err == 1) = [] := by
    rw [List.filter_eq_nil_iff]; intro q hq; simp [h q hq]
  simp [State.readingQueues, h1, h2]

/-- A stream goes on in `u`. -/
theorem State.issued_go (s u : State) (t : Thread) (f : Stream → Stream) : s.issued t (.go u f) = Safety.goesOn u t f := rfl

/-- A stream goes on in sequence after a change of its block. -/
theorem State.issued_goCpb (s : State) (t : Thread) (f : CpbSt → CpbSt) :
    s.issued t (goCpb s t f) = Safety.goesOnWith s t f := rfl

/-- Going on raises nothing. -/
@[simp] theorem goesOn_todo (u : State) (t : Thread) (f : Stream → Stream) : (Safety.goesOn u t f).todo = u.todo := rfl

/-- Going on in sequence raises nothing. -/
@[simp] theorem goesOnWith_todo (s : State) (t : Thread) (f : CpbSt → CpbSt) : (Safety.goesOnWith s t f).todo = s.todo := rfl

/-! ### The register file -/

/-- Another register reads as before. -/
theorem State.reg_setReg_ne (s : State) (v : Word) {pg off sel pg' off' sel' : Nat}
    (h : rkey pg' off' sel' ≠ rkey pg off sel) : (s.setReg pg off v sel).reg pg' off' sel' = s.reg pg' off' sel' :=
  Tbl.look_put_ne h _ _ _ _

/-- A register reads what was written, where the keys of the file rise. -/
theorem State.reg_setReg_self {s : State} (h : s.regs.rising) (pg off : Nat) (v : Word) (sel : Nat) :
    (s.setReg pg off v sel).reg pg off sel = v := Tbl.look_put_rising h

/-- Writing a register keeps the keys of the file rising. -/
theorem State.setReg_rising {s : State} (h : s.regs.rising) (pg off : Nat) (v : Word) (sel : Nat) :
    (s.setReg pg off v sel).regs.rising := Tbl.put_rising h

/-- Another table word reads as before. -/
theorem State.tbl_setTbl_ne (s : State) (v : Word) {k k' : TKind} {i w i' w' : Nat} (h : tkey k' i' w' ≠ tkey k i w) :
    (s.setTbl k i w v).tbl k' i' w' = s.tbl k' i' w' :=
  Tbl.look_put_ne h _ _ _ _

/-! ### Parts of the state by number -/

/-- Another port stays as it is. -/
theorem State.port_modPort_ne (s : State) {p q : Nat} (h : q ≠ p) (f : FabPort → FabPort) :
    (s.modPort p f).port q = s.port q := Tbl.look_put_ne h _ _ _ _

/-- Another job slot stays as it is. -/
theorem State.job_modJob_ne (s : State) {j k : Nat} (h : k ≠ j) (f : Job → Job) : (s.modJob j f).job k = s.job k :=
  Tbl.look_put_ne h _ _ _ _

/-- Another compute block stays as it is. -/
theorem State.cpb_modCpb_ne (s : State) {b c : Nat} (h : c ≠ b) (f : CpbSt → CpbSt) : (s.modCpb b f).cpb c = s.cpb c :=
  Tbl.look_put_ne h _ _ _ _

/-- Another session stays as it is. -/
theorem State.sess_modSess_ne (s : State) {i k : Nat} (h : k ≠ i) (f : Session → Session) :
    (s.modSess i f).sess k = s.sess k := Tbl.look_put_ne h _ _ _ _

/-- Another channel stays as it is. -/
theorem State.chan_modChan_ne (s : State) {c k : Nat} (h : k ≠ c) (f : Chan → Chan) :
    (s.modChan c f).chan k = s.chan k := Tbl.look_put_ne h _ _ _ _

end Sys2Proof.Machine
end

