-- ==== Sys2Proof/Tests/Slice0.lean ====
section
/-!
SUPPORT. The modeller's own tests: refused operands, worked examples of the spec, and for every statement of
Certificates/Slice0/Obligations.lean a concrete state and operands that meet its hypotheses together, clause by
clause at the ends of their ranges.
-/

namespace Sys2Proof.Tests

set_option Elab.async false

open Sys2Proof Sys2Proof.Machine Sys2Proof.Safety

/-! ### Well-formedness: one ill-formed term for each check -/

/-- A message on host port 0 for session slot 0. -/
def msg : RalowIn :=
  { port := 0, src := 5, dport := 6980, header := 0x10000000000000000000000100000000, bodyLen := 0, whole := true, tagOk := true }

/-- R353: a code that the spec lists is no unknown command. -/
theorem test_wf_unknown_command :
    Instr.wf (.unknownCommand msg 0x0B 0 []) = false ∧ Instr.wf (.unknownCommand msg 0x0C 0 []) = true ∧
    Machine.exec (.unknownCommand msg 0x01 0 []) State.reset = .refused .illFormed := ⟨by decide, by decide, rfl⟩

/-- R338: a COMMAND is no message of a reserved kind, a REPLY from a host is. -/
theorem test_wf_reserved_kind :
    Instr.wf (.reservedKindMessage msg 0x1 []) = false ∧ Instr.wf (.reservedKindMessage msg 0x5 []) = true ∧
    Machine.exec (.reservedKindMessage msg 0x3 []) State.reset = .refused .illFormed := ⟨by decide, by decide, rfl⟩

/-- R270: a memory channel has no DFE, a port no DQ strobes. -/
theorem test_wf_cal_step :
    Instr.wf (.calStepStart (.channel 0) (.dfeReseed 0)) = false ∧ Instr.wf (.calStepStart (.port 0) .dqRetrain) = false ∧
    Machine.exec (.calStepStart (.port 511) .fullRetrain) State.reset = .refused .illFormed := ⟨by decide, by decide, rfl⟩

/-- R432: a reading gives all 100 sensors. -/
theorem test_wf_sensor_read :
    Instr.wf (.sensorRead { temps := List.replicate 99 none, vin := 0, iin := 0, pin := 0 }) = false ∧
    Instr.wf (.sensorRead { temps := List.replicate 100 none, vin := 0, iin := 0, pin := 0 }) = true := by decide

/-- R411: a region has no link to itself. -/
theorem test_wf_region_link :
    Instr.wf (.regionLinkDown 2 2) = false ∧ Machine.exec (.regionLinkDown 2 2) State.reset = .refused .illFormed := ⟨by decide, rfl⟩

/-- R346: a register address is a multiple of 4. -/
theorem test_wf_register_address :
    Instr.wf (.registerWrite 0 0x6 0) = false ∧ Instr.wf (.rclRead 0 0x5) = false ∧ Instr.wf (.counterLowRead 0 0x7) = false ∧
    Machine.exec (.rclRead 0 0x1) State.reset = .refused .illFormed := ⟨by decide, by decide, by decide, rfl⟩

/-! ### Worked examples of the spec -/

/-- R455: a page is bits [25:14] of an address and an offset bits [13:0]; the page of the fault aggregator is 0xC04. -/
theorem test_register_address : (0x03010104 / 2 ^ 14, 0x03010104 % 2 ^ 14) = (pgFlt, 0x104) := by decide

/-- R94: CRC-32C of the digits 1 to 9, the check value of the polynomial named. -/
theorem test_crc32c : crc32c [0x31, 0x32, 0x33, 0x34, 0x35, 0x36, 0x37, 0x38, 0x39] = 0xE3069283#32 := by decide +kernel

/-- R63: the residue of -1 is 254, of 255 it is 0. -/
theorem test_residue : residueOf (BitVec.ofInt 192 (-1)) = 254 ∧ residueOf 255 = 0 ∧ residueOf 256 = 1 := by decide

/-- R56: at F = -50 and G = 12 no finite binary32 is infinite; at G = 24 the largest is. -/
theorem test_infinite_addend :
    addendF32 (-50) 12 0x7F7FFFFF ≠ .inf false ∧ addendF32 (-50) 24 0x7F7FFFFF = .inf false ∧
    addendF32 (-50) 12 0x00000001 = .finite 0 true := by decide

/-- R166: a shift takes the low 6 bits, SRA fills with the sign, MOVHI joins two halves. -/
theorem test_alu :
    aluFn 0x05 1 65 = 2 ∧ aluFn 0x07 0x8000000000000000 63 = 0xFFFFFFFFFFFFFFFF ∧
    aluFn 0x11 0xAAAAAAAA00000001 2 = 0x0000000200000001 := by decide

/-- R317: offset 0x2040 of a chip window with `lo` 3 lies on channel 0, which 1 xor 1 gives, in the next burst. -/
theorem test_place :
    let w : Window :=
      { index := 0, lo := 3, valid := true, size := 1, scopeRegion := false, region := 0, progLd := true, progSt := true,
        epRead := true, epWrite := true, hostRead := true, hostWrite := true, owner := 0 }
    w.place 0x2040 = (0, 3 * 2 ^ 20 + 64) ∧ w.place 0x40 = (1, 3 * 2 ^ 20) := by decide

/-! ### Witnesses: steps -/

/-- A running module with nothing configured, 10 s after its release. -/
def on : State :=
  { State.reset with
    now := 10 ^ 10
    pwr := { State.reset.pwr with inReset := false, aux := true, rails := true, pwrEn := true, pgood := true }
    boot := { State.reset.boot with fwRun := true }
    sec := { State.reset.sec with pufOk := true } }

/-- StepRunsFront, IdleStep: queues with and without a command, a state in reset, every orbit state named. -/
theorem wit_steps :
    State.reset.pending = [] ∧ State.reset.awake = false ∧ on.awake = true ∧
    ({ on with orb := { on.orb with st := .locked } } : State).orb.masterStopped = false ∧
    on.orb.st = .unlocked ∧ ({ on with orb := { on.orb with st := .locking } } : State).orb.st = .locking ∧
    ({ on with orb := { on.orb with st := .held } } : State).orb.st = .held ∧
    ({ on with orb := { on.orb with st := .lost } } : State).orb.st = .lost := by decide

/-- The interpolation stops one unit short of the next mark (R252). -/
theorem test_idle_stops_short :
    ({ on with orb := { on.orb with st := .locked, f := 0xFFFFFFFE, inc := 5 } } : State).idle.orb.f = 0xFFFFFFFF := by decide

/-- StepKeepsSettled: a settled state and a step to a next state. -/
theorem wit_settled : settled on ∧ ∃ t, step on = .next t := ⟨rfl, on.idle, rfl⟩

/-- OnlyIllFormedStops: a well-formed and an ill-formed command. -/
theorem wit_stops : Instr.wf .resetN = true ∧ Instr.wf (.regionLinkDown 0 0) = false := by decide

/-! ### A configured module -/

/-- Session slot 0 open with role `r`. -/
def as (r : Fin 5) (s : State) : State := s.modSess 0 fun x => { x with st := .opened, role := r }

/-- Every memory block ready and its channels trained. -/
def ready (s : State) : State :=
  let s := (List.range 32).foldl (fun s m => s.setReg (pgMem m) Off.MEM_CFG 0x100) s
  { s with chans := (List.range 128).map fun c => (c, { ({} : Chan) with st := .ready }) }

/-- Table words and registers written one after the other. -/
def tabs (l : List (TKind × Nat × Nat × Word)) (s : State) : State := l.foldl (fun s x => s.setTbl x.1 x.2.1 x.2.2.1 x.2.2.2) s

/-- Job 7 in slot 3: 4 chunks of 16 elements, home region 0, group 0 of one local member, one root row to RESULT,
window 1 of 1 MiB a channel as space 2. -/
def jobTabs : List (TKind × Nat × Nat × Word) :=
  [(.job, 3, 0, 7), (.job, 3, 2, 1), (.job, 3, 3, 0), (.job, 3, 4, 4), (.job, 3, 20, 0x8001),
   (.group, 0, 0, 0x80040000), (.group, 0, 2, 7), (.member, 0, 0, 0x01000123), (.member, 0, 1, 0x80000002),
   (.plan, 3, 0, 0x1000), (.plan, 3, 9, 4), (.plan, 3, 10, 0x8004),
   (.window, 1, 0, 0x80000000), (.window, 1, 1, 1), (.window, 1, 2, 0x3F), (.window, 1, 3, 7)]

/-- Its quotas in the four regions. -/
def quotas (s : State) : State :=
  (List.range 4).foldl (fun s r =>
    let s := (s.setReg (pgSwc r) Off.SWC_REQ_MIN 64 (2048 + 3)).setReg (pgSwc r) Off.SWC_REQ_MAX 1024 (2048 + 3)
    let s := (s.setReg (pgRst r) Off.RST_QUOTA_MIN 64 3).setReg (pgRst r) Off.RST_QUOTA_MAX 1024 3
    let s := (s.setReg (pgSwc r) Off.SWC_REQ_MIN 2 (4 * 4096 + 3)).setReg (pgSwc r) Off.SWC_REQ_MAX 64 (4 * 4096 + 3)
    (s.setReg (pgSwc r) Off.SWC_REQ_MIN 2 (5 * 4096 + 3)).setReg (pgSwc r) Off.SWC_REQ_MAX 64 (5 * 4096 + 3)) s

/-- The module with memory ready and job 7 DEFINED in slot 3. -/
def site : State := (quotas (tabs jobTabs (ready on))).modJob 3 fun j => { j with st := .defined }

/-- Job 7 in state `st`, with its configuration changed by `f`. -/
def jobAs (st : JobState) (f : JobCfg → JobCfg) (s : State) : State :=
  s.modJob 3 fun j => { j with st := st, cfg := some (f (site.jobCfg 3)) }

/-- The state and chit after a COMMAND was accepted. -/
def afterCmd (s : State) (m : RalowIn) : State × Word :=
  match (s.modSess m.slot.val fun x => x.passed m s.now).claimChit m.slot.val (netOf m.port).val m.mirror with
  | some (c, u) => (u.reply m 0 0 c [], c)
  | none => (s, 0)

/-- The conditions of `commanded` as one test. -/
def takes (s : State) (m : RalowIn) (n : Nat) (ops : List Word) (roles : List Nat) (argc : Nat) (ok : Bool) : Bool :=
  let t := s.modSess m.slot.val fun x => x.passed m s.now
  s.awake && (s.hostPort m.port.val).rxErr == 0 && m.dport.toNat == s.ralowPort && decide (recalls s m) && m.sizeOk && s.authentic m &&
  (s.sess m.slot.val).fresh m.seq && !t.turnsAway && m.reservedOk && n == ops.length && decide (n ≤ 32) && n == argc && ok && roles.contains (t.roleOf m) && (t.claimChit m.slot.val (netOf m.port).val m.mirror).isSome

/-- Where the test holds the COMMAND is accepted. -/
theorem commanded_after {s : State} {m : RalowIn} {n : Nat} {ops : List Word} {roles : List Nat} {argc : Nat} {ok : Bool}
    (h : takes s m n ops roles argc ok = true) : commanded m n ops roles argc ok s (afterCmd s m).2 (afterCmd s m).1 := by
  simp only [takes, Bool.and_eq_true, Bool.not_eq_true', decide_eq_true_eq, beq_iff_eq] at h
  obtain ⟨⟨⟨⟨⟨⟨⟨⟨⟨⟨⟨⟨⟨⟨h1, h0⟩, hp⟩, hc⟩, h2⟩, h3⟩, h4⟩, h5⟩, hr⟩, h6⟩, h7⟩, h8⟩, h9⟩, h10⟩, h11⟩ := h
  obtain ⟨⟨c, u⟩, hu⟩ := Option.isSome_iff_exists.1 h11
  refine ⟨_, u, ⟨h1, ⟨h0, hp⟩, hc, h2, h3, h4, rfl⟩, h5, hr, h6, h7, h8, h9, h10, ?_, ?_⟩ <;> simp only [afterCmd, hu]

/-- A message of the session that the tests use is accepted. -/
theorem accepted_msg (r : Fin 5) : accepted msg (as r on) ((as r on).modSess 0 fun x => x.passed msg on.now) :=
  ⟨rfl, ⟨rfl, by revert r; decide +kernel⟩, by revert r; decide +kernel, by decide +kernel, by revert r; decide +kernel, by revert r; decide +kernel, rfl⟩

/-! ### Witnesses: sessions -/

/-- A session that has seen `seq` 1, with and without its REPLY kept. -/
def seen (keep : Bool) : State :=
  (as 0 on).modSess 0 fun x =>
    { x with seen := [1], rxMax := 1, kept := if keep then [(1, { kind := 5, slot := 0, epoch := 0, seq := 1, ref := 1, dest := none, body := [] })] else [] }

/-- MessageAcceptance: each clause. -/
theorem wit_message_acceptance :
    State.reset.awake = false ∧ on.awake = true ∧ (on.hostPort 0).rxErr = 0 ∧ msg.dport.toNat = on.ralowPort ∧
    ({ msg with dport := 6981 } : RalowIn).dport.toNat ≠ on.ralowPort ∧ msg.sizeOk = true ∧
    ({ msg with whole := false } : RalowIn).sizeOk = false ∧ ({ msg with bodyLen := 1 } : RalowIn).sizeOk = false ∧ ((on.modHost 7 fun x => { x with rxErr := 2 }).hostPort 7).rxErr = 2 ∧
    recalls (as 0 on) msg ∧ 2 ≤ ({ as 0 on with ecc := [(Store.key (.session 0), 2)] } : State).eccOf (.session 0) ∧
    2 ≤ ({ as 0 on with ecc := [(Store.key (.keys 0), 2)] } : State).eccOf (.keys 0) ∧
    (as 0 on).authentic msg = true ∧ on.authentic msg = false ∧
    (as 0 on).authentic { msg with tagOk := false } = false ∧
    ((seen true).sess 0).fresh 1 = false ∧ (((seen true).sess 0).kept.find? fun k => k.1 == 1).isSome = true ∧
    (((seen false).sess 0).kept.find? fun k => k.1 == 1) = none ∧ (seen true).authentic msg = true := by decide +kernel

/-- R342: a `seq` 64 below the highest is stale, one 63 below it is not. -/
theorem test_seq_window :
    ({ (({} : Session)) with rxMax := 64 }).fresh 0 = false ∧ ({ (({} : Session)) with rxMax := 64 }).fresh 1 = true := by decide +kernel

/-- AcceptedRecorded, ReplyKept, ChitLayout: sessions with rising keys, an accepted message, a claim. -/
theorem wit_sessions :
    (as 0 on).sessions.rising ∧ accepted msg (as 0 on) ((as 0 on).modSess 0 fun x => x.passed msg on.now) ∧
    ((as 0 on).claimChit 0 0 false).isSome = true ∧
    (let e := Emission.ralow { kind := 5, slot := 0, epoch := 0, seq := 1, ref := 1, dest := some (7, 5), body := [] }
     on.txPaused e = false ∧ (on.modHost 7 fun x => { x with pausedUntil := some (on.now + 1) }).txPaused e = true ∧
     (on.modHost 7 fun x => { x with pausedUntil := some on.now }).txPaused e = false) :=
  ⟨by unfold Tbl.rising; decide, accepted_msg 0, by decide, by decide⟩

/-- A HOST_HELLO of the right form. -/
def hello : HandshakeIn := { port := 0, src := 5, dport := 6980, slot := 0, hs := 9, partsOk := true, payload := List.replicate 1216 0 }

/-- A slot in handshake since 8 s. -/
def shaking : State := on.modSess 0 fun x => { x with st := .handshake, hs := 9, hsAt := 8 * 10 ^ 9 }

/-- A chain of a self-signed OPERATOR. -/
def verdict : AuthVerdict := { chainOk := true, validNow := true, rootKey := 1, selfSigned := true, sigOk := true, role := some 0 }

/-- HandshakesComplete: each clause; the timeout at 2 s exactly. -/
theorem wit_handshakes :
    on.answersHands = true ∧ reaches on hello.port hello.dport ∧ hello.payload.length = 1216 ∧ (on.handSlots.find? fun k => (on.sess k).hs == hello.hs) = none ∧
    on.handSlots.length < 4 ∧ (leastBelow 16 fun k => (on.sess k).st == .free) = some 0 ∧
    (shaking.sess 0).st = .handshake ∧ (shaking.sess 0).hs = hello.hs ∧ shaking.authCheck hello verdict = .ok 0 ∧
    (shaking.sess 0).hsAt + 2000000000 ≤ shaking.now :=
  ⟨rfl, ⟨rfl, by decide +kernel⟩, List.length_replicate, rfl, by decide, rfl, rfl, rfl, rfl, by decide⟩

/-- A delivery that was last sent at release, and a final record. -/
def record : ChitRec :=
  { chit := 5, region := 0, unit := 5, sess := 0, epoch := 0, net := 0, mirror := false, final := true,
    deliveries := [{ rseq := 0, bytes := [], unit := none, lastSent := 0 }] }

/-- A module long on, with a record. -/
def late : State := { as 0 on with now := 10 ^ 14, chits := [record], sec := { on.sec with maintOpen := true } }

/-- SessionRowsComplete: each clause. -/
theorem wit_session_rows :
    ([] : List Byte).length % 8 = 0 ∧ (late.sess 0).st = .opened ∧
    late.now - (late.sess 0).lastMsg ≥ late.rfld pgMgt Off.MGT_SESS_IDLE 0 16 * 1000000000 ∧
    (late.resendDue 5 0).isSome = true ∧ (late.chit 5).isSome = true ∧ record.final = true ∧
    late.now - record.finalAt ≥ late.rfld pgMgt Off.MGT_CPL_HOLD 0 16 * 1000000000 ∧ late.sec.maintOpen = true ∧
    late.sec.maintAt + late.rfld pgSec Off.SEC_MAINT_TMO 0 8 * 60 * 1000000000 ≤ late.now := by decide +kernel

/-- A read of one word of window 1 at its end, and the body of a write there. -/
def memBody (write : Bool) : List Byte :=
  leBytes 2 1 ++ leBytes 2 0 ++ leBytes 8 (2 ^ 27 - 16) ++ leBytes 4 16 ++ (if write then List.replicate 16 1 else [])

/-- RequestsComplete: a batch of one read, memory requests at the last word of the window. -/
theorem wit_requests :
    batchOk (leBytes 8 0x03010104) = true ∧ memLayout (memBody false) false = true ∧ memLayout (memBody true) true = true ∧
    (site.memCheck 1 (2 ^ 27 - 16) 16 false).isOk = true ∧ (site.memCheck 1 (2 ^ 27 - 16) 16 true).isOk = true ∧
    (site.memCheck 1 (2 ^ 27) 16 true).isOk = false ∧ (as 2 site).memWaits 1 = false ∧
    (match (site.readRange (site.winEntry 1) (2 ^ 27 - 16) 16).1 with | .ok _ => true | .ue .. => false) = true ∧
    (as 2 site).roleOf msg = 2 ∧ knownCommand 0x0C = false ∧ reservedKind 0x5 = true ∧ msg.reservedOk = true := by decide +kernel

/-- BatchStops, AccessOrder: an operation that stops a batch, one that does not. -/
theorem wit_batch :
    ((as 0 on).access 0 0x0 none).status = 0 ∧ ((as 0 on).access 0 0x3FFFFFC none).status = 2 ∧
    ((as 3 on).access 0 (pgOrb * 2 ^ 14 + Off.ORB_CTRL) (some 1)).status = 3 ∧
    (({ as 0 on with flt := { on.flt with fenced := [0] } } : State).access 0 (pgFab 0 * 2 ^ 14 + 0x80) none).status ∈ [2, 4] := by decide +kernel

/-! ### Witnesses: long commands -/

/-- Each command of JobCommandsComplete is accepted, from a session of a role listed for it. -/
theorem wit_job_commands_accepted :
    takes (as 2 site) msg 3 [3, 0, 0] [2] 3 (opw [3, 0, 0] 0 ≤ 1023) = true ∧
    takes (as 0 (jobAs .running id site)) msg 2 [3, 0] [2, 0] 2 (opw [3, 0] 0 ≤ 1023 && opw [3, 0] 1 ≤ 1) = true ∧
    takes (as 2 site) msg 7 [1, 0, 0, 1, 1, 1, 1] [2] 7 true = true ∧
    takes (as 2 site) msg 7 [3, 0, 7, 2, 0, 0, 64] [2] 7 (opw [3, 0, 7, 2, 0, 0, 64] 0 ≤ 1023) = true := by decide +kernel

/-- JobCommandsComplete: arm. -/
theorem wit_arm :
    let v := (afterCmd (as 2 site) msg).1
    v.memReady = true ∧ v.armCheck 3 (v.jobCfg 3) = none := by decide +kernel

/-- JobCommandsComplete: retire of an ARMED, a RUNNING and a DEFINED job. -/
theorem wit_retire :
    let v := (afterCmd (as 0 (jobAs .running id site)) msg).1
    let u := (afterCmd (as 0 (jobAs .armed id site)) msg).1
    (v.job 3).st = .running ∧ (v.job 3).cfg.isSome = true ∧ (u.job 3).st = .armed ∧
    ((afterCmd (as 2 site) msg).1.job 3).st = .defined := by decide +kernel

/-- JobCommandsComplete: a load of the last group and the last member, and of a program for the last block of region 0. -/
theorem wit_loads :
    let v := (afterCmd (as 2 site) msg).1
    let x := GroupLoad.of [1, 0, 0, 4095, 1, 262143, 1]
    v.groupLoadLocked x = false ∧ (v.validWin x.win).isSome = true ∧ x.g + x.ng ≤ 4096 ∧ x.m + x.nm ≤ 262144 ∧
    (v.winEntry 1).hostRead = true ∧ x.off + x.bytes ≤ (v.winEntry 1).bytes ∧ v.winFenced (v.winEntry 1) = false ∧
    (match (v.readBytes (v.winEntry 1) x.off x.bytes).1 with | .ok _ => true | .ue .. => false) = true ∧
    (v.loadWin 3 2 0 64).isSome = true ∧ v.isFenced 0 = false := by decide +kernel

/-- A slice of job 7 in space 2. -/
def slice5 : SliceCfg :=
  { index := 5, first := 0, valid := true, nchunk := 4, unit := 1, region := 0, cpb := 0, feedq := 1, distq := 2, desc := 2,
    planes := 1, feedOrder := false, freezeEn := false, sbuf := 1, owner := 7, dgroup := 0, win := 2, off := 0 }

/-- Job 7 running with its slice fed. -/
def fed (c : JobCfg) : JobCfg :=
  { c with slices := [slice5], plan := { c.plan with rows := c.plan.rows.map fun r => { r with dest := 0 } } }

/-- A running job with a slice, and a checkpoint under way for it that has all its slices. -/
def sliced : State :=
  { jobAs .running fed site with ckpts := [{ chit := 5, slot := 3, first := 5, count := 1, step := 0, win := 2, off := 0x100000, done := 1 }] }

/-- MemoryCommandsComplete: each clause. -/
theorem wit_memory_commands :
    takes (as 2 site) msg 7 [1, 0, 0, 16, 0, 0, 0] [2] 7 true = true ∧
    takes (as 2 site) msg 8 [1, 0, 0, 1, 16, 0, 16, 0] [2] 8 true = true ∧
    takes (as 2 sliced) msg 7 [3, 5, 1, 0, 2, 0x100000, 0] [2] 7 (opw [3, 5, 1, 0, 2, 0x100000, 0] 0 ≤ 1023) = true ∧
    (let v := (afterCmd (as 2 site) msg).1
     v.memReady = true ∧ (v.memCheck 1 0 16 true).isOk = true ∧ (v.memCheck 1 0 16 false).isOk = true) ∧
    (let v := (afterCmd (as 2 sliced) msg).1
     let c := v.cfgNow 3
     c.sliceRun 5 1 = some [slice5] ∧ (c.window 2).isSome = true ∧ (v.readCommit c slice5).isSome = true ∧
     c.imageOk [slice5] 2 0x100000 = true) ∧
    (sliced.ckpts.find? fun k => k.chit == 5).isSome = true ∧
    (match sliced.ckpts with | k :: _ => (sliced.ckptStep k).isSome | [] => false) = true := by decide +kernel

/-- Firmware staged: a header of version 0 with no code. -/
def staged : State := as 0 { on with sec := { on.sec with stage := Memory.write [] 0 (leBytes 4 0x534B4657) } }

/-- OtherCommandsComplete: update of the smallest image. -/
theorem wit_update :
    takes staged msg 1 [0x1500] [0] 1 true = true ∧
    staged.updateCheck 0x1500 (Memory.bytes staged.sec.stage 0 0x1500) { keyOk := true, sigOk := true, flashOk := true } = none := by
  decide +kernel

/-- Port 0 enabled, in UP. -/
def portUp (s : State) : State :=
  (s.setReg (pgFab 0) Off.FAB_BLK_MODE 0x100).modPort 0 fun x => { x with st := .up }

/-- A running swap whose marks are over, with nothing in flight, and with a descriptor still queued. -/
def swapping (busy : Bool) : State :=
  let d : Desc := { buf := 0, len := 64, key := none, affected := true }
  { on with
    orb := { on.orb with marks := 9 }
    sw := { on.sw with swap := some { chit := 5, classes := 0, limit := 9, startMark := 0 } }
    ports := if busy then [(0, { ({} : FabPort) with egress := [(0, [d])] })] else [] }

/-- OtherCommandsComplete: retrain, swap, report. -/
theorem wit_other_commands :
    takes (as 1 (portUp on)) msg 2 [0, 1] [1] 2 (opw [0, 1] 1 ≤ 1) = true ∧
    takes (as 1 on) msg 3 [0, 9, 1] [1] 3 (opw [0, 9, 1] 2 ≤ 1) = true ∧
    (let v := (afterCmd (as 1 (portUp on)) msg).1
     v.portEnabled 0 = true ∧ v.isFenced 0 = false ∧ (v.port 0).retrain = none ∧ (v.port 0).st ≠ .failed) ∧
    (let v := (afterCmd (as 1 on) msg).1
     v.sw.swap = none ∧ v.shadowOk = true ∧ v.reportSlots 0xFFFFFFFF = some []) ∧
    (swapping false).sw.swap.isSome = true ∧ (swapping false).swapInflight = 0 ∧ (swapping true).swapInflight ≠ 0 ∧
    (swapping true).orb.marks - 0 ≥ 9 ∧ msg.reservedOk = true := by decide +kernel

/-- OtherCommandsComplete: a report of no job has at most 256 KiB. -/
theorem wit_report (v : State) (nonce : List Word) (h : nonce.length = 8) : (v.report nonce []).length ≤ 2 ^ 18 := by
  have le : ∀ (n x : Nat), (leBytes n x).length = n := by
    intro n
    induction n with
    | zero => intro x; rfl
    | succ n ih => intro x; simp [leBytes, ih]
  have dg : ∀ d, (digestBytes d).length = 32 := by intro d; simp [digestBytes, le]
  have pd : ∀ l : List Byte, (padTo 3309 (l.take 3309)).length = 3309 := by intro l; simp only [padTo, List.length_append, List.length_replicate, List.length_take]; omega
  have wb : (wordBytes nonce).length = 32 := by simp [wordBytes, le, h, List.map_const']
  have bd : ∀ b : Bank, b.digest.length = 32 := by
    intro b; simp only [Bank.digest, padTo, slice, List.length_append, List.length_replicate, List.length_take]; omega
  simp only [State.report, State.reportBody, List.length_append, le, dg, bd, pd, wb, List.flatMap_nil, List.length_nil]
  omega

/-- CommandRejections: each clause. -/
theorem wit_rejections :
    ({ as 0 on with flt := { on.flt with chipFatal := true } } : State).turnsAway = true ∧ (as 0 on).turnsAway = false ∧
    ({ msg with header := msg.header ||| (4#128 <<< 112) } : RalowIn).reservedOk = false ∧ msg.reservedOk = true ∧ 1 ≠ ([] : List Word).length ∧ [1].contains ((as 0 on).roleOf msg) = false ∧ [0].contains ((as 0 on).roleOf msg) = true ∧
    ({ as 0 on with flt := { on.flt with fenced := [0, 1, 2, 3] } } : State).claimChit 0 0 false = none := by decide +kernel

/-! ### Frames -/

/-- Endpoint 5 with the LFP port 9000, port 0 UP with cells for every class, job 7 running with its instance 0 open. -/
def wire (f : JobCfg → JobCfg) : State :=
  let s := portUp (jobAs .running f site)
  let s := ((s.setReg pgMgt Off.MGT_POSITION 0x80000005).setReg (pgSwc 0) Off.SWC_FAB_V4 10).setReg (pgSwc 0) Off.SWC_LFP_UDP_PORT 9000
  let s := (List.range 8).foldl (fun s tc =>
    (s.setReg (pgSwc 0) Off.SWC_REQ_MIN 64 (ingressReq 0 tc 0)).setReg (pgSwc 0) Off.SWC_REQ_MAX 64 (ingressReq 0 tc 0)) s
  s.modJob 3 fun j => { j with inst := { j.inst with phase := .opened } }

/-- A UDP datagram over IPv4 to an endpoint with the UDP port and the data given. -/
def ipv4 (dest port : Nat) (data : List Byte) : List Byte :=
  fixSum4 (List.replicate 12 0 ++ [8, 0, 0x45, 0] ++ beBytes 2 (28 + data.length) ++ [0, 0, 0, 0, 64, 17, 0, 0] ++
    beBytes 4 (10 * 2 ^ 24 + 6) ++ beBytes 4 (10 * 2 ^ 24 + dest) ++ beBytes 2 port ++ beBytes 2 port ++ beBytes 2 (8 + data.length) ++
    [0, 0] ++ data)

/-- A frame of this kind on port 0. -/
def onWire (data : List Byte) : Arrival := { port := 0, bytes := ipv4 5 9000 data, fecOk := true, fcsOk := true }

/-- The header of a message of job 7 of a type. -/
def hdr (type : Nat) : LfpHeader :=
  { version := 1, type := type, tc := (typeTc type).getD 0, flags := 0, job := 7, group := 0, member := 0, format := 0,
    cls := 0, step := 0, chunk := 0, attempt := 0, elemOffset := 0, count := 0 }

/-- The row takes the frame as a message of the job with a configuration, and `f` holds of it. -/
def took (s : State) (a : Arrival) (mine : Msg → Bool) (f : State → Msg → JobCfg → Bool) : Bool :=
  match s.receive a mine with
  | .got t m =>
    t.slotOf m.h.job == some 3 &&
    (match (t.job 3).cfg with | some c => (t.job 3).accepts m.h && f t m c | none => false)
  | _ => false

/-- Such a frame is delivered. -/
theorem took_delivers {s : State} {a : Arrival} {mine : Msg → Bool} {f : State → Msg → JobCfg → Bool} (h : took s a mine f = true) :
    ∃ t m c, delivers s a mine t m 3 c ∧ f t m c = true := by
  unfold took at h
  split at h
  · rename_i t m hr
    simp only [Bool.and_eq_true, beq_iff_eq] at h
    obtain ⟨hs, h⟩ := h
    split at h
    · rename_i c hc
      simp only [Bool.and_eq_true] at h
      exact ⟨t, m, c, ⟨hr, hs, hc, h.1⟩, h.2⟩
    · exact absurd h (by decide)
  · exact absurd h (by decide)

/-! ### Witnesses: collectives -/

/-- A chunk of the open instance, one contributor and one segment. -/
def chunk (i : Nat) : Chunk := { slot := 3, region := 0, step := 0, attempt := 0, index := i, cell := 0, len := 16, c := 1, s := 1 }

/-- The running job with chunks. -/
def chunked (f : JobCfg → JobCfg) (l : List Chunk) : State :=
  { wire f with red := { (wire f).red with chunks := l } }

/-- The plan of a leaf: its parent is group 1, member 2. -/
def leaf (c : JobCfg) : JobCfg :=
  { c with plan := { c.plan with readyWait := true, rows := [{ first := 0, count := 4, role := 1, s := 1, dest := 0, rgroup := 0, upDest := 9, upGroup := 1, upMember := 2, upS := 1 }] } }

/-- The conditions of the last clause of ContributionsComplete as one test. -/
def contributes (part : Bool) (t : State) (m : Msg) (c : JobCfg) : Bool :=
  !(t.job 3).late && !t.isFenced (c.home m.h.chunk) && decide (arrives t m (c.home m.h.chunk)) && (t.job 3).names m.h &&
  (match t.chunkOf 3 (word m.h.step) (BitVec.ofNat 8 m.h.attempt) m.h.chunk, c.rowOf m.h.chunk with
   | some k, some (_, row) =>
     formatOk c.cgrp row (!part) m.h.format m.h.cls &&
     (match segmentOf k m.h with | some seg => !k.arrived.contains (m.h.member * k.s + seg) && !partialBad m.h m.payload | none => false)
   | _, _ => false)

/-- ContributionsComplete: a CONTRIB and a Class T PARTIAL of the last segment of the last chunk, in 16 segments. -/
theorem wit_contributions :
    let s := chunked id [{ chunk 3 with s := 16 }]
    took s (onWire (lfpBytes { hdr 0 with chunk := 3, count := 1, elemOffset := 15 } (List.replicate 4 0)))
      (fun m => m.h.type == 0) (contributes false) = true ∧
    took s (onWire (lfpBytes { hdr 1 with chunk := 3, count := 1, elemOffset := 15, format := 0xD } (List.replicate 24 0)))
      (fun m => m.h.type == 1) (contributes true) = true := by decide +kernel

/-- A message of a type with the payload given. -/
def said (h : LfpHeader) (payload : List Byte) : Msg := { port := 0, src := 6, v6 := false, h := h, payload := payload }

/-- ContributionChecks: late, each check; a PARTIAL whose top two bits differ is malformed. -/
theorem wit_contribution_checks :
    let s := chunked id [chunk 3]
    let c := s.cfgNow 3
    let h : LfpHeader := { hdr 0 with chunk := 3, count := 16 }
    let bad : LfpHeader := { hdr 1 with chunk := 3, count := 16, format := 0xD }
    let payload : List Byte := List.replicate 23 0 ++ [0x40] ++ List.replicate 360 0
    ((s.modJob 3 fun j => { j with lateOf := some (0, 0) }).job 3).late = true ∧ (s.job 3).late = false ∧
    c.home h.chunk = 0 ∧ ({ s with ecc := [(Store.key (.link 3 0), 2)] } : State).eccOf (.link 3 0) = 2 ∧ portRegion 511 = 3 ∧
    (c.rowOf 3).map (·.1) = some 0 ∧ s.chunkOf 3 0 0 2 = none ∧ (s.job 3).names { h with attempt := 1 } = false ∧ (s.job 3).names h = true ∧
    s.chunkOf 3 0 0 3 = some (chunk 3) ∧ ((c.rowOf 3).map fun x => formatOk c.cgrp x.2 true 1 0) = some false ∧
    segmentOf (chunk 3) { h with count := 15 } = none ∧ segmentOf (chunk 3) { h with member := 1 } = none ∧
    segmentOf (chunk 3) h = some 0 ∧ { chunk 3 with arrived := [0] }.arrived.contains (0 * 1 + 0) = true ∧
    ((c.rowOf 3).map fun x => formatOk c.cgrp x.2 false 0xD 0) = some true ∧ partialBad bad payload = true := by decide +kernel

/-- The GRANT of a leaf's parent with flags. -/
def fromUp (flags : Nat) : Arrival := onWire (lfpBytes { hdr 3 with group := 1, member := 2, flags := flags } [])

/-- A notice of the only contributor with flags. -/
def fromDown (flags : Nat) : Arrival := onWire (lfpBytes { hdr 3 with flags := flags } [])

/-- NoticesComplete: each clause. -/
theorem wit_notices :
    took (wire leaf) (fromUp 0) (fun m => m.h.isGrant)
      (fun t m c => (t.job 3).names m.h && !(t.job 3).late && (match c.rowOf m.h.chunk with
        | some (_, r) => r.role == 1 && r.upGroup == m.h.group && r.upMember == m.h.member
        | none => false)) = true ∧
    took ((wire leaf).modJob 3 fun j => { j with inst := {} }) (fromUp 4) (fun m => m.h.isOpenNotice)
      (fun t m c => c.isLeaf && c.fromParent m.h && (t.job 3).st == .running && !(t.job 3).inst.passed m.h && !(t.job 3).isOpen) = true ∧
    took (wire leaf) (fromDown 2) (fun m => m.h.isSealNotice && !(wire leaf).parentNotice m.h)
      (fun t m c => c.plan.readyWait && (t.job 3).names m.h && !(t.job 3).late && c.fromContributor m.h) = true ∧
    took (wire leaf) (fromUp 2) (fun m => m.h.isSealNotice && (wire leaf).parentNotice m.h)
      (fun t m c => c.isLeaf && (t.job 3).names m.h && c.fromParent m.h) = true ∧
    took (wire leaf) (fromUp 8) (fun m => m.h.isAbandonNotice)
      (fun t m c => (t.job 3).names m.h && c.isLeaf && c.fromParent m.h) = true ∧
    took (wire leaf) (fromDown 8) (fun m => m.h.isAbandonNotice)
      (fun t m c => (t.job 3).names m.h && !c.fromParent m.h && c.fromContributor m.h) = true := by decide +kernel

/-- The job with four Comet slots and a timeout of 2 marks. -/
def comets (c : JobCfg) : JobCfg := { c with cmtBase := 1020, cmtCount := 4, cmtTmo := 2 }

/-- CometComplete: the last slot of the job; a round of 2 marks in the last slot of the region. -/
theorem wit_comet :
    took (wire comets) (onWire (lfpBytes { hdr 5 with chunk := 3, count := 4 } (List.replicate 16 0))) (fun m => m.h.type == 5)
      (fun t m c => !t.isFenced c.cmtRegion && decide (arrives t m c.cmtRegion) && t.cometCheck m.h 3 c == none) = true ∧
    (let s := { wire comets with comet := [(1023, { isOpen := true, count := 1, marks := 2 })] }
     (s.cometSlot 0 1023).isOpen = true ∧ s.isFenced 0 = false ∧
     (match s.cometOwner 0 1023 with | some (j, c) => j == 3 && decide (c.cmtTmo ≤ (s.cometSlot 0 1023).marks) | none => false) = true) := by
  decide +kernel

/-- An addend of element `i` of chunk 3. -/
def addend (i : Nat) : Addend :=
  { slot := 3, step := 0, attempt := 0, chunk := 3, tagSlot := 3, tagSeq := 3, elem := i, code := .f32 0 }

/-- ChunksComplete: an admission, a release with one token left, the last lane of the last cell. -/
theorem wit_chunks :
    (let s := chunked id []
     s.isFenced 0 = false ∧ s.slotsFrom 0 = [] ++ 3 :: [] ∧ (s.admitWaiting 0 3).isSome = true) ∧
    (let s := chunked (fun c => { c with paceRate := 1, paceBacklog := 1 }) [chunk 3]
     let s := { s with red := { s.red with pace := [(3, 65536)] } }
     let c := s.cfgNow 3
     (s.job 3).cfg.isSome = true ∧ (s.job 3).st = .running ∧ (s.job 3).isOpen = true ∧
     (s.red.chunks.find? fun k => k.ofInst 3 (s.job 3).inst.step (s.job 3).inst.attempt && k.region == 0 && s.grantsDue c k) = some (chunk 3) ∧
     65536 ≤ s.red.pace.look 0 (0 * 1024 + 3) ∧ (s.red.cellQ.look [] (0 * 16 + 0)).length < c.paceBacklog * 16384 ∧
     (c.rowOf 3).isSome = true ∧ s.grantsDue c { chunk 3 with released := true, owed := [0] } = true ∧
     s.grantsDue c { chunk 3 with released := true } = false) ∧
    takeAddend 15 [addend 0, addend 31, addend 15] = some (addend 31, [addend 0, addend 15]) := by decide +kernel

/-- LaneAdds: a good entry, one of another chunk, one whose residue does not hold. -/
theorem wit_lane :
    let e := (({ chunk 3 with proto := freshEntry false false 3 3 } : Chunk).entry 15)
    e.err = 0 ∧ e.jobSlot = 3 ∧ e.chunkSeq = 3 ∧ e.residueOk = true ∧ e.chunkSeq ≠ 2 ∧ ({ e with acc := 1 } : Entry).residueOk = false := by
  decide +kernel

/-- JobTransitionsComplete: each clause. -/
theorem wit_job_transitions :
    (let s := (wire id).modJob 3 fun j => { j with inst := { j.inst with due := true } }
     (s.job 3).isOpen = true ∧ (s.job 3).inst.due = true ∧ s.queuedInst 3 0 0 = false) ∧
    (let s := (jobAs .armed id site).modJob 3 fun j => { j with startDue := true }
     (s.job 3).st = .armed ∧ (s.job 3).startDue = true ∧ (s.job 3).cfg.isSome = true) ∧
    ((jobAs .draining id site).drained 3).isSome = true := by decide +kernel

/-! ### Witnesses: parameter service -/

/-- A window message of job 7 in space 2: 16 bytes at an offset. -/
def winHdr (write : Bool) (off : Nat) : LfpHeader :=
  { hdr (if write then 8 else 7) with chunk := 2 * 2 ^ 20 + off / 2 ^ 32, elemOffset := off % 2 ^ 32, format := 6, count := 16 }

/-- WindowMessagesComplete: a write and a read of the window's last word. -/
theorem wit_window_messages :
    let fits (t : State) (m : Msg) (_ : JobCfg) : Bool :=
      match (t.cfgNow 3).window (winSpace m.h) with
      | some w => !t.isFenced (engineOf w m.port) && decide (arrives t m (engineOf w m.port)) && t.memReady && decide ((t.cfgNow 3).winCheck (t.job 3).st m.h m.payload = 0)
      | none => false
    took (wire id) (onWire (lfpBytes (winHdr true (2 ^ 27 - 16)) (List.replicate 16 1))) (fun m => m.h.type == 8) fits = true ∧
    took (wire id) (onWire (lfpBytes (winHdr false (2 ^ 27 - 16)) (leBytes 4 16 ++ List.replicate 12 0))) (fun m => m.h.type == 7) fits = true := by
  decide +kernel

/-- A request of the engine of region 0 for a window's last word. -/
def winReq (write : Bool) : WinReq :=
  { slot := 3, isWrite := write, window := 2, tag := 0, offset := 2 ^ 27 - 16, len := 16, targets := [.local 0 6], group := 0, member := 0 }

/-- WindowMessagesComplete: the next piece and the next acknowledgement. -/
theorem wit_window_engines :
    (let s := { wire id with winq := [(0, [winReq true, winReq false])] }
     let c := s.cfgNow 3
     s.winReadHead 0 = some (winReq false) ∧
     (match c.window 2 with
      | some w => !s.winFenced w && s.winReady w && !s.isFenced 0 && (s.winPiece 0 c w (winReq false)).isSome && s.rangeWritten w (2 ^ 27 - 16) 16
      | none => false) = true) := by decide +kernel

/-- The running job with its slice fed, and its feed changed. -/
def feeding (f : Feed → Feed) : State := (wire fed).modFeed 5 f

/-- SlicesComplete: an OPEN record, a chunk of the last buffer, a commit, a PARAM of one element. -/
theorem wit_slices :
    (let s := feeding fun x => { x with pendingOpen := [(0, 0, .running)] }
     (match s.sliceOwner 5 with
      | some (j, c, x) => (s.feed 5).opened == none && s.feedRoom x && !s.openHeld j c x && s.cfgNow j == c
      | none => false) = true) ∧
    (let s := feeding fun x => { x with opened := some (0, 0), delivered := [2], freed := [2] }
     let s := { s with red := { s.red with chunks := [{ chunk 3 with phase := .waitingFeed }] } }
     (match s.sliceOwner 5 with
      | some (j, c, x) =>
        (match c.window x.win with | some w => s.winReady w | none => false) && decide (x.first ≤ 3 ∧ 3 < x.first + x.nchunk) &&
        (s.feed 5).bufferFree x 3 && (s.feed 5).bufferFree x 2 && !(s.feed 5).bufferFree x 1 &&
        (match s.chunkOf j 0 0 3 with | some k => k.phase == .waitingFeed | none => false)
      | none => false) = true) ∧
    (let s := feeding fun x => { x with opened := some (0, 0), request := true, sealed := true }
     (match s.sliceOwner 5 with
      | some (_, c, x) => (match c.window x.win with | some w => s.winReady w | none => false) && s.storesDone x && (s.feed 5).last == none
      | none => false) = true) ∧
    (let s := (feeding fun x => { x with dists := [{ gen := 1, step := 0, attempt := 0, sent := 63 }] }).modCpb 0 fun k =>
       k.modQueue 2 fun q => q.push (List.replicate 16 0)
     (match s.sliceOwner 5 with
      | some (_, c, x) =>
        let d : Dist := { gen := 1, step := 0, attempt := 0, sent := 63 }
        let n := min (paramCount (c.distFmt x)) (x.n c.len - d.sent)
        let size := storedSize (c.distFmt x) n
        let q := (s.cpb x.block).queue x.distq
        n == 1 && decide (size ≤ q.avail) && q.err == 0 &&
        (s.claimBuild
          { region := x.region, slot := some 3, hdr := paramHdr c x d n, payload := q.peek size,
            targets := ((c.group x.dgroup).getD noGroup).members.map Member.target }).isSome
      | none => false) = true) := by decide +kernel

/-! ### Witnesses: frames -/

/-- The frame passes the port block and takes a route. -/
def routed (s : State) (a : Arrival) (r : Route) : Bool :=
  match s.arrive a with | .passed _ f _ _ _ => s.routeOf a.port.val f == r | _ => false

/-- A frame of bytes on port 0. -/
def raw (b : List Byte) : Arrival := { port := 0, bytes := b, fecOk := true, fcsOk := true }

/-- The port block takes the frame for flow control. -/
def isControl (s : State) (a : Arrival) : Bool := match s.arrive a with | .control => true | _ => false

/-- Port 0 with a role in the active bank. -/
def role (r : Word) (s : State) : State :=
  { s with sw := { s.sw with active := s.sw.active.put 0 (rkey (pgSwc 0) Off.SWC_PORT_ATTR 0) r } }

/-- FramesComplete: each route, flow control at an edge port and from peers of the first and the last such role. -/
theorem wit_frames :
    routed (wire id) (raw (ipv4 9 9000 (lfpBytes (hdr 3) []))) .forward = true ∧
    routed (wire id) (raw (ipv4 5 9001 [0])) .maintenance = true ∧
    routed (wire id) (raw (ipv4 5 9000 (lfpBytes (hdr 2) []))) .nobody = true ∧
    (let pfc := List.replicate 12 0 ++ [0x88, 0x08, 1, 1] ++ List.replicate 44 0
     isControl (role 1 (wire id)) (raw pfc) = true ∧ isPfc pfc = true ∧ ((role 1 (wire id)).attr 0).role = 1) ∧
    (let own := List.replicate 12 0 ++ [0x88, 0xB6, 0, 1] ++ List.replicate 44 0
     isControl (role 2 (wire id)) (raw own) = true ∧ isCvfc own = true ∧
     ((role 2 (wire id)).attr 0).role = 2 ∧ ((role 5 (wire id)).attr 0).role = 5) := by decide +kernel

/-- A frame to build for a local port, whose cells are claimed. -/
def build : Build := { region := 0, slot := some 3, hdr := hdr 2, payload := [], targets := [.local 0 6], held := some (0, 1) }

/-- A stored frame of class 2. -/
def desc : Desc := { buf := 0, len := 100, cells := 1 }

/-- Port 511 in UP, with its fields changed. -/
def lastPort (f : FabPort → FabPort) : State := on.modPort 511 fun x => f { x with st := .up }

/-- SendingComplete, FrameStartTakes: each clause. -/
theorem wit_sending :
    (let s := { wire id with sw := { (wire id).sw with builds := [build] } }
     buildHeads 0 [] s.freeBuilds = [] ++ build :: [] ∧ (s.tryBuild build).isSome = true) ∧
    (let s := lastPort fun x => { x with egress := [(4, [desc])] }
     s.portUp 511 = true ∧ (s.port 511).sending = none ∧ (s.port 511).txQuiet = false ∧ (s.port 511).txHoldUntil ≤ s.now ∧
     s.calHolds 511 = false ∧ s.quiesced (pgFab (511 / 8)) = false ∧ (s.port 511).egress.look [] (2 * 2 + 0) = desc :: []) ∧
    ((lastPort fun x => { x with sending := some (desc, 4) }).port 511).sending = some (desc, 4) ∧ on.sw.refillAt + 1000 ≤ on.now ∧
    (let s := lastPort fun x => { x with stopsTx := [{ tc := 6, vc := 1, at_ := 0 }] }
     s.portUp 511 = true ∧ (s.port 511).stopsTx ≠ []) ∧
    (lastPort fun x => { x with stopsRx := [{ tc := 6, vc := 1, until_ := 10 ^ 10 }] }).pauseOver (.cls 511 6 1) = true ∧
    (on.modHost 7 fun x => { x with pausedUntil := some (10 ^ 10) }).pauseOver (.host 7) = true := by decide +kernel

/-- FrameStartTakes: tables with rising keys, a shaper in force. -/
theorem wit_frame_start :
    (lastPort fun x => { x with egress := [(4, [desc])] }).ports.rising ∧
    ((lastPort fun x => { x with egress := [(4, [desc])] }).port 511).egress.rising ∧
    ({ on with shapers := [(511 * 8 + 2, { on := true, level := 1 })] } : State).shapers.rising :=
  ⟨by unfold Tbl.rising; decide, by unfold Tbl.rising; decide, by unfold Tbl.rising; decide⟩

/-- The row takes the frame as a message that a predicate holds of. -/
def heard (s : State) (a : Arrival) (mine : Msg → Bool) : Bool := match s.receive a mine with | .got _ _ => true | _ => false

/-- The module whose orbit block has changed. -/
def orbit (f : Orb → Orb) : State := { on with orb := f on.orb }

/-- TelemetryAndModulesComplete: each clause. -/
theorem wit_telemetry :
    (orbit fun o => { o with cmapDue := [3] }).orb.cmapDue.contains 3 = true ∧
    (orbit fun o => { o with exportDue := [3] }).orb.exportDue.contains 3 = true ∧
    (orbit fun o => { o with strobeDue := [0, 5] }).orb.strobeDue = 0 :: [5] ∧
    heard (wire id) (raw (ipv4 5 9000 (lfpBytes { hdr 0xA with count := 8, format := 6 } (List.replicate 8 0)))) (fun m => m.h.type == 0xA) = true ∧
    heard (wire id) (raw (ipv4 9 9000 (lfpBytes { hdr 0xB with count := 8, format := 6 } (List.replicate 8 0)))) (fun m => m.h.type == 0xB) = true ∧
    (orbit fun o => { o with beaconDue := true, st := .locked }).orb.beaconDue = true ∧
    (lastPort id).portUp 511 = true ∧ (lastPort id).discoverSecond 511 = true ∧
    ((lastPort fun x => { x with lastDisc := some (10 ^ 10 - 1), discNow := true }).port 511).discNow = true := by decide +kernel

/-! ### Witnesses: orbit, gates, calibration -/

/-- Port 511 with BEACON ordered sets and an orbit block changed. -/
def beacons (f : Orb → Orb) : State :=
  let s := (lastPort fun x => { x with lh := true }).setReg pgOrb (Off.ORB_BEACON_EN0 + 60) 0x80000000
  { s with orb := f s.orb }

/-- OrbitComplete: each clause. -/
theorem wit_orbit :
    OrbitIn.has [1, 2] (.pin 1) = true ∧ OrbitIn.has [3] (.pin 3) = true ∧ OrbitIn.has [4] (.pin 4) = true ∧
    OrbitIn.has [1, 2] (.os 0 0 0 0) = true ∧ OrbitIn.has [4] (.os 511 0 0 0) = true ∧
    (beacons id).beaconPort 511 = true ∧ ((beacons id).port 511).heldByPeer = false ∧
    (let s := beacons fun o => { o with probes := [(511, { due := true, sent := some (7, 0) })] }
     s.beaconFree 511 = true ∧ (s.orb.probes.look {} 511).due = true ∧ (s.orb.probes.look {} 511).sent = some (7, 0)) ∧
    (orbit fun o => { o with st := .master, tint := 256, markAt := 256 * 10 ^ 10 - 256 }).masterDue = true ∧
    (orbit fun o => { o with st := .master, tint := 257, markAt := 256 * 10 ^ 10 - 256 }).masterDue = false ∧
    ((orbit fun o => { o with st := .locked, tint := 256 }).setReg pgOrb Off.ORB_SRC0 1).lossDue = true ∧
    (let s := { on.setReg pgOrb Off.ORB_PTP_CTRL 0xFF09 with wall := { on.wall with sync := some (1, 2, 3), state := 1 } }
     s.rbit pgOrb Off.ORB_PTP_CTRL 0 = true ∧ hostNet (0 : HostPort) = s.wall.net ∧
     s.rbit pgOrb Off.ORB_PTP_CTRL 3 = PtpIn.v6 (.announce true 0xFF) ∧
     s.rfld pgOrb Off.ORB_PTP_CTRL 8 8 = (PtpIn.domain (.announce true 0xFF)).toNat ∧ s.wall.sync = some (1, 2, 3) ∧ s.wall.state ≠ 0) := by
  decide +kernel

/-- R279: an offset of 6 ns, the mean of 8 and 4 ns one way, is taken off the clock. -/
theorem test_servo :
    (({ on with wall := { on.wall with ns := 1000, sync := some (100, 110, 200) } } : State).takePtp 0 (.delayResp false 0 198)).wall.ns = 994 := by
  decide +kernel

/-- An orbit that is locked at 256 units of 1/256 ns a mark unit. -/
def locked (f : Orb → Orb) : State := orbit fun o => f { o with st := .locked, tint := 2 ^ 24, last := 2 ^ 24 }

/-- GatesAndCalibrationComplete: each clause. -/
theorem wit_gates :
    (let s := (locked id).modGate 511 fun g => { g with passFrom := some 0, swapDue := true, pendingAt := some 0 }
     (s.gate 511).passFrom = some 0 ∧ (s.gate 511).err = 0 ∧ (s.port 511).sending = none ∧
     ((s.modGate 511 fun g => { g with err := 2 }).gate 511).err = 2 ∧ (s.gate 511).swapDue = true ∧ (s.gate 511).pendingAt.isSome = true ∧ s.orb.st.gated = true) ∧
    (let s := ((lastPort fun x => { x with sending := some (desc, 4) }).modGate 511 fun g =>
       { g with passFrom := some 0xFFFFFFFF, entries := [⟨0, 0xFB, 0, 0⟩, ⟨0x8000, 0xFF, 0, 0⟩] })
     (s.port 511).sending = some (desc, 4) ∧ (s.gate 511).passFrom = some 0xFFFFFFFF ∧ s.closingsSince 511 (4 / 2) 0xFFFFFFFF = 1) ∧
    (locked fun o => { o with calLeadDue := [(1023, 0xFFFFFFFF)] }).leadDue 1023 = some 0xFFFFFFFF ∧
    (locked fun o => { o with calOpenDue := [(1023, 0xFFFFFFFF)] }).openDue 1023 = some 0xFFFFFFFF ∧
    (locked fun o => { o with calLeadDue := [(1023, 5)], calOpenDue := [(1023, 5)] }).openDue 1023 = none ∧
    ((locked id).modCal 511 fun w => { w with isOpen := true, entry := 1023, endDue := true }).windowEnding 1023 = some 511 ∧
    ((beacons id).modCal 511 fun w => { w with leads := [(1023, 0)] }).beaconPort 511 = true ∧
    (let s := (locked id).modCal (512 + 127) fun w => { w with isOpen := true, requests := [.fullRetrain], endAngle := 0x7FFFFFFF }
     CalStep.fits (.channel 127) .fullRetrain = true ∧ s.stepReady (CalTarget.key (.channel 127)) .fullRetrain = true) ∧
    (((locked id).modCal (512 + 127) fun w => { w with step := some (.fullRetrain, 10 ^ 10) }).calWin (CalTarget.key (.channel 127))).step =
      some (.fullRetrain, 10 ^ 10) ∧
    (let s := (on.modPort 511 fun x => { x with st := .align }).modCal 511 fun w => { w with exitPending := true, endedAt := some (10 ^ 10 - 10000000) }
     (s.calWin 511).exitPending = true ∧ (s.port 511).st ≠ .up ∧ (s.calWin 511).endedAt = some (10 ^ 10 - 10000000) ∧
     (10 ^ 10 - 10000000) + 10000000 ≤ s.now) := by decide +kernel

/-! ### Witnesses: links and host ports -/

/-- Port 511 in a state since 10 s before. -/
def inState (st : PortState) : State := on.modPort 511 fun x => { x with st := st }

/-- LinksComplete: each clause. -/
theorem wit_links :
    (inState .cap).training 511 = true ∧ ((inState .step3).port 511).st = .step3 ∧
    (inState .step3).rbit (pgFab (511 / 8)) Off.FAB_PORT_CTRL 0 (511 % 8) = false ∧
    ((inState .step3).setReg (pgFab 63) Off.FAB_PORT_CTRL 1 7).rbit (pgFab (511 / 8)) Off.FAB_PORT_CTRL 0 (511 % 8) = true ∧
    (let s := (lastPort id).modCal 511 fun w => { w with step := some (.tapRenegotiation 7, 0) }
     s.training 511 = false ∧ s.renegotiating 511 = true) ∧
    ((inState .step3).port 511).retryAt = none ∧ (inState .align).isFenced (portRegion 511) = false ∧
    PortState.align.limit = some 10000000 ∧ ((inState .align).calWin 511).isOpen = false ∧ ((inState .align).calWin 511).exitPending = false ∧
    ((inState .align).port 511).entered + 10000000 ≤ (inState .align).now ∧
    (let s := ((inState .disabled).modPort 511 fun x => { x with retryAt := some (10 ^ 10) }).setReg (pgFab 63) Off.FAB_BLK_MODE 0x8000
     (s.port 511).retryAt = some (10 ^ 10) ∧ s.portEnabled 511 = true ∧ s.isFenced (portRegion 511) = false) ∧
    (inState .up).portUp 511 = true ∧ (inState .up).rfld (pgFab (511 / 8)) Off.FAB_HISER 0 16 < 65536 ∧
    (inState .up).portUp ((inState .up).lanePort 511) = true ∧ ((inState .up).port ((inState .up).lanePort 511)).rxQuiet = false ∧
    ((lastPort fun x => { x with rxQuiet := true }).port 511).rxQuiet = true ∧
    (((lastPort fun x => { x with peerSleep := true, idleSince := 0 }).setReg (pgFab 63) Off.FAB_PORT_CTRL 4 7).setReg (pgFab 63)
      Off.FAB_PORT_SLEEP 0xFFFF 7).quietDue 511 = true ∧
    (let s := (lastPort fun x =>
       { x with txQuiet := true, egress := [(4, [desc])], stopsTx := [{ tc := 6, vc := 1, at_ := 0 }], retrain := some 1 }).modCal 511 fun w =>
         { w with leads := [(1023, 0)] }
     (s.port 511).txQuiet = true ∧
     ∀ c ∈ [WakeCause.frameEnqueued, .flowControlDue, .calLead, .linkRetrain, .registerWrite], s.wakeCause 511 c = true) := by decide +kernel

/-- Host port 7 with its fields changed. -/
def hostAs (f : HostPortSt → HostPortSt) : State := (on.setReg pgHst Off.HST_NET_V4 0x0A000001 (hostNet (7 : HostPort))).modHost 7 f

/-- HostPortsComplete: each clause. -/
theorem wit_host_ports :
    ((hostAs fun x => { x with state := 3 }).hostPort 7).state = 3 ∧ ((hostAs fun x => { x with state := 3 }).hostPort 7).rxErr = 0 ∧
    (hostAs fun x => { x with state := 3 }).answers 7 (.arpRequest 0x0A000001) = true ∧
    (hostAs fun x => { x with state := 3 }).answers 7 (.arpRequest 0x0A000002) = false ∧
    ((hostAs fun x => { x with state := 1 }).hostPort 7).state = 1 ∧ ((hostAs fun x => { x with state := 2 }).hostPort 7).state = 2 ∧
    (let s := hostAs fun x => { x with state := 0, downAt := some (9 * 10 ^ 9) }
     (s.hostPort 7).downAt = some (9 * 10 ^ 9) ∧ 9 * 10 ^ 9 + 10 ^ 9 ≤ s.now ∧ (s.hostPort 7).state = 0) ∧
    (hostAs fun x => { x with state := 3 }).announceDue 7 = true := by decide +kernel

/-! ### Witnesses: instruction streams -/

/-- An instruction word: opcode, and fields by their lowest bit. -/
def ins (code : Nat) (fields : List (Nat × Nat)) : DWord :=
  BitVec.ofNat 64 (code * 2 ^ 58 + fields.foldl (fun n f => n + f.2 * 2 ^ f.1) 0)

/-- Stream 3 of a set of one stream: 8 words at 0x100, every resource, 64 KiB of local memory. -/
def placed : Placed :=
  { stream := 3, entry := 0, base := 0x100, len := 8, qProd := 0xFFFF, qCons := 0xFFFF, ags := 0xFF, sregs := 0xFFFFFFFF, accs := 0xFFFFFFFF,
    localBase := 0, localSize := 0x10000, extents := [{ ag := 7, lo := 0, hi := 0x10000, space := 0x10, ld := true, st := true }] }

/-- Block 7 with that stream running a word at its index 0, and changed by `f`. -/
def engine (w : DWord) (f : CpbSt → CpbSt) : State :=
  (jobAs .running id site).modCpb 7 fun c =>
    f { c with
      store := [(0x100, w)]
      streams := [(3, { st := .running })]
      sets := [{ slot := 3, jobId := 7, chit := 1, hash := 0, qFeed := 0, qDist := 0, flags := 2 ^ 64 - 1, streams := [placed], started := true }] }

/-- The stream issues an instruction of opcode `o`, and `f` holds of it. -/
def runs (s : State) (o : Opc) (f : Thread → Bool) : Bool :=
  match s.thread (7 : Cpb).val (3 : StreamIx).val with
  | some t => opcOf t.w == some o && legal t.w t.place t.set.flags && s.fetchErr t == 0 && f t
  | none => false

/-- It does. -/
theorem runs_issues {s : State} {o : Opc} {f : Thread → Bool} (h : runs s o f = true) : ∃ t, issues s 7 3 o t ∧ f t = true := by
  unfold runs at h
  split at h
  · rename_i t ht
    simp only [Bool.and_eq_true, beq_iff_eq] at h
    exact ⟨t, ⟨ht, h.1.1.1, h.1.1.2, h.1.2⟩, h.2⟩
  · exact absurd h (by decide)

/-- Scalar registers that hold values. -/
def sregs (l : List (Nat × DWord)) (c : CpbSt) : CpbSt := { c with sregs := l }

/-- The stream in a state. -/
def stream (f : Stream → Stream) (c : CpbSt) : CpbSt := c.modStream 3 f

/-- ControlInstructions: each clause, at the last instruction of the image. -/
theorem wit_control :
    runs (engine (ins 1 []) id) .halt (fun _ => true) = true ∧
    settled (engine (ins 0 []) id) ∧ runs (engine (ins 0 []) id) .nop (fun _ => true) = true ∧
    runs (engine (ins 2 [(0, 7)]) id) .jmp (fun t => (engine (ins 2 [(0, 7)]) id).inScope t 7 && !(engine (ins 2 [(0, 7)]) id).inScope t 8) = true ∧
    (let s := engine (ins 3 [(48, 5), (47, 1), (42, 31), (17, 0xFFFF), (0, 7)])
     runs (s (sregs [(31, 0xFFFFFFFFFFFFFFFF)])) .br (fun t =>
       brCond (iw t.w 48 4) (((s (sregs [(31, 0xFFFFFFFFFFFFFFFF)])).cpb 7).sreg 31) (brOperand ((s id).cpb 7) t.w) &&
       (s id).inScope t (iw t.w 0 15)) = true ∧
     runs (s id) .br (fun t => !brCond (iw t.w 48 4) (((s id).cpb 7).sreg 31) (brOperand ((s id).cpb 7) t.w)) = true) ∧
    (let s := engine (ins 4 [(42, 31), (0, 7)])
     runs (s (sregs [(31, 0x1FFFFFFFF)])) .loop (fun t => decide (t.st.pc < 7) && decide (t.st.loops.length < 4)) = true ∧
     bits ((((s (sregs [(31, 0x1FFFFFFFF)]))).cpb 7).sreg 31).toNat 0 32 = 0xFFFFFFFF ∧
     runs (s (sregs [(31, 0x100000000)])) .loop (fun t => decide (t.st.pc < 7)) = true ∧
     bits ((((s (sregs [(31, 0x100000000)]))).cpb 7).sreg 31).toNat 0 32 = 0) ∧
    runs (engine (ins 5 [(52, 63)]) id) .set (fun _ => true) = true ∧ runs (engine (ins 6 [(52, 63)]) id) .clear (fun _ => true) = true ∧
    runs (engine (ins 7 [(52, 63), (36, 1)]) fun c => c.setFlag 63 true) .wait (fun _ => true) = true ∧
    ((engine (ins 7 [(52, 63), (36, 1)]) fun c => c.setFlag 63 true).cpb 7).flag 63 = true ∧
    runs (engine (ins 8 []) id) .fence (fun _ => true) = true ∧ ((engine (ins 8 []) id).cpb 7).transfersOf 3 = [] ∧
    runs (engine (ins 9 [(35, 1)]) id) .mode (fun _ => true) = true := by
  refine ⟨?_, rfl, ?_⟩ <;> decide +kernel

/-- A queue 15 of one entry of 16 bytes, and of an open tail. -/
def queued (c : CpbSt) : CpbSt := c.modQueue 15 fun q => { q with entries := [List.replicate 16 1], tail := [1] }

/-- ScalarInstructions: each clause; the last eight bytes of the entry and one byte beyond. -/
theorem wit_scalar :
    runs (engine (ins 0x10 [(53, 31), (48, 30), (43, 29), (38, 0x11)]) id) .alu (fun _ => true) = true ∧
    runs (engine (ins 0x11 [(53, 31), (48, 30), (38, 0), (0, 0xFFFFFFFF)]) id) .alui (fun _ => true) = true ∧
    (let s := engine (ins 0x12 [(53, 31), (32, 3)])
     let four := stream fun x => { x with loops := List.replicate 4 { start := 0, last := 7, count := 9, iter := 8 } }
     runs (s four) .lidx (fun t => t.st.loops[3]?.isSome) = true ∧ runs (s id) .lidx (fun t => t.st.loops[3]? == none) = true) ∧
    runs (engine (ins 0x13 [(53, 31), (34, 15), (0, 1)]) queued) .qrd (fun t => decide (8 * iw t.w 0 7 + 8 ≤ 16)) = true ∧
    runs (engine (ins 0x13 [(53, 31), (34, 15), (0, 127)]) queued) .qrd (fun t => decide (16 < 8 * iw t.w 0 7 + 8)) = true ∧
    runs (engine (ins 0x14 [(34, 15)]) queued) .qpop (fun _ => true) = true ∧
    (((engine (ins 0x14 [(34, 15)]) queued).cpb 7).queue 15).entries = List.replicate 16 1 :: [] ∧
    ((engine (ins 0x14 [(34, 15)]) queued).cpb 7).inOrder ((engine (ins 0x14 [(34, 15)]) queued).cpb 7).issued [15] [] = true ∧
    runs (engine (ins 0x15 [(34, 15)]) queued) .qclose (fun _ => true) = true ∧
    ((engine (ins 0x15 [(34, 15)]) queued).cpb 7).inOrder 0 [] [15] = true ∧
    (((engine (ins 0x15 [(34, 15)]) queued).cpb 7).queue 15).tail ≠ [] ∧ (((engine (ins 0x15 [(34, 15)]) queued).cpb 7).queue 15).room ≠ 0 ∧
    (((engine (ins 0x15 [(34, 15)]) id).cpb 7).queue 15).tail = [] := by decide +kernel

/-- ScalarFunctions, KgroupStepAccumulates: a block's tables have rising keys. -/
theorem wit_block_tables :
    ((engine 0 (sregs [(1, 5), (31, 6)])).cpb 7).sregs.rising ∧ (engine 0 id).cpbs.rising ∧ ((engine 0 id).cpb 7).accs.rising :=
  ⟨by unfold Tbl.rising; decide +kernel, by unfold Tbl.rising; decide +kernel, by unfold Tbl.rising; decide +kernel⟩

/-- Generator 7 at an address of local memory with granules of 16 bytes. -/
def gen (a : Nat) (c : CpbSt) : CpbSt := c.modAg 7 fun g => { g with base := a, glog := 0 }

/-- The two bytes of SLD and SST16 come from the last word of the extent. -/
theorem wit_generator :
    (let s := engine (ins 0x20 [(55, 7), (48, 0x10), (38, 31), (35, 6), (0, 0xFFFFFFFF)]) id
     runs s .agbase (fun _ => true) = true ∧ ((s.cpb 7).ag 7).cur = none) ∧
    runs (engine (ins 0x21 [(55, 7), (53, 3), (33, 0), (0, 0x80000000)]) id) .agdim (fun _ => true) = true ∧
    runs (engine (ins 0x22 [(55, 7), (44, 15), (0, 0xFFFFF)]) id) .ld (fun t => !ib t.w 43 && iw t.w 0 20 != 0) = true ∧
    runs (engine (ins 0x23 [(55, 7), (44, 15), (43, 1), (38, 31)]) id) .st (fun t => ib t.w 43) = true ∧
    bits (((engine (ins 0x23 [(55, 7), (44, 15), (43, 1), (38, 31)]) id).cpb 7).sreg 31).toNat 0 32 = 0 ∧
    (let s := engine (ins 0x16 [(53, 31), (35, 7)]) (gen 0xFFF8)
     runs s .sld (fun t =>
       let a := t.access (s.cpb 7) (iw t.w 35 3) 8 8 false
       a.check == none && s.accessReady a && (match s.loadFor a with | (.ok _, _) => true | _ => false)) = true) ∧
    (let s := engine (ins 0x17 [(48, 31), (43, 30), (35, 7)]) (gen 0xFFF0)
     runs s .sst16 (fun t =>
       let a := t.access (s.cpb 7) (iw t.w 35 3) 16 16 true
       a.check == none && s.accessReady a && (s.storeChecked a (List.replicate 16 0)).1 == none) = true) := by
  decide +kernel

/-- LongInstructions: a word of each opcode, with the unit empty and three instructions in the buffer. -/
theorem wit_long :
    (∀ x ∈ [(Opc.vop, 0x28), (.vops, 0x29), (.vred, 0x2A), (.vunpk, 0x2B)],
      runs (engine (ins x.2 [(54, 15), (50, 14)]) id) x.1 (fun t => t.st.vec == []) = true) ∧
    runs (engine (ins 0x2C [(54, 15), (50, 14), (15, 2)]) id) .vcvt (fun t => t.st.vec == []) = true ∧
    (∀ x ∈ [(Opc.mma, 0x38), (.mmat, 0x39)],
      runs (engine (ins x.2 [(55, 7), (53, 3), (49, 15), (45, 14), (0, 0xFFFF)]) id) x.1 (fun t => iw t.w 0 16 != 0) = true ∧
      runs (engine (ins x.2 [(55, 7), (53, 3), (49, 15), (45, 14)]) id) x.1 (fun t => iw t.w 0 16 == 0) = true) ∧
    (∀ x ∈ [(Opc.release, 0x3A), (.zacc, 0x3B), (.accld, 0x3C)], runs (engine (ins x.2 [(55, 7), (53, 3)]) id) x.1 (fun _ => true) = true) ∧
    (((engine 0 fun c => c.modAcc 31 fun a => { a with buffer := List.replicate 3 { word := 0, stream := 3, pc := 0 } }).cpb 7).accAt 31).buffer.length = 3 := by
  decide +kernel

/-- IllegalInstruction: errors of an instruction word and of a queue, a reserved bit, an opcode outside R164, another
opcode, a halted stream. -/
theorem wit_illegal :
    (let bad (n : Nat) (c : CpbSt) : CpbSt := { c with storeErr := [(0x100, n)], queues := [(15, { err := n })] }
     let s (n : Nat) := engine (ins 0 []) (bad n)
     (match (s 2).thread 7 3 with | some t => opcOf t.w == some .nop && (s 2).fetchErr t == 2 | none => false) = true ∧
     (match (s 1).thread 7 3 with
      | some t => opcOf t.w == some .nop && legal t.w t.place t.set.flags && (s 1).fetchErr t == 1 | none => false) = true ∧
     ([14, 15].find? fun q => 2 ≤ (((s 2).cpb 7).queue q).err) = some 15 ∧ (((s 1).cpb 7).queue 15).err = 1) ∧
    (match (engine (ins 0 [(0, 1)]) id).thread 7 3 with
     | some t => opcOf t.w == some .nop && !legal t.w t.place t.set.flags | none => false) = true ∧
    (match (engine (ins 0x0A []) id).thread 7 3 with | some t => opcOf t.w == none | none => false) = true ∧
    (match (engine (ins 1 []) id).thread 7 3 with | some t => opcOf t.w != some .nop | none => false) = true ∧
    ((engine 0 (stream fun x => { x with st := .halted })).thread 7 3).isNone = true := by decide +kernel

/-- ProgramSetsComplete: each clause; a wait of the limit exactly, marks two beyond the last issue. -/
theorem wit_program_sets :
    (let l : Load := { chit := 1, slot := 3, cpb := 31, space := 2, off := 0, len := 64 }
     let s := { site with loads := [l] }
     s.loads = l :: [] ∧ l.cpb = 31 ∧ s.quiesced (pgCpb 31) = false) ∧
    (let s := (engine 0 id).modJob 3 fun j => { j with st := .draining }
     ({ s with orb := { s.orb with marks := 2 } } : State).setFinishes 7 3 = true) ∧
    (let s := (engine 0 (stream fun x => { x with st := .waiting, waitMarks := 5 })).modJob 3 fun j =>
       { j with cfg := j.cfg.map fun c => { c with waitTmo := 5 } }
     s.firstExpired 7 3 = true) := by decide +kernel

/-! ### Witnesses: units -/

/-- Generator 7 in a transfer of its last granule of 16 bytes. -/
def moving (load : Bool) : State :=
  engine 0 fun c =>
    let c := queued c
    c.modAg 7 fun g => { g with base := 0xFFF0, glog := 0, cur := some { isLoad := load, queue := 15, left := 1, stream := 3, pc := 0 } }

/-- UnitsComplete: a granule each way. -/
theorem wit_granules :
    let fits (s : State) (load : Bool) : Bool :=
      match ((s.cpb 7).ag 7).cur, s.placedOn 7 3 with
      | some x, some (p, t, c) =>
        let g := (s.cpb 7).ag 7
        let acc : Access :=
          { b := 7, slot := p.slot, cfg := c, place := t, ag := 7, space := g.space, addr := g.address, n := g.granule, align := 16, store := !x.isLoad }
        let q := (s.cpb 7).queue x.queue
        x.isLoad == load && acc.check == none && s.accessReady acc && decide (x.left ≤ 1) &&
        (if load then (s.cpb 7).inOrder x.id [] [x.queue] && (match s.loadFor acc with | (.ok _, _) => true | _ => false) && decide (2 ≤ q.room)
         else (s.cpb 7).inOrder x.id [x.queue] [] && decide (acc.n ≤ q.avail) &&
           (s.storeChecked acc (q.peek acc.n)).1 == none)
      | _, _ => false
    fits (moving true) true = true ∧ fits (moving false) false = true ∧ (moving true).isFenced (7 / 8) = false := by decide +kernel

/-- A long instruction of stream 3. -/
def long (w : DWord) : UnitOp := { word := w, stream := 3, pc := 0 }

/-- Queue 14 holds bytes. -/
def holds (n : Nat) (c : CpbSt) : CpbSt := c.modQueue 14 fun q => { q with entries := [List.replicate n 0] }

/-- UnitsComplete: a VUNPK of INT4 codes in the vector unit. -/
theorem wit_vector :
    let w := ins 0x2B [(54, 15), (50, 14), (15, 0xA)]
    let s := engine w fun c => (holds 256 c).modStream 3 fun x => { x with vec := [long w] }
    s.isFenced (7 / 8) = false ∧ s.vecTurn 7 3 = true ∧ ((s.cpb 7).stream 3).vec = [long w] ∧ (s.placedOn 7 3).isSome = true ∧
    (match opcOf w, s.placedOn 7 3 with
     | some o, some (_, _, cfg) =>
       (s.cpb 7).inOrder 0 (o.uses w).cons (o.uses w).prod &&
       (match (s.cpb 7).takeAll (vecSources o w) with
        | some (src, c, _) =>
          (c.pushAll (vecOutputs o w (vecResult o cfg (long w) src).1 (vecResult o cfg (long w) src).2.1)).isSome
        | none => false)
     | _, _ => false) = true := by decide +kernel

/-- An instruction at the head of accumulator 31's buffer. -/
def atCell (w : DWord) (f : CpbSt → CpbSt) : State := engine 0 fun c => f (c.modAcc 31 fun a => { a with buffer := [long w] })

/-- UnitsComplete, KgroupStepAccumulates: a step, a RELEASE, a ZACC and an ACCLD at the head. -/
theorem wit_cells :
    (let w := ins 0x38 [(55, 7), (53, 3), (49, 14), (45, 14), (0, 1)]
     ((atCell w id).cpb 7).accHead 31 [.mma, .mmat] = some (long w, .mma)) ∧
    (let w := ins 0x3A [(55, 7), (53, 3), (49, 15)]
     ((atCell w id).cpb 7).accHead 31 [.release] = some (long w, .release) ∧ ((atCell w id).cpb 7).inOrder 0 [] [15] = true) ∧
    (let w := ins 0x3B [(55, 7), (53, 3)]
     ((atCell w id).cpb 7).accHead 31 [.zacc] = some (long w, .zacc)) ∧
    (let w := ins 0x3C [(55, 7), (53, 3), (49, 14)]
     ((atCell w (holds 8192)).cpb 7).accHead 31 [.accld] = some (long w, .accld) ∧ ((atCell w (holds 8192)).cpb 7).inOrder 0 [14] [] = true ∧
     ((atCell w id).placedOn 7 3).isSome = true) ∧
    (let w := ins 0x38 [(55, 7), (53, 3), (49, 14), (45, 14), (37, 0), (0, 1)]
     ((atCell w fun c => c.modAcc 31 fun a => { a with intMode := true }).cpb 7).accAt 31).intMode = true := by decide +kernel

/-- UnitsComplete, KgroupStepAccumulates: panels for a step of INT4 codes and an image for ACCLD are there, and room for a tile. -/
theorem wit_cell_queues :
    (let w := ins 0x38 [(55, 7), (53, 3), (49, 14), (45, 14), (37, 7), (0, 1)]
     (((atCell w (holds 1024)).cpb 7).takeAll (stepSources w)).isSome = true ∧ (atCell w (holds 1024)).cellTurn 7 7 3 = true ∧
     ((atCell w id).cpb 7).inOrder 0 (Opc.mma.uses w).cons [] = true) ∧
    (let w := ins 0x3C [(55, 7), (53, 3), (49, 14)]
     (((atCell w (holds 8192)).cpb 7).takeAll [{ q := 14, n := 8192, keep := false }]).isSome = true ∧
     (atCell w (holds 8192)).cellTurn 7 7 3 = true) ∧
    (atCell (ins 0x3B [(55, 7), (53, 3)]) id).cellTurn 7 7 3 = true ∧ (atCell (ins 0x3A [(55, 7), (53, 3), (49, 15)]) id).cellTurn 7 7 3 = true ∧
    (let w := ins 0x3A [(55, 7), (53, 3), (49, 15)]
     (match (atCell w id).placedOn 7 3 with
     | some (_, _, cfg) =>
       (((atCell w id).cpb 7).pushAll
         [{ q := 15, pack := ib w 32, bytes := (releaseBytes cfg (((atCell w id).cpb 7).accAt 31) (long w)).1 }]).isSome
     | none => false) = true) := by decide +kernel

/-! ### Witnesses: memory -/

/-- Channel 127 with its fields changed. -/
def chan (f : Chan → Chan) : State := (ready on).modChan 127 f

/-- A write of the last word of a channel. -/
def word1 : ChReq := { addr := 20 * 2 ^ 30 - 64, words := [(3, List.replicate 16 1)] }

/-- ChannelsComplete: each clause; refresh and oscillator at their intervals exactly. -/
theorem wit_channels :
    (chan fun x => { x with queue := [word1] }).chanHead 127 = some word1 ∧
    (let s := chan fun x => { x with lastRefresh := 10 ^ 10 - 4000000, lastOsc := 10 ^ 10 - 1000000 }
     s.chanServes 127 = true ∧ (s.chan 127).lastRefresh + 4000000 ≤ s.now ∧ (s.chan 127).lastOsc + 1000000 ≤ s.now) ∧
    ((ready on).setReg (pgMem 31) Off.MEM_SCRUB_CTRL 1).scrubDue 127 = true ∧
    on.blockTrains 31 = true ∧ ((ready on).setReg (pgMem 31) Off.MEM_CFG 0).blockZeroing 31 = true ∧ (ready on).blockZeroing 31 = false := by
  decide +kernel

/-- MemoryWordWrite: the first and the last word of the memory. -/
theorem wit_memory_word :
    on.mem.wf = true ∧ on.memErr.rising ∧ (0 : Nat) % 16 = 0 ∧ (127 * 2 ^ 35 + (20 * 2 ^ 30 - 16)) % 16 = 0 ∧
    (List.replicate 16 (1 : Byte)).length = 16 ∧ (on.chan (addrChan 0)).queue = [] ∧
    (on.chan (addrChan (127 * 2 ^ 35 + (20 * 2 ^ 30 - 16)))).queue = [] ∧ (∀ k < 4, on.memErr.look 0 k ≤ 2) :=
  ⟨rfl, by unfold Tbl.rising; decide, rfl, by decide, rfl, rfl, rfl, by decide⟩

/-- A window of one scope or the other. -/
def window (region : Bool) : Window :=
  { index := 0, lo := 0, valid := true, size := 1, scopeRegion := region, region := 3, progLd := true, progSt := true,
    epRead := true, epWrite := true, hostRead := true, hostWrite := true, owner := 0 }

/-- WindowPlacement: the first and the last burst of a run, of both scopes; one offset twice. -/
theorem wit_window_placement :
    (window false).scopeRegion = false ∧ (window true).scopeRegion = true ∧
    0 / 64 ≠ 8191 / 64 ∧ 0 / (if (window false).scopeRegion then 2048 else 8192) = 8191 / (if (window false).scopeRegion then 2048 else 8192) ∧
    0 / 64 ≠ 2047 / 64 ∧ 0 / (if (window true).scopeRegion then 2048 else 8192) = 2047 / (if (window true).scopeRegion then 2048 else 8192) ∧
    (window true).place 5 = (window true).place 5 := by decide

/-! ### Witnesses: exact reduction -/

/-- An entry of one value. -/
def entryOf (v : BitVec 192) : Entry := { acc := v, residue := residueOf v }

/-- ResiduePredicted, ResidueTracks: one residue with two accumulators; the least and the greatest sum; the last bit. -/
theorem wit_residue :
    (entryOf 1).residue = ({ entryOf 1 with acc := 7 } : Entry).residue ∧ (entryOf 1).residueOk = true ∧
    -(2 ^ 191 : Int) ≤ (entryOf (1#192 <<< 191)).acc.toInt + (0 : BitVec 192).toInt ∧
    (entryOf (~~~(1#192 <<< 191))).acc.toInt + (0 : BitVec 192).toInt < 2 ^ 191 ∧
    (entryOf (1#192 <<< 191)).residueOk = true ∧ 191 < 192 := by decide +kernel

/-- ReductionIsExact: addends that are finite at both ends of `G`, an order changed, a fresh entry with two addends of the largest
size for each `k`. -/
theorem wit_reduction :
    (addendF32 (-50) 12 0x7F7FFFFF matches .finite _ _) = true ∧ (addendF32 (-50) 24 0x00000001 matches .finite _ _) = true ∧
    addendI32 0x80000000 = .finite (BitVec.ofInt 192 (-2 ^ 31)) false ∧
    [Addend2.nan, .inf true].Perm [.inf true, .nan] ∧ (entryOf 0).acc = 0 ∧
    (let l : List (BitVec 192 × Bool) := [(0x3FFFFFFFFFFFFFFFFFFFFFFFFFFFFFFFFFFFFFFFFFFFF, false), (0x3FFFFFFFFFFFFFFFFFFFFFFFFFFFFFFFFFFFFFFFFFFFF, false)]
     l.length ≤ 4096 ∧ l.all fun a => decide (a.1.toInt.natAbs < 0x400000000000000000000000000000000000000000000)) ∧
    (BitVec.ofInt 192 (-2 ^ 31)).toInt.natAbs = 2 ^ 31 := by
  refine ⟨by decide +kernel, by decide +kernel, by decide +kernel, List.Perm.swap _ _ _, rfl, by decide +kernel, by decide +kernel⟩

/-- PartialsCompose: a fresh entry that takes a finite addend and an infinity. -/
theorem wit_partials :
    let leaf := freshEntry false true 3 3
    leaf.acc = 0 ∧ leaf.posInf = false ∧ leaf.negInf = false ∧ leaf.nan = false ∧
    (([.finite 5 false, .inf true] : List Addend2).foldl accumulate leaf).wrapped = false := by decide +kernel

/-- LfpRoundTrip: a header with every field at its largest value, and one that passes the checks. -/
theorem wit_lfp :
    ({ version := 15, type := 15, tc := 7, flags := 15, job := 65535, group := 4095, member := 4095, format := 15, cls := 3,
       step := 2 ^ 32 - 1, chunk := 2 ^ 24 - 1, attempt := 255, elemOffset := 2 ^ 32 - 1, count := 65535 } : LfpHeader).fits = true ∧
    ({ hdr 8 with format := 6, count := 8192 }).fits = true ∧ (hdr 8).version = 1 ∧ typeTc (hdr 8).type = some (hdr 8).tc ∧
    storedSize 6 8192 = 8192 := by decide

/-! ### Witnesses: registers -/

/-- A module with the lock open and a session of a role. -/
def roleOn (r : Fin 5) : State := as r { on with sec := { on.sec with maintOpen := true } }

/-- The conditions of RegisterRowsComplete on a write. -/
def writes (r : Fin 5) (c : Instr) : Bool :=
  c.wf &&
  match rowWrite (roleOn r) c with
  | some x =>
    x.due && (roleOn r).canAccess x.sess.val &&
    (match pfxOf x.pg with
     | some (p, _) =>
       (match regRow p x.off with
        | some row => (roleOn r).mayWrite p x.off ((roleOn r).selected x.pg row.sel) x.sess.val x.data &&
            !(roleOn r).accessFenced p x.pg x.off ((roleOn r).selected x.pg row.sel) true
        | none => false)
     | none => false)
  | none => false

/-- The conditions of RegisterRowsComplete on a read. -/
def reads (c : Instr) : Bool :=
  c.wf &&
  match rowRead c with
  | some (i, a) =>
    on.awake && (roleOn 3).canAccess i.val &&
    (match pfxOf (a / 2 ^ 14) with
     | some (p, _) =>
       (match regRow p (a % 2 ^ 14) with
        | some row => !(roleOn 3).accessFenced p (a / 2 ^ 14) (a % 2 ^ 14) ((roleOn 3).selected (a / 2 ^ 14) row.sel) false
        | none => false)
     | none => false)
  | none => false

/-- RegisterRowsComplete: each row, by a role that may write it, in the last region or block where it names one. -/
theorem wit_register_rows :
    (∀ c ∈ [Instr.jobDefine 0 0 7, .tableWindowWrite 0 3 .slice 1, .quotaMinWrite 0 3 true 1], writes 2 c) ∧
    (∀ c ∈ [Instr.pathWeightWrite 0 3 1, .portBlockConfig 0 63 0x100, .eyeScanRequest 0 63 4, .mirrorConfig 0 3 1, .gateSwapSchedule 0 1,
        .masterEnable 0 1, .masterDisable 0 0, .masterHoldClear 0 0, .quotaMinWrite 0 3 false 1,
        .mgtModeWrite 0 1], writes 1 c) ∧
    (∀ c ∈ [Instr.mgtPositionWrite 0 0x80000005, .maintConsentO 0 2, .netcfgSave 0 1, .shutdownRequest 0 1, .sessionCloseBit 0 1,
        .anchorInstall 0 1, .anchorRemove 0 2, .stageDataWrite 0 1, .faultnRelease 0 2, .faultnTest 0 4, .faultnHoldWrite 0 1,
        .clockFloorWrite 0 1, .cfgLock 0 .clk 8, .quiesce 0 (.fab 63) 2, .resetReq 0 (.cpb 31) 4, .blkEventClear 0 .flt 0xFFFF,
        .firstErrClear 0 (.mem 31) 0x80000000, .perfSelectWrite 0 (.rdx 15) 3 4, .registerWrite 0 (BitVec.ofNat 26 (pgPwr * 2 ^ 14 + Off.PWR_CAP)) 900],
      writes 0 c) ∧
    (∀ c ∈ [Instr.maintConsentM 0 1, .maintClose 0 4, .blkEventForce 0 (.swc 3) 1], writes 4 c) ∧
    ∀ c ∈ [Instr.counterLowRead 0 (BitVec.ofNat 26 (pgOrb * 2 ^ 14 + Off.ORB_CTRL)), .rclRead 0 0, .faultLogDataRead 0, .reportDataRead 0], reads c := by
  decide +kernel

/-- AccessOrder: a mapped and an unmapped address. -/
theorem wit_mapped : (pfxOf 0).isSome = true ∧ (regRow .FAB 0).isSome = true ∧ pfxOf 0xFFF = none := by decide +kernel

/-- HeaderWrites, RegisterEffects: tables with rising keys, registers of the header, an unlocked and a locked entry, a region that is
not the lowest. -/
theorem wit_header :
    on.regs.rising ∧ on.tables.rising ∧ (site.regs.length ≠ 0) ∧
    (∀ off ∈ [Off.BLK_EVENT, Off.BLK_FIRST_ERR0, Off.BLK_PERF_SEL0, Off.BLK_PERF_SEL0 + 12, Off.BLK_FAULT_MAP, Off.BLK_CTRL],
      (regRow .CLK off).map (·.off) = some off) ∧
    on.cfgLocked pgClk = false ∧ (on.setReg pgClk Off.BLK_CTRL 8).cfgLocked pgClk = true ∧
    on.lowRegion = some 0 ∧ on.lowRegion ≠ some 3 ∧ tableMask .job 0 ≠ 0 ∧ on.lockers .job 1023 = [] ∧ (jobAs .armed id site).lockers .job 3 ≠ [] ∧
    (let s := on.setReg (pgRgc 0) Off.BLK_CTRL 8
     s.cfgLocked (pgRgc 0) = true ∧ s.lowRegion = some 0 ∧ s.memberBound 262143 = false ∧ s.lockers .member 262143 = []) ∧
    tableMask .member 1 ≠ 0 ∧
    on.rfld pgSec Off.SEC_STAGE_ADDR 0 22 = 0 ∧ Memory.wf on.sec.stage = true ∧
    (fld 0x6464 8 8 ≤ fld 0x6464 0 8 ∨ 110 ≤ fld 0x6464 8 8) ∧ 110 ≤ fld 0x6E00 8 8 := by
  refine ⟨by unfold Tbl.rising; decide, by unfold Tbl.rising; decide, by decide +kernel, ?_⟩
  decide +kernel

/-! ### Witnesses: faults, power, modes -/

/-- The clock block with a capture word. -/
def captured (w : Word) : State := on.setReg pgClk Off.BLK_FIRST_ERR0 w

/-- RaiseRecords: no capture, one of class `corrected` against each class, one of a higher class, a fenced block. -/
theorem wit_raise :
    on.regs.rising ∧ bit (on.reg pgClk Off.BLK_FIRST_ERR0) 31 = false ∧
    fld ((captured 0x80000000).reg pgClk Off.BLK_FIRST_ERR0) 4 2 = 0 ∧ bit ((captured 0x80000000).reg pgClk Off.BLK_FIRST_ERR0) 31 = true ∧
    (∃ e, e < 16 ∧ 0 < on.classOf pgClk e) ∧ (∃ e, e < 16 ∧ on.classOf pgOrb e = 0) ∧
    fld ((captured 0x80000010).reg pgClk Off.BLK_FIRST_ERR0) 4 2 ≠ 0 ∧
    ({ on with flt := { on.flt with fenced := [3] } } : State).frozen (pgSwc 3) = true ∧ on.frozen (pgSwc 3) = false :=
  ⟨by unfold Tbl.rising; decide, by decide +kernel, by decide +kernel, by decide +kernel, ⟨1, by decide +kernel⟩, ⟨5, by decide +kernel⟩,
    by decide +kernel, by decide +kernel, by decide +kernel⟩

/-- The fault aggregator changed. -/
def flt (f : Flt → Flt) : State := { on with flt := f on.flt }

/-- PinAndLock: a pin in its pulse, past it, deasserted, in a test; consents 60 s apart; a force. -/
theorem wit_pin :
    (flt fun x => { x with faultn := true }).flt.pulseEnd = none ∧ (flt fun x => { x with faultn := true, pulseEnd := some 5 }).flt.faultn = true ∧
    on.flt.faultn = false ∧ (flt fun x => { x with faultn := true, pulseEnd := some 5 }).flt.testPulse = false ∧
    (on.setReg pgFlt Off.FLT_FIRST_FATAL 0x80000000).rbit pgFlt Off.FLT_FIRST_FATAL 31 = true ∧
    ({ on with sec := { on.sec with consentM := some 0, consentO := some (60 * 10 ^ 9) } } : State).sec.maintOpen = false ∧
    max 0 (60 * 10 ^ 9) - min 0 (60 * 10 ^ 9) ≤ 60 * 10 ^ 9 ∧ (roleOn 4).mayWriteHeader Off.BLK_EVENT_FORCE 4 = true := by decide +kernel

/-- The power block changed. -/
def pwr (f : Pwr → Pwr) : State := { on with pwr := f on.pwr }

/-- A fault log record that waits. -/
def waiting : LogReq := { kind := 1, region := 3, forced := false, at_ := 0, time := 0, angle := 0, turn := 0, fltState := 0 }

/-- FaultsAndPowerComplete: each clause, the supply at each of its thresholds. -/
theorem wit_faults_power :
    on.isFenced 2 = false ∧ on.isFenced 3 = false ∧ (flt fun x => { x with queue := [waiting] }).flt.queue ≠ [] ∧
    (flt fun x => { x with writing := some waiting }).flt.writing.isSome = true ∧ (flt fun x => { x with pulseEnd := some (10 ^ 10) }).flt.pulseEnd = some on.now ∧
    3600 ≤ (3600 : BitVec 16).toNat ∧ on.pwr.aux = true ∧ (3599 : BitVec 16).toNat < 3600 ∧ on.pwr.rails = true ∧ (4399 : BitVec 16).toNat < 4400 ∧
    5750 < (5751 : BitVec 16).toNat ∧ on.awake = true ∧ 4400 ≤ (4400 : BitVec 16).toNat ∧ (4599 : BitVec 16).toNat < 4600 ∧
    (pwr fun x => { x with pwrEn := false }).pwr.pwrEn = false ∧ on.pwr.pwrEn = true ∧ (pwr fun x => { x with inReset := true }).mayLeaveReset = true ∧
    (List.replicate 100 (none : Option (BitVec 16))).length = 100 ∧ (pwr fun x => { x with stageDue := true }).pwr.stageDue = true := by decide +kernel

/-- R420: at 3,600 the auxiliary supply comes up, one below it does not. -/
theorem test_aux_level :
    (match Machine.exec (.auxPowerUp 3600) State.reset with | .next t => t.pwr.aux | _ => false) = true ∧
    (match Machine.exec (.auxPowerUp 3599) State.reset with | .next t => t.pwr.aux | _ => true) = false := by decide +kernel

/-- An active firmware over a calibration start of 5 within 3 to 9. -/
def active (old : Word) : State :=
  let s := ((on.setReg pgOrb Off.ORB_CAL_SECT_LO 3 1023).setReg pgOrb Off.ORB_CAL_SECT_HI 9 1023).setReg pgOrb Off.ORB_CAL_START old 1023
  let s := s.setReg pgMgt Off.MGT_MODE 0xFF
  { s with orb := { s.orb with st := .locked }, boot := { s.boot with autoActive := true } }

/-- ModesComplete: a decision at each end, corrections from both sides, activation, shutdown, blocks of each prefix. -/
theorem wit_modes :
    (active 5).decision (.calStart 1023) 3 = some 5 ∧ (active 5).decision (.calStart 1023) 9 = some 5 ∧ (active 5).decision (.calStart 1023) 10 = none ∧
    (active 2).correction (.calStart 1023) = some (2, 3) ∧ (active 10).correction (.calStart 1023) = some (10, 9) ∧
    ({ on with boot := { on.boot with autoDue := true } } : State).boot.autoDue = true ∧
    ({ on with boot := { on.boot with shutState := 1 } } : State).closed = true ∧
    (∀ b ∈ [BlockRef.fab 63, .cpb 31, .mem 31, .rdx 15, .swc 3, .rst 3, .cmt 3, .rgc 3],
      BlockRef.page b / 256 < 4 ∧ on.blockIdle (BlockRef.page b) = true ∧
      (on.setRfld (BlockRef.page b) Off.BLK_STATE 0 2 2).rfld (BlockRef.page b) Off.BLK_STATE 0 2 = 2 ∧
      (on.setRfld (BlockRef.page b) Off.BLK_STATE 0 2 0).rfld (BlockRef.page b) Off.BLK_STATE 0 2 = 0) := by decide +kernel

end Sys2Proof.Tests
end

section
/-!
The residue of R63 and its prediction: what `residueOf` and `residueAdd` are as numbers, and that the bytes of a value
and the value itself agree modulo 255.
-/

namespace Sys2Proof.Machine

theorem toNat_ofNat_mod_255 (n : Nat) : (BitVec.ofNat 8 (n % 255)).toNat = n % 255 := by
  rw [BitVec.toNat_ofNat]
  omega

@[simp] theorem residueOf_toNat (v : BitVec 192) :
    (residueOf v).toNat = (v.toNat + if v.msb then 254 else 0) % 255 :=
  toNat_ofNat_mod_255 _

@[simp] theorem residueAdd_toNat (r a : BitVec 8) : (residueAdd r a).toNat = (r.toNat + a.toNat) % 255 :=
  toNat_ofNat_mod_255 _

/-- Predicting for one addend and then another is predicting for the other first. -/
theorem residueAdd_right_comm (r a b : BitVec 8) : residueAdd (residueAdd r a) b = residueAdd (residueAdd r b) a := by
  apply BitVec.eq_of_toNat_eq
  simp only [residueAdd_toNat]
  omega

/-- The low `n` bytes of a number add up to the number they spell, modulo 255: a byte's weight is a power of 256, which
is 1 modulo 255. -/
theorem byteSum_mod_255 (x n : Nat) :
    ((List.range n).foldl (fun r i => r + bits x (8 * i) 8) 0) % 255 = x % 256 ^ n % 255 := by
  induction n with
  | zero => rw [Nat.pow_zero, Nat.mod_one, List.range_zero, List.foldl_nil]
  | succ n ih =>
    have weight : 256 ^ n % 255 = 1 := by rw [Nat.pow_mod, show 256 % 255 = 1 from rfl, Nat.one_pow]
    have byte : bits x (8 * n) 8 = x / 256 ^ n % 256 := by
      rw [bits, Nat.shiftRight_eq_div_pow, Nat.pow_mul, show 2 ^ 8 = 256 from rfl]
    have weighed : 256 ^ n * (x / 256 ^ n % 256) % 255 = x / 256 ^ n % 256 % 255 := by
      rw [Nat.mul_mod, weight, Nat.one_mul, Nat.mod_mod]
    rw [List.range_succ, List.foldl_append, List.foldl_cons, List.foldl_nil, Nat.mod_pow_succ, byte, Nat.add_mod, ih,
      Nat.add_mod (x % 256 ^ n), weighed]

/-- R63: the residue is the sum of the value's bytes modulo 255, with 254 more for a negative value. -/
theorem residueOf_eq_byteSum (v : BitVec 192) :
    (residueOf v).toNat =
      (((List.range 24).foldl (fun r i => r + bits v.toNat (8 * i) 8) 0) % 255 + if v.msb then 254 else 0) % 255 := by
  have whole : v.toNat % 256 ^ 24 = v.toNat := Nat.mod_eq_of_lt (show v.toNat < 256 ^ 24 from v.isLt)
  rw [residueOf_toNat, byteSum_mod_255, whole, Nat.mod_add_mod]

/-- The residue is the value itself modulo 255: 2^192 is 1 modulo 255, so a negative value, which its bytes spell with
2^192 more, takes 254 to lose that 1. -/
theorem residueOf_eq_toInt_emod (v : BitVec 192) : ((residueOf v).toNat : Int) = v.toInt % 255 := by
  rw [residueOf_toNat, BitVec.toInt_eq_msb_cond]
  split <;> omega

/-- The residue after a finite addend is predicted from the stored residue and the addend (R58). -/
theorem accumulate_finite_residue (e : Entry) (a : BitVec 192) (b : Bool) :
    (accumulate e (.finite a b)).residue = residueAdd e.residue (residueOf a) := rfl

/-- Settles O48: the two readings of the residue, and the prediction, which names no accumulator. -/
theorem residuePredicted : Obligations.ResiduePredicted := by
  refine ⟨fun v => ⟨residueOf_eq_byteSum v, residueOf_eq_toInt_emod v⟩, fun e e' a b same => ⟨rfl, ?_⟩⟩
  rw [accumulate_finite_residue, accumulate_finite_residue, same]

end Sys2Proof.Machine
end

section
/-!
Accumulation (R58): what an addend does to each field of an entry, so that the order of addends does not matter; the
size of a converted addend (R56, R57); and the sum of a list of finite addends, which never wraps within the fan-in.
-/

namespace Sys2Proof.Machine

/-! ### One addend, field by field -/

/-- What an addend adds to `acc`. -/
def Addend2.amount : Addend2 → BitVec 192
  | .finite a _ => a
  | _ => 0

/-- The residue that an addend leaves of a stored one. -/
def Addend2.predict (r : BitVec 8) : Addend2 → BitVec 8
  | .finite a _ => residueAdd r (residueOf a)
  | _ => r

/-- An addend sets `pos_inf`. -/
def Addend2.setsPosInf : Addend2 → Bool
  | .inf neg => !neg
  | .specials p _ _ => p
  | _ => false

/-- An addend sets `neg_inf`. -/
def Addend2.setsNegInf : Addend2 → Bool
  | .inf neg => neg
  | .specials _ n _ => n
  | _ => false

/-- An addend sets `nan`. -/
def Addend2.setsNan : Addend2 → Bool
  | .nan => true
  | .specials _ _ q => q
  | _ => false

/-- An addend sets `below_floor`. -/
def Addend2.setsBelowFloor : Addend2 → Bool
  | .finite _ b => b
  | _ => false

/-- R58 with one equation for every addend: each field takes its own part of the addend. -/
theorem accumulate_eq (e : Entry) (a : Addend2) :
    accumulate e a =
      { e with acc := e.acc + a.amount, residue := a.predict e.residue, posInf := e.posInf || a.setsPosInf,
               negInf := e.negInf || a.setsNegInf, nan := e.nan || a.setsNan,
               belowFloor := e.belowFloor || a.setsBelowFloor, count := e.count + 1 } := by
  cases a with
  | inf neg =>
    cases neg <;> simp only [accumulate, Addend2.amount, Addend2.predict, Addend2.setsPosInf, Addend2.setsNegInf,
      Addend2.setsNan, Addend2.setsBelowFloor, BitVec.ofNat_eq_ofNat, BitVec.add_zero, Bool.or_false, Bool.or_true,
      Bool.not_false, Bool.not_true]
  | _ =>
    simp only [accumulate, Addend2.amount, Addend2.predict, Addend2.setsPosInf, Addend2.setsNegInf,
      Addend2.setsNan, Addend2.setsBelowFloor, BitVec.ofNat_eq_ofNat, BitVec.add_zero, Bool.or_false, Bool.or_true]

theorem predict_right_comm (r : BitVec 8) (a b : Addend2) : b.predict (a.predict r) = a.predict (b.predict r) := by
  cases a with
  | finite x _ =>
    cases b with
    | finite y _ => exact residueAdd_right_comm r (residueOf x) (residueOf y)
    | _ => rfl
  | _ => rfl

theorem acc_add_right_comm (v a b : BitVec 192) : v + a + b = v + b + a := by
  rw [BitVec.add_assoc, BitVec.add_comm a, BitVec.add_assoc]

theorem accumulate_right_comm (e : Entry) (a b : Addend2) :
    accumulate (accumulate e a) b = accumulate (accumulate e b) a := by
  simp only [accumulate_eq, predict_right_comm e.residue a b, acc_add_right_comm e.acc a.amount,
    Bool.or_right_comm _ a.setsPosInf, Bool.or_right_comm _ a.setsNegInf, Bool.or_right_comm _ a.setsNan,
    Bool.or_right_comm _ a.setsBelowFloor]

/-- The entry does not depend on the order of its addends. -/
theorem foldl_accumulate_perm (e : Entry) {l l' : List Addend2} (perm : l.Perm l') :
    l.foldl accumulate e = l'.foldl accumulate e :=
  perm.foldl_eq' (fun a _ b _ e => accumulate_right_comm e a b) e

/-! ### The size of a converted addend -/

theorem toInt_ofInt_of_natAbs_lt {x : Int} (small : x.natAbs < 2 ^ 191) : (BitVec.ofInt 192 x).toInt = x :=
  BitVec.toInt_ofInt_eq_self (by decide) (by omega) (by omega)

/-- A magnitude with a sign, as the aligner of R56 makes it. -/
theorem natAbs_toInt_ofInt_sign (neg : Bool) {mag : Nat} (small : mag < 2 ^ 191) :
    (BitVec.ofInt 192 (if neg then -(mag : Int) else mag)).toInt.natAbs = mag := by
  have sized : (if neg then -(mag : Int) else mag).natAbs = mag := by
    cases neg with
    | false => rfl
    | true => exact Int.natAbs_neg mag
  rw [toInt_ofInt_of_natAbs_lt (by rwa [sized]), sized]

/-- A significand `sig` times 2^p below 2^(floor + n), aligned to 2^floor, is below 2^n (R56). -/
theorem alignedMag_lt {sig n : Nat} {p floor : Int} (below : sig ≠ 0 → p + sig.log2 < floor + n) :
    (if p ≥ floor then sig * 2 ^ (p - floor).toNat else sig / 2 ^ (floor - p).toNat) < 2 ^ n := by
  rcases Nat.eq_zero_or_pos sig with rfl | pos
  · rw [Nat.zero_mul, Nat.zero_div, ite_self]
    exact Nat.two_pow_pos n
  have top := below (Nat.ne_of_gt pos)
  have sigLt : sig < 2 ^ (sig.log2 + 1) := Nat.lt_log2_self
  split
  · calc sig * 2 ^ (p - floor).toNat
        < 2 ^ (sig.log2 + 1) * 2 ^ (p - floor).toNat := Nat.mul_lt_mul_of_pos_right sigLt (Nat.two_pow_pos _)
      _ = 2 ^ (sig.log2 + 1 + (p - floor).toNat) := (Nat.pow_add ..).symm
      _ ≤ 2 ^ n := Nat.pow_le_pow_right (by decide) (by omega)
  · rw [Nat.div_lt_iff_lt_mul (Nat.two_pow_pos _), ← Nat.pow_add]
    exact Nat.lt_of_lt_of_le sigLt (Nat.pow_le_pow_right (by decide) (by omega))

/-- A finite converted binary32 addend is smaller than 2^(190 - G) units (R56, R58). -/
theorem addendF32_natAbs_lt {floor : Int} {g : Nat} {x : Word} {a : BitVec 192} {b : Bool} (hg : g ≤ 190)
    (finite : addendF32 floor g x = .finite a b) : a.toInt.natAbs < 2 ^ (190 - g) := by
  unfold addendF32 at finite
  extract_lets s e m sig p sh mag bf at finite
  split at finite
  · cases finite
  split at finite
  · cases finite
  split at finite
  · cases finite
  next inRange =>
    obtain ⟨rfl, -⟩ := Addend2.finite.inj finite
    have magLt : mag < 2 ^ (190 - g) := alignedMag_lt fun nonzero => by
      have below := mt (And.intro nonzero) inRange
      omega
    have roomy : 2 ^ (190 - g) < 2 ^ 191 := Nat.pow_lt_pow_right (by decide) (by omega)
    rwa [natAbs_toInt_ofInt_sign s (Nat.lt_trans magLt roomy)]

/-- An INT32 addend is at most 2^31 (R57). -/
theorem addendI32_natAbs_le {x : Word} {a : BitVec 192} {b : Bool} (finite : addendI32 x = .finite a b) :
    a.toInt.natAbs ≤ 2 ^ 31 := by
  obtain ⟨rfl, -⟩ := Addend2.finite.inj finite
  rw [BitVec.toInt_signExtend_of_le (by decide)]
  have low := x.le_toInt
  have high := x.toInt_lt
  omega

/-! ### The sum of finite addends -/

/-- The sum of the values of a list of finite addends, as an integer. -/
def exactSum (l : List (BitVec 192 × Bool)) : Int := (l.map fun a => a.1.toInt).sum

theorem exactSum_cons (a : BitVec 192 × Bool) (l : List (BitVec 192 × Bool)) :
    exactSum (a :: l) = a.1.toInt + exactSum l := by
  rw [exactSum, List.map_cons, List.sum_cons, exactSum]

theorem acc_foldl_finite (e : Entry) (l : List (BitVec 192 × Bool)) :
    ((l.map fun a => Addend2.finite a.1 a.2).foldl accumulate e).acc = e.acc + BitVec.ofInt 192 (exactSum l) := by
  induction l generalizing e with
  | nil => exact (BitVec.add_zero e.acc).symm
  | cons a l ih =>
    have head : (accumulate e (.finite a.1 a.2)).acc = e.acc + a.1 := rfl
    rw [List.map_cons, List.foldl_cons, ih, head, exactSum_cons, BitVec.ofInt_add, BitVec.ofInt_toInt, BitVec.add_assoc]

theorem natAbs_exactSum_le {l : List (BitVec 192 × Bool)} {bound : Nat} (each : ∀ a ∈ l, a.1.toInt.natAbs ≤ bound) :
    (exactSum l).natAbs ≤ l.length * bound := by
  induction l with
  | nil => exact Nat.zero_le _
  | cons a l ih =>
    obtain ⟨head, tail⟩ := List.forall_mem_cons.mp each
    calc (exactSum (a :: l)).natAbs
        = (a.1.toInt + exactSum l).natAbs := by rw [exactSum_cons]
      _ ≤ a.1.toInt.natAbs + (exactSum l).natAbs := Int.natAbs_add_le _ _
      _ ≤ bound + l.length * bound := Nat.add_le_add head (ih tail)
      _ = (a :: l).length * bound := by rw [List.length_cons, Nat.succ_mul, Nat.add_comm]

/-- At most 2^g addends below 2^k, or of at most 2^31 where `k` is 31, add up to less than 2^(k + g), or to at most
2^(31 + g): the bound of R58 on the sum of an element. -/
theorem natAbs_exactSum_lt {l : List (BitVec 192 × Bool)} {g k : Nat} (few : l.length ≤ 2 ^ g)
    (each : ∀ a ∈ l, a.1.toInt.natAbs < 2 ^ k ∨ (k = 31 ∧ a.1.toInt.natAbs = 2 ^ k)) :
    (exactSum l).natAbs < 2 ^ (k + g) ∨ (k = 31 ∧ (exactSum l).natAbs = 2 ^ (k + g)) := by
  have whole : 2 ^ (k + g) = 2 ^ g * 2 ^ k := by rw [Nat.add_comm, Nat.pow_add]
  by_cases hk : k = 31
  · have sumLe : (exactSum l).natAbs ≤ l.length * 2 ^ k :=
      natAbs_exactSum_le fun a ha => (each a ha).elim Nat.le_of_lt fun eq => Nat.le_of_eq eq.2
    have := Nat.mul_le_mul_right (2 ^ k) few
    omega
  · left
    have sumLe : (exactSum l).natAbs ≤ l.length * (2 ^ k - 1) :=
      natAbs_exactSum_le fun a ha => Nat.le_sub_one_of_lt ((each a ha).resolve_right fun eq => hk eq.1)
    calc (exactSum l).natAbs
        ≤ l.length * (2 ^ k - 1) := sumLe
      _ ≤ 2 ^ g * (2 ^ k - 1) := Nat.mul_le_mul_right _ few
      _ < 2 ^ g * 2 ^ k := Nat.mul_lt_mul_of_pos_left (Nat.sub_one_lt (Nat.ne_of_gt (Nat.two_pow_pos k))) (Nat.two_pow_pos g)
      _ = 2 ^ (k + g) := whole.symm

/-- A value below 2^190 in magnitude carries its sign in bits 191 and 190. -/
theorem topBits_eq_of_natAbs_lt {v : BitVec 192} (small : v.toInt.natAbs < 2 ^ 190) :
    v.getLsbD 191 = v.getLsbD 190 := by
  have := v.isLt
  simp only [BitVec.getLsbD, Nat.testBit_eq_decide_div_mod_eq, decide_eq_decide]
  rw [BitVec.toInt_eq_toNat_cond] at small
  split at small <;> omega

/-- A fresh entry that takes addends whose sum is below 2^190 holds that sum, with bits 191 and 190 equal. -/
theorem acc_foldl_finite_exact {e : Entry} {l : List (BitVec 192 × Bool)} (fresh : e.acc = 0)
    (small : (exactSum l).natAbs < 2 ^ 190) :
    let acc := ((l.map fun a => Addend2.finite a.1 a.2).foldl accumulate e).acc
    acc.toInt = exactSum l ∧ acc.getLsbD 191 = acc.getLsbD 190 := by
  intro acc
  have value : acc.toInt = exactSum l := by
    rw [show acc = _ from acc_foldl_finite e l, fresh, BitVec.ofNat_eq_ofNat, BitVec.zero_add]
    exact toInt_ofInt_of_natAbs_lt (Nat.lt_trans small (by decide))
  exact ⟨value, topBits_eq_of_natAbs_lt (by rwa [value])⟩

/-- Within the fan-in limits of R55 the bound of R58 on a sum stays inside 190 bits. -/
theorem sumBound_lt {g k s : Nat} (hg : g ≤ 24) (hk : k = 190 - g ∨ k = 31)
    (bound : s < 2 ^ (k + g) ∨ (k = 31 ∧ s = 2 ^ (k + g))) : s < 2 ^ 190 := by
  rcases bound with lt | ⟨rfl, rfl⟩
  · exact Nat.lt_of_lt_of_le lt (Nat.pow_le_pow_right (by decide) (by omega))
  · exact Nat.pow_lt_pow_right (by decide) (by omega)

/-- Settles O50: the equations of `accumulate`, the size of an addend, the order, and the sum within the fan-in. -/
theorem reductionIsExact : Obligations.ReductionIsExact := by
  refine ⟨fun e => ⟨rfl, rfl, rfl, fun a b => rfl⟩, ?size, fun e l l' perm => foldl_accumulate_perm e perm, ?sum⟩
  case size =>
    exact fun floor g x a b _ hg => ⟨addendF32_natAbs_lt (by omega), addendI32_natAbs_le⟩
  case sum =>
    intro e l g k _ hg hk fresh few each
    have bound := natAbs_exactSum_lt few each
    obtain ⟨value, top⟩ := acc_foldl_finite_exact fresh (sumBound_lt hg hk bound)
    exact ⟨value, by rwa [value], top⟩

end Sys2Proof.Machine
end

section
/-!
The channel hash (R317): `foldXor` is the loop of the rule, a window of either scope is one hash with its own field
width, and two offsets of one run that hash to one channel lie in one burst.
-/

namespace Sys2Proof.Machine

/-- The exclusive or with one number is one-to-one (the modules of the model do without Mathlib, which says so too). -/
theorem xor_eq_xor_right_iff (x y c : Nat) : x ^^^ c = y ^^^ c ↔ x = y :=
  ⟨fun same => by simpa only [Nat.xor_assoc, Nat.xor_self, Nat.xor_zero] using congrArg (· ^^^ c) same,
    fun same => by rw [same]⟩

/-- The low field of the hash varies within a run; every other field is fixed by the run's number. -/
theorem foldXor_eq_iff_of_run_eq {o o' b : Nat} (run : o >>> (b + 6) = o' >>> (b + 6)) (n : Nat) :
    foldXor o b (n + 1) = foldXor o' b (n + 1) ↔ bits o 6 b = bits o' 6 b := by
  induction n with
  | zero =>
    have one (x : Nat) : foldXor x b 1 = bits x 6 b := Nat.zero_xor (bits x 6 b)
    rw [one, one]
  | succ n ih =>
    have field (x : Nat) : bits x (b * (n + 1) + 6) b = (x >>> (b + 6) >>> (b * n)) % 2 ^ b := by
      rw [bits, ← Nat.shiftRight_add]
      congr 2
      rw [Nat.mul_succ]
      omega
    calc foldXor o b (n + 1 + 1) = foldXor o' b (n + 1 + 1)
        ↔ foldXor o b (n + 1) ^^^ bits o (b * (n + 1) + 6) b = foldXor o' b (n + 1) ^^^ bits o' (b * (n + 1) + 6) b := Iff.rfl
      _ ↔ foldXor o b (n + 1) = foldXor o' b (n + 1) := by rw [field o, field o', run, xor_eq_xor_right_iff]
      _ ↔ bits o 6 b = bits o' 6 b := ih

/-- Two offsets of one run of 2^b bursts that hash to one channel lie in one burst. -/
theorem burst_eq_of_foldXor_eq {o o' b n : Nat} (run : o >>> (b + 6) = o' >>> (b + 6))
    (hash : foldXor o b (n + 1) = foldXor o' b (n + 1)) : o / 64 = o' / 64 := by
  have low : o / 64 % 2 ^ b = o' / 64 % 2 ^ b := by
    simpa only [bits, Nat.shiftRight_eq_div_pow, Nat.reducePow] using (foldXor_eq_iff_of_run_eq run n).mp hash
  have high : o / 64 / 2 ^ b = o' / 64 / 2 ^ b := by
    simpa only [Nat.add_comm b 6, Nat.shiftRight_eq_div_pow, Nat.pow_add, ← Nat.div_div_eq_div_mul, Nat.reducePow] using run
  rw [← Nat.div_add_mod (o / 64) (2 ^ b), high, low, Nat.div_add_mod]

/-- `foldXor` is the loop over `k` of R317. -/
theorem foldXor_eq_foldl (o b n : Nat) :
    foldXor o b n = (List.range n).foldl (fun x k => x ^^^ ((o >>> (b * k + 6)) &&& (2 ^ b - 1))) 0 := by
  induction n with
  | zero => rfl
  | succ n ih =>
    rw [List.range_succ, List.foldl_append, ← ih, List.foldl_cons, List.foldl_nil, Nat.and_two_pow_sub_one_eq_mod]
    rfl

/-- The 6 bits of the byte in a burst lie below the number above them, so adding them sets them. -/
theorem burst_add_mod_eq_or (r o : Nat) : r <<< 6 + o % 64 = r <<< 6 ||| (o &&& 0x3F) := by
  rw [Nat.shiftLeft_add_eq_or_of_lt (Nat.mod_lt o (by decide)), Nat.and_two_pow_sub_one_eq_mod o 6]

/-- In either scope a window hashes by a field width `b` over its runs of `2 ^ (b + 6)` bytes. -/
theorem Window.exists_place_eq (w : Window) :
    ∃ base b n, 2 ^ (b + 6) = (if w.scopeRegion then 2048 else 8192) ∧
      ∀ o, w.place o = (base + foldXor o b (n + 1), w.lo * 2 ^ 20 + ((o >>> (b + 6)) <<< 6 + o % 64)) := by
  cases scope : w.scopeRegion with
  | false => exact ⟨0, 7, 5, rfl, fun o => by simp only [Window.place, scope, Bool.false_eq_true, if_false, Nat.zero_add]⟩
  | true => exact ⟨32 * w.region, 5, 6, rfl, fun o => by simp only [Window.place, scope, if_true]⟩

/-- Different bursts of one run lie on different channels. -/
theorem Window.burst_eq_of_channel_eq {w : Window} {o o' : Nat}
    (run : o / (if w.scopeRegion then 2048 else 8192) = o' / (if w.scopeRegion then 2048 else 8192))
    (channel : (w.place o).1 = (w.place o').1) : o / 64 = o' / 64 := by
  obtain ⟨base, b, n, size, place⟩ := w.exists_place_eq
  rw [← size, ← Nat.shiftRight_eq_div_pow, ← Nat.shiftRight_eq_div_pow] at run
  rw [place, place] at channel
  exact burst_eq_of_foldXor_eq run (Nat.add_left_cancel channel)

/-- The channel-local address gives the run of an offset and its place in the burst. -/
theorem Window.run_eq_of_local_eq {w : Window} {o o' : Nat} (address : (w.place o).2 = (w.place o').2) :
    o / (if w.scopeRegion then 2048 else 8192) = o' / (if w.scopeRegion then 2048 else 8192) ∧ o % 64 = o' % 64 := by
  obtain ⟨base, b, n, size, place⟩ := w.exists_place_eq
  rw [← size, ← Nat.shiftRight_eq_div_pow, ← Nat.shiftRight_eq_div_pow]
  simp only [place, Nat.shiftLeft_eq] at address
  omega

/-- No two offsets of a window share a channel and a channel-local address. -/
theorem Window.place_injective (w : Window) : Function.Injective w.place := by
  intro o o' same
  obtain ⟨run, byte⟩ := Window.run_eq_of_local_eq (congrArg Prod.snd same)
  have burst := Window.burst_eq_of_channel_eq run (congrArg Prod.fst same)
  omega

/-- Settles O47: the loop of R317 is `foldXor`; the channel-local address gives the run and the byte, and within a run
the channel gives the burst. -/
theorem windowPlacement : Obligations.WindowPlacement := by
  refine fun w o o' => ⟨fun chip => ?_, fun region => ?_, fun same => w.place_injective same,
    fun bursts run channel => bursts (Window.burst_eq_of_channel_eq run channel)⟩
  · simp only [Window.place, chip, Bool.false_eq_true, if_false, foldXor_eq_foldl, burst_add_mod_eq_or, Nat.reducePow,
      Nat.reduceSub]
  · simp only [Window.place, region, if_true, foldXor_eq_foldl, burst_add_mod_eq_or, Nat.reducePow, Nat.reduceSub]

end Sys2Proof.Machine
end

section
/-!
How a row ends: it waits and leaves the state, or it acts and takes the reactions that it raised. Every form of row does
one of the two, and so does every well-formed command.
-/

namespace Sys2Proof.Machine

/-- A row of `s` waits, or it acts and takes the reactions that it raised. -/
inductive EndsRow (s : State) : Out → Prop where
  | waits : EndsRow s (.next s)
  | acts (t : State) : EndsRow s (done t)

/-- A row that has ended leaves no reaction where none waited. -/
theorem EndsRow.todo_eq_nil {s t : State} {o : Out} (ends : EndsRow s o) (settled : s.todo = []) (next : o = .next t) :
    t.todo = [] := by
  cases ends with
  | waits => cases next; exact settled
  | acts u => exact done_todo next

theorem EndsRow.exists_next {s : State} {o : Out} (ends : EndsRow s o) : ∃ t, o = .next t := by
  cases ends with
  | waits => exact ⟨s, rfl⟩
  | acts t => exact ⟨t.finish, rfl⟩

section forms
variable {s : State}

theorem EndsRow.ite {c : Prop} [Decidable c] {a b : Out} (yes : EndsRow s a) (no : EndsRow s b) :
    EndsRow s (if c then a else b) := by
  split
  · exact yes
  · exact no

theorem EndsRow.ite_pos {c : Prop} [Decidable c] {a b : Out} (h : c) (yes : EndsRow s a) : EndsRow s (if c then a else b) := by
  rwa [if_pos h]

theorem EndsRow.ite_neg {c : Prop} [Decidable c] {a b : Out} (h : ¬c) (no : EndsRow s b) : EndsRow s (if c then a else b) := by
  rwa [if_neg h]

theorem actIf_ends (due : Bool) (t : State) : EndsRow s (actIf due s t) := .ite (.acts t) .waits

theorem actWith_ends {α : Type} (o : Option α) (f : α → State) : EndsRow s (actWith o s f) := by
  cases o with
  | none => exact .waits
  | some v => exact .acts (f v)

theorem onRx_ends (r : Rx) (f : State → Msg → State) : EndsRow s (onRx s r f) := by
  cases r with
  | not => exact .waits
  | lost t => exact .acts t.watchFlow
  | got t m => exact .acts (f t m).watchFlow

theorem onControl_ends (a : Arrival) (mine : Bool) (t : State) : EndsRow s (onControl s a mine t) := by
  unfold onControl
  split
  · exact .ite (.acts t) .waits
  · exact .acts _
  · exact .waits

theorem onMsg_ends (m : RalowIn) (f : State → State) : EndsRow s (onMsg m s f) := by
  rcases onMsg_cases m s f with ⟨t, -, eq⟩ | ⟨t, -, eq⟩
  · exact eq ▸ .acts t
  · exact eq ▸ .acts (f t)

theorem issue_ends (b : Cpb) (i : StreamIx) (o : Opc) (f : Thread → Issued) : EndsRow s (issue b i o s f) := by
  unfold issue
  split
  · exact .waits
  · exact .ite (.acts _) .waits

theorem cellRun_ends (b : Cpb) (cell : Fin 8) (acc : Fin 4) (os : List Opc) (run : Nat → UnitOp × Opc → State) :
    EndsRow s (cellRun b cell acc os s run) := .ite .waits (actWith_ends _ _)

theorem cellRow_ends (b : Cpb) (phase : CellPhase) (o : Opc) (run : Nat → UnitOp → State) :
    EndsRow s (cellRow b phase o s run) := by
  cases phase with
  | issue i => exact issue_ends b i o _
  | run cell acc => exact cellRun_ends b cell acc [o] fun n x => run n x.1

theorem execNop_ends (b : Cpb) (i : StreamIx) : EndsRow s (execNop b i s) := by
  unfold execNop
  split
  · exact .waits
  · split
    · exact .acts _
    · exact issue_ends b i .nop _

/-- The rows of a frame that leaves the port block: one route acts, the others wait. -/
theorem frameRow_ends (a : Arrival) (f : State → WireFrame → Nat → Nat → Buf → Out)
    (passed : ∀ t w tc vc b, EndsRow s (f t w tc vc b)) :
    EndsRow s (match s.arrive a with
      | .ignored | .control => .next s
      | .lost t => done t.watchFlow
      | .passed t w tc vc b => f t w tc vc b) := by
  cases s.arrive a with
  | ignored => exact .waits
  | control => exact .waits
  | lost t => exact .acts t.watchFlow
  | passed t w tc vc b => exact passed t w tc vc b

theorem execFrameForward_ends (a : Arrival) : EndsRow s (execFrameForward a s) := by
  refine frameRow_ends a _ fun t w tc vc b => ?_
  cases s.routeOf a.port w with
  | forward => exact .acts _
  | _ => exact .waits

theorem execMaintenanceFrame_ends (a : Arrival) : EndsRow s (execMaintenanceFrame a s) := by
  refine frameRow_ends a _ fun t w tc vc b => ?_
  cases s.routeOf a.port w with
  | maintenance => exact .acts _
  | _ => exact .waits

theorem execTerminatedFrameDrop_ends (a : Arrival) : EndsRow s (execTerminatedFrameDrop a s) := by
  refine frameRow_ends a _ fun t w tc vc b => ?_
  cases s.routeOf a.port w with
  | nobody => exact .acts _
  | _ => exact .waits

end forms
end Sys2Proof.Machine
end

section
/-!
Every command either ends as a row does or is ill-formed (R338, R353, R270, R346).
-/

namespace Sys2Proof.Machine
open Sys2Proof.Safety

/-- A well-formed command ends as its form of row does. -/
theorem exec_ends {c : Instr} (wf : c.wf = true) (s : State) : EndsRow s (exec c s) := by
  cases c with
  | hostHello _ | sessionIdleTimeout _ | completionHoldExpiry _ | beaconSend | discoverSend _ | flowControlRefresh _
  | frameStart _ | bucketRefill | mark _ | hold _ | resume _ | probe _ _ _ | probeSend _ | calEnter _ | calAck _
  | calExit _ | masterMark | sourceLoss | deadline _ | waitTimeout _ _ | programSetFinish _ _ | gateEntryPassage _
  | gateSwap _ | calRecoveryTimeout _ | cmapSample _ | cmapExport _ | bringupStateTimeout _ | bringupRetry _
  | portAligned _ | linkFault _ _ | fomUpdate _ _ | quiet _ | txQuietEnter _ | txWake _ _ | rxWakeTimeout _
  | hostFrameReceive _ _ | ptpMessage _ _ | hostPause _ _ | hostLinkUp _ | hostLinkDown _ | hostAutonegRestart _
  | announce _ | refresh _ _ | scrubRead _ | wckDqOscillator _ _ | memoryTrainingDone _ _ | memoryReady _
  | faultLogWrite | faultnPulseEnd | maintLockTimeout | auxPowerUp _ | pwrEnHigh | resetRelease _ | resetN
  | powerFailure _ | inputOvervoltage _ | pwrEnLow | railFault | clockFault _ | powerEstimateUpdate _ | governorStage
  | autonomousActivate | pauseTimerExpiry _ | linkTrainingDone _ _ | rxWake _ | ptpLost | auxPowerDown _
  | hostAuth _ _ | handshakeTimeout _ | inputLow _ | shutdownComplete | blockQuiesced _ | blockResetDone _
  | jobDefine _ _ _ | tableWindowWrite _ _ _ _ | pathWeightWrite _ _ _ | portBlockConfig _ _ _ | eyeScanRequest _ _ _
  | mirrorConfig _ _ _ | gateSwapSchedule _ _ | masterEnable _ _ | masterDisable _ _ | masterHoldClear _ _
  | mgtPositionWrite _ _ | mgtModeWrite _ _ | netcfgSave _ _ | shutdownRequest _ _ | sessionCloseBit _ _
  | anchorInstall _ _ | anchorRemove _ _ | stageDataWrite _ _ | maintConsentM _ _ | maintConsentO _ _
  | maintClose _ _ | faultnRelease _ _ | faultnTest _ _ | faultnHoldWrite _ _ | blkEventClear _ _ _
  | firstErrClear _ _ _ | blkEventForce _ _ _ | cfgLock _ _ _ | quiesce _ _ _ | resetReq _ _ _
  | perfSelectWrite _ _ _ _ | clockFloorWrite _ _ | faultLogDataRead _ | reportDataRead _ => exact actIf_ends _ _
  | programVerify _ | checkpointSliceCopy _ | tableSwapExchange | swapTimeout | completionResend _ _
  | telemetryStrobe | cometTimeout _ _ | winReply _ | winWriteAck _ | frameBuild _ | frameTxEnd _ | echo _ _ _
  | jobStart _ | chunkAdmit _ | grantRelease _ _ | addendAccumulate _ _ _ | jobDrainEnd _ | feedOpen _
  | feedDeliver _ _ | commitWordWrite _ | param _ | calWindowLead _ | calWindowOpen _ | calStepDone _ _
  | calWindowEnd _ | channelRequest _ | autonomousDecision _ _ | autonomousBoundCorrection _ => exact actWith_ends _ _
  | contrib _ | partialMsg _ | grant _ | openNotice _ | readyNotice _ | sealNotice _ | abandonNotice _ | cometC _
  | winRead _ | winWrite _ | beacon _ | discover _ => exact onRx_ends _ _
  | pfcFrame _ | classVcFlowControl _ => exact onControl_ends _ _ _
  | regBatch _ _ | attestationReport _ _ _ | ack _ _ | close _ _ | jobArm _ _ _ | programLoad _ _ _
  | memoryCheckpoint _ _ _ | jobRetire _ _ _ | firmwareUpdate _ _ _ _ | linkRetrain _ _ _ | tableSwap _ _ _ => exact onMsg_ends _ _
  | halt _ _ | jmp _ _ | br _ _ | loop _ _ | set _ _ | clear _ _ | wait _ _ | fence _ _ | mode _ _ | alu _ _
  | alui _ _ | lidx _ _ | qrd _ _ | qpop _ _ | qclose _ _ | sld _ _ | sst16 _ _ | agbase _ _ | agdim _ _ | ld _ _
  | st _ _ | vop _ _ | vops _ _ | vred _ _ | vunpk _ _ | vcvt _ _ | mma _ _ | mmat _ _ => exact issue_ends _ _ _ _
  | release _ _ | zacc _ _ | accld _ _ => exact cellRow_ends _ _ _ _
  | memRead _ _ | memWrite _ _ | groupLoad _ _ _ | memoryFill _ _ _ | memoryCopy _ _ _ => exact .ite .waits (onMsg_ends _ _)
  | agGranuleTransfer _ _ | vectorOperation _ _ => exact .ite .waits (actWith_ends _ _)
  | statusWord _ _ _ => exact .ite (.acts _) (actIf_ends _ _)
  | quotaMinWrite _ _ _ _ => exact .ite (actIf_ends _ _) (actIf_ends _ _)
  | nop b i => exact execNop_ends b i
  | frameForward a => exact execFrameForward_ends a
  | maintenanceFrame a => exact execMaintenanceFrame_ends a
  | terminatedFrameDrop a => exact execTerminatedFrameDrop_ends a
  | kgroupStep b cell acc => exact cellRun_ends b cell acc [.mma, .mmat] fun n x => s.kgroup b.val n x.1 x.2
  | unknownCommand m code n ops => exact .ite_neg (by simpa [Instr.wf] using wf) (onMsg_ends m _)
  | reservedKindMessage m k b => exact .ite_pos wf (actIf_ends _ _)
  | calStepStart t k => exact .ite_pos wf (actIf_ends _ _)
  | sensorRead r => exact .ite_neg (by simpa [Instr.wf] using wf) (actIf_ends _ _)
  | regionLinkDown a b => exact .ite_neg (by simpa [Instr.wf] using wf) (actIf_ends _ _)
  | registerWrite i a d | rclRead i a | counterLowRead i a => exact .ite_pos wf (actIf_ends _ _)

/-- An ill-formed command is refused as such. -/
theorem exec_illFormed {c : Instr} (ill : c.wf = false) (s : State) : exec c s = .refused .illFormed := by
  cases c with
  | unknownCommand m code n ops => exact if_pos (by simpa [Instr.wf] using ill)
  | reservedKindMessage m k b => exact if_neg (by simpa [Instr.wf] using ill)
  | calStepStart t k => exact if_neg (by simpa [Instr.wf] using ill)
  | sensorRead r => exact if_pos (by simpa [Instr.wf] using ill)
  | regionLinkDown a b => exact if_pos (by simpa [Instr.wf] using ill)
  | registerWrite i a d | rclRead i a | counterLowRead i a => exact if_neg (by simpa [Instr.wf] using ill)
  | _ => cases ill

/-- A cycle on an empty queue leaves no reaction where none waited. -/
theorem State.tick_todo_eq_nil {s : State} (settled : s.todo = []) : s.tick.todo = [] := by
  unfold State.tick
  split
  · rfl
  · exact settled

/-- Settles O5: the queue's front ends as a row does, and a cycle on an empty queue takes its reactions. -/
theorem stepKeepsSettled : Obligations.StepKeepsSettled := by
  intro s t settled next
  unfold step at next
  split at next
  · next c rest _ =>
    cases wf : c.wf with
    | false => rw [exec_illFormed wf] at next; cases next
    | true => exact (exec_ends wf { s with pending := rest }).todo_eq_nil settled next
  · cases next
    exact State.tick_todo_eq_nil settled

/-- Settles O6: a well-formed command ends as a row does, in a next state, and any other is refused. -/
theorem onlyIllFormedStops : Obligations.OnlyIllFormedStops := by
  refine fun c s => ⟨fun f stops => ?_, fun wf => (exec_ends wf s).exists_next, fun ill => exec_illFormed ill s⟩
  cases wf : c.wf with
  | false => rw [exec_illFormed wf] at stops; cases stops
  | true =>
    obtain ⟨t, next⟩ := (exec_ends wf s).exists_next
    rw [next] at stops
    cases stops

end Sys2Proof.Machine
end

section
/-!
Bytes: numbers that bytes spell, in either order, and the part of a message at an offset.
-/

namespace Sys2Proof

@[simp] theorem leBytes_length (n x : Nat) : (leBytes n x).length = n := by
  induction n generalizing x with
  | zero => rfl
  | succ n ih => simp only [leBytes, List.length_cons, ih]

/-- `n` bytes of a number spell it modulo 256^n. -/
theorem leNat_leBytes (n x : Nat) : leNat (leBytes n x) = x % 256 ^ n := by
  induction n generalizing x with
  | zero => rw [Nat.pow_zero, Nat.mod_one]; rfl
  | succ n ih =>
    have low : (BitVec.ofNat 8 x).toNat = x % 256 := BitVec.toNat_ofNat x 8
    rw [leBytes, leNat, ih, low, Nat.pow_succ, Nat.mul_comm (256 ^ n), Nat.mod_mul]

theorem beNat_beBytes (n x : Nat) : beNat (beBytes n x) = x % 256 ^ n := by
  rw [beNat, beBytes, List.reverse_reverse, leNat_leBytes]

/-- The part of a message behind its leading bytes. -/
theorem slice_append {pre mid : List Byte} {off n : Nat} (hoff : off = pre.length) (hn : n = mid.length) (post : List Byte) :
    slice (pre ++ (mid ++ post)) off n = mid := by
  subst hoff hn
  rw [slice, List.drop_left, List.take_left]

/-- What a message spells at an offset where a number was written. -/
theorem beAt_of_slice_eq {b : List Byte} {off n x : Nat} (part : slice b off n = beBytes n x) : beAt b off n = x % 256 ^ n := by
  rw [beAt, part, beNat_beBytes]

end Sys2Proof
end

section
/-!
Messages of the fabric protocol (R94 to R97): a header is 32 bytes, its fields read back, and so do the payload and the
checksum behind it.
-/

namespace Sys2Proof.Machine

@[simp] theorem LfpHeader.bytes_length (h : LfpHeader) : h.bytes.length = 32 := rfl

/-- Where a header holds its fields (R95). -/
theorem LfpHeader.slices (h : LfpHeader) (rest : List Byte) :
    let b := h.bytes ++ rest
    slice b 0 1 = beBytes 1 (h.version % 16 * 16 + h.type % 16) ∧ slice b 1 1 = beBytes 1 (h.tc % 8 * 32 + h.flags % 32) ∧
    slice b 2 2 = beBytes 2 h.job ∧ slice b 4 3 = beBytes 3 (h.group % 4096 * 4096 + h.member % 4096) ∧
    slice b 7 1 = beBytes 1 (h.format % 16 * 16 + h.cls % 4 * 4) ∧ slice b 8 4 = beBytes 4 h.step ∧
    slice b 12 3 = beBytes 3 h.chunk ∧ slice b 15 1 = beBytes 1 h.attempt ∧ slice b 16 4 = beBytes 4 h.elemOffset ∧
    slice b 20 2 = beBytes 2 h.count := by
  simp [slice, LfpHeader.bytes, beBytes, leBytes]

/-- A header whose fields fit their bits reads back from its bytes, whatever follows them (R95). -/
theorem LfpHeader.parse_bytes_append {h : LfpHeader} (fits : h.fits = true) (rest : List Byte) :
    LfpHeader.parse (h.bytes ++ rest) = h := by
  obtain ⟨versionType, tcFlags, job, groupMember, formatCls, step, chunk, attempt, offset, count⟩ := h.slices rest
  simp only [LfpHeader.fits, Bool.and_eq_true, decide_eq_true_eq] at fits
  simp only [LfpHeader.parse, beAt_of_slice_eq versionType, beAt_of_slice_eq tcFlags, beAt_of_slice_eq job,
    beAt_of_slice_eq groupMember, beAt_of_slice_eq formatCls, beAt_of_slice_eq step, beAt_of_slice_eq chunk,
    beAt_of_slice_eq attempt, beAt_of_slice_eq offset, beAt_of_slice_eq count]
  cases h
  simp only [LfpHeader.mk.injEq, bits, Nat.shiftRight_eq_div_pow]
  dsimp only at fits
  omega

theorem lfpBytes_eq (h : LfpHeader) (payload : List Byte) :
    lfpBytes h payload = h.bytes ++ (payload ++ leBytes 4 (crc32c (h.bytes ++ payload)).toNat) := List.append_assoc ..

@[simp] theorem lfpBytes_length (h : LfpHeader) (payload : List Byte) : (lfpBytes h payload).length = 36 + payload.length := by
  simp only [lfpBytes_eq, List.length_append, LfpHeader.bytes_length, leBytes_length]
  omega

/-- The payload reads back (R94). -/
theorem lfpPayload_lfpBytes (h : LfpHeader) (payload : List Byte) : lfpPayload (lfpBytes h payload) = payload := by
  rw [lfpPayload, lfpBytes_length, lfpBytes_eq]
  exact slice_append h.bytes_length.symm (Nat.add_sub_cancel_left ..) _

/-- The checksum of a message reads back (R94). -/
theorem word_leAt_lfpBytes (h : LfpHeader) (payload : List Byte) :
    word (leAt (lfpBytes h payload) (32 + payload.length) 4) = crc32c (h.bytes ++ payload) := by
  have part : slice (lfpBytes h payload) (32 + payload.length) 4 = leBytes 4 (crc32c (h.bytes ++ payload)).toNat := by
    have := slice_append (pre := h.bytes ++ payload) (mid := leBytes 4 (crc32c (h.bytes ++ payload)).toNat)
      (off := 32 + payload.length) (n := 4) (by rw [List.length_append, LfpHeader.bytes_length]) (leBytes_length _ _).symm []
    rwa [List.append_nil] at this
  have whole (x : Word) : x.toNat % 256 ^ 4 = x.toNat := Nat.mod_eq_of_lt x.isLt
  rw [leAt, part, leNat_leBytes, word, whole, BitVec.ofNat_toNat, BitVec.setWidth_eq]

/-- A message of version 1 with its type's traffic class, no reserved format and a payload of its size passes the checks
of R97. -/
theorem lfpCheck_lfpBytes {h : LfpHeader} {payload : List Byte} (fits : h.fits = true) (version : h.version = 1)
    (tc : typeTc h.type = some h.tc) (format : h.format ≠ 0xF) (size : payload.length = storedSize h.format h.count)
    (small : payload.length ≤ 8192) : lfpCheck (36 + payload.length) (lfpBytes h payload) = 0 := by
  have header : LfpHeader.parse (lfpBytes h payload ++ List.replicate (32 - (lfpBytes h payload).length) 0) = h := by
    rw [lfpBytes_eq, List.append_assoc]
    exact LfpHeader.parse_bytes_append fits _
  have front : (lfpBytes h payload).take (36 + payload.length - 4) = h.bytes ++ payload := by
    refine List.take_left' ?_
    rw [List.length_append, LfpHeader.bytes_length]
    omega
  have crc := word_leAt_lfpBytes h payload
  rw [show 32 + payload.length = 36 + payload.length - 4 by omega] at crc
  rw [lfpCheck, header, front, crc, lfpBytes_length, ← size]
  simp only [version, tc, format, ne_eq, not_true_eq_false, or_self, if_false, gt_iff_lt, Nat.not_lt.mpr small]

/-- Settles O52: header and payload read back, and the three checks pass. -/
theorem lfpRoundTrip : Obligations.LfpRoundTrip := by
  refine fun h payload fits => ⟨?header, lfpPayload_lfpBytes h payload, fun version tc format size small => ?checks⟩
  case header => exact lfpBytes_eq h payload ▸ LfpHeader.parse_bytes_append fits _
  case checks => exact lfpCheck_lfpBytes fits version tc format size small

end Sys2Proof.Machine
end

section
/-!
What is read back: fields and bits of a register word after a field is set, and the parts of the state by number after
they have changed, where the keys of their tables rise.
-/

namespace Sys2Proof

/-! ### Fields of a word -/

/-- A bit of a field is a bit of the number. -/
theorem testBit_bits (x lo w i : Nat) : (bits x lo w).testBit i = (decide (i < w) && x.testBit (lo + i)) := by
  rw [bits, Nat.testBit_mod_two_pow, Nat.testBit_shiftRight]

theorem testBit_fld (x : Word) (lo w i : Nat) : (fld x lo w).testBit i = (decide (i < w) && bit x (lo + i)) :=
  testBit_bits x.toNat lo w i

theorem bits_lt (x lo w : Nat) : bits x lo w < 2 ^ w := Nat.mod_lt _ (Nat.two_pow_pos w)

theorem fld_lt (x : Word) (lo w : Nat) : fld x lo w < 2 ^ w := bits_lt x.toNat lo w

/-- Setting a field leaves what lies above and below it. -/
theorem toNat_setFld {lo w : Nat} (fits : lo + w ≤ 32) (x : Word) (v : Nat) :
    (setFld x lo w v).toNat = 2 ^ (lo + w) * (x.toNat / 2 ^ (lo + w)) + (2 ^ lo * (v % 2 ^ w) + x.toNat % 2 ^ lo) := by
  have top : x.toNat / 2 ^ lo / 2 ^ w = x.toNat / 2 ^ (lo + w) := by rw [Nat.div_div_eq_div_mul, Nat.pow_add]
  have parts : x.toNat = 2 ^ (lo + w) * (x.toNat / 2 ^ (lo + w)) + (2 ^ lo * (x.toNat / 2 ^ lo % 2 ^ w) + x.toNat % 2 ^ lo) := by
    have low := Nat.div_add_mod x.toNat (2 ^ lo)
    have mid := Nat.div_add_mod (x.toNat / 2 ^ lo) (2 ^ w)
    rw [top] at mid
    rw [Nat.pow_add, Nat.mul_assoc, ← Nat.add_assoc, ← Nat.mul_add, ← Nat.pow_add, mid, low]
  have field : (bits x.toNat lo w) <<< lo = 2 ^ lo * (x.toNat / 2 ^ lo % 2 ^ w) := by
    rw [bits, Nat.shiftLeft_eq, Nat.shiftRight_eq_div_pow, Nat.mul_comm]
  have room : 2 ^ lo * (v % 2 ^ w) + x.toNat % 2 ^ lo < 2 ^ (lo + w) := by
    rw [Nat.pow_add]
    exact Nat.lt_of_lt_of_le (Nat.add_lt_add_left (Nat.mod_lt _ (Nat.two_pow_pos lo)) _)
      (by rw [← Nat.mul_succ]; exact Nat.mul_le_mul_left _ (Nat.mod_lt v (Nat.two_pow_pos w)))
  have bound : 2 ^ (lo + w) * (x.toNat / 2 ^ (lo + w)) + (2 ^ lo * (v % 2 ^ w) + x.toNat % 2 ^ lo) < 2 ^ 32 := by
    obtain ⟨d, hd⟩ := Nat.exists_eq_add_of_le fits
    have quot : x.toNat / 2 ^ (lo + w) < 2 ^ d := Nat.div_lt_of_lt_mul (by rw [← Nat.pow_add, ← hd]; exact x.isLt)
    calc 2 ^ (lo + w) * (x.toNat / 2 ^ (lo + w)) + (2 ^ lo * (v % 2 ^ w) + x.toNat % 2 ^ lo)
        < 2 ^ (lo + w) * (x.toNat / 2 ^ (lo + w)) + 2 ^ (lo + w) := Nat.add_lt_add_left room _
      _ = 2 ^ (lo + w) * (x.toNat / 2 ^ (lo + w) + 1) := (Nat.mul_succ _ _).symm
      _ ≤ 2 ^ (lo + w) * 2 ^ d := Nat.mul_le_mul_left _ quot
      _ = 2 ^ 32 := by rw [← Nat.pow_add, ← hd]
  rw [setFld, BitVec.toNat_ofNat, field, Nat.shiftLeft_eq, Nat.mul_comm (v % 2 ^ w)]
  rw [show x.toNat - 2 ^ lo * (x.toNat / 2 ^ lo % 2 ^ w) + 2 ^ lo * (v % 2 ^ w) =
    2 ^ (lo + w) * (x.toNat / 2 ^ (lo + w)) + (2 ^ lo * (v % 2 ^ w) + x.toNat % 2 ^ lo) by omega, Nat.mod_eq_of_lt bound]

/-- A bit of a word with a field set. -/
theorem bit_setFld {lo w : Nat} (fits : lo + w ≤ 32) (x : Word) (v k : Nat) :
    bit (setFld x lo w v) k = if lo ≤ k ∧ k < lo + w then v.testBit (k - lo) else bit x k := by
  have low : x.toNat % 2 ^ lo < 2 ^ lo := Nat.mod_lt _ (Nat.two_pow_pos lo)
  have room : 2 ^ lo * (v % 2 ^ w) + x.toNat % 2 ^ lo < 2 ^ (lo + w) := by
    rw [Nat.pow_add]
    exact Nat.lt_of_lt_of_le (Nat.add_lt_add_left low _)
      (by rw [← Nat.mul_succ]; exact Nat.mul_le_mul_left _ (Nat.mod_lt v (Nat.two_pow_pos w)))
  rw [bit, bit, toNat_setFld fits, Nat.testBit_two_pow_mul_add _ room, Nat.testBit_two_pow_mul_add _ low]
  by_cases below : k < lo
  · rw [if_pos (by omega), if_pos below, if_neg (by omega), Nat.testBit_mod_two_pow, decide_eq_true below, Bool.true_and]
  by_cases inside : k < lo + w
  · rw [if_pos inside, if_neg below, if_pos ⟨by omega, inside⟩, Nat.testBit_mod_two_pow, decide_eq_true (by omega), Bool.true_and]
  · rw [if_neg inside, if_neg (by omega), Nat.testBit_div_two_pow, show k - (lo + w) + (lo + w) = k by omega]

/-- A field reads what was written to it, cut to its width. -/
theorem fld_setFld_same {lo w : Nat} (fits : lo + w ≤ 32) (x : Word) (v : Nat) : fld (setFld x lo w v) lo w = v % 2 ^ w := by
  refine Nat.eq_of_testBit_eq fun i => ?_
  rw [testBit_fld, Nat.testBit_mod_two_pow, bit_setFld fits]
  by_cases inside : i < w
  · rw [if_pos ⟨by omega, by omega⟩, Nat.add_sub_cancel_left]
  · rw [decide_eq_false inside, Bool.false_and, Bool.false_and]

theorem bit_setBit {i : Nat} (fits : i < 32) (x : Word) (b : Bool) (k : Nat) :
    bit (setBit x i b) k = if k = i then b else bit x k := by
  rw [setBit, bit_setFld (by omega)]
  by_cases same : k = i
  · rw [if_pos ⟨by omega, by omega⟩, if_pos same, show k - i = 0 by omega]
    cases b <;> rfl
  · rw [if_neg (by omega), if_neg same]

/-! ### Tables -/

section
variable {α : Type} [DecidableEq α] {t : Tbl α}

/-- Where keys rise, the key that was changed reads the change. -/
theorem Tbl.look_upd_rising (rising : t.rising) (d : α) (k : Nat) (f : α → α) :
    Tbl.look d (Tbl.upd d t k f) k = f (Tbl.look d t k) := Tbl.look_put_rising rising

/-- Another key reads as before a change. -/
theorem Tbl.look_upd_ne {k k' : Nat} (other : k' ≠ k) (t : Tbl α) (d : α) (f : α → α) :
    Tbl.look d (Tbl.upd d t k f) k' = Tbl.look d t k' := Tbl.look_put_ne other _ _ _ _

/-- A change keeps keys rising. -/
theorem Tbl.upd_rising (rising : t.rising) (d : α) (k : Nat) (f : α → α) : (Tbl.upd d t k f).rising := Tbl.put_rising rising

end

end Sys2Proof

namespace Sys2Proof.Machine
variable {s : State}

/-! ### Parts of the state by number -/

theorem State.sess_modSess_self (rising : s.sessions.rising) (i : Nat) (f : Session → Session) :
    (s.modSess i f).sess i = f (s.sess i) := Tbl.look_upd_rising rising _ _ _

theorem State.modSess_rising (rising : s.sessions.rising) (i : Nat) (f : Session → Session) :
    (s.modSess i f).sessions.rising := Tbl.upd_rising rising _ _ _

theorem State.port_modPort_self (rising : s.ports.rising) (p : Nat) (f : FabPort → FabPort) :
    (s.modPort p f).port p = f (s.port p) := Tbl.look_upd_rising rising _ _ _

theorem State.cpb_modCpb_self (rising : s.cpbs.rising) (b : Nat) (f : CpbSt → CpbSt) :
    (s.modCpb b f).cpb b = f (s.cpb b) := Tbl.look_upd_rising rising _ _ _

theorem State.modCpb_rising (rising : s.cpbs.rising) (b : Nat) (f : CpbSt → CpbSt) :
    (s.modCpb b f).cpbs.rising := Tbl.upd_rising rising _ _ _

/-! ### Registers of one page -/

/-- Two registers of offsets below a page's size share a key only where they are one register. -/
theorem rkey_inj {pg off sel pg' off' sel' : Nat} (ho : off < 2 ^ 14) (ho' : off' < 2 ^ 14) (hp : pg < 2 ^ 12) (hp' : pg' < 2 ^ 12)
    (same : rkey pg off sel = rkey pg' off' sel') : pg = pg' ∧ off = off' ∧ sel = sel' := by
  unfold rkey at same
  omega

/-- Registers of different offsets of a page's size have different keys, whatever their pages, at selector 0. -/
theorem rkey_ne {pg off pg' off' : Nat} (ho : off < 2 ^ 14) (ho' : off' < 2 ^ 14) (other : off ≠ off') :
    rkey pg off 0 ≠ rkey pg' off' 0 := by
  unfold rkey
  omega

/-- Another register at selector 0 reads as before, on whatever page. -/
theorem State.reg_setReg_off_ne (s : State) {pg off pg' off' : Nat} (v : Word) (ho : off < 2 ^ 14) (ho' : off' < 2 ^ 14)
    (other : off' ≠ off) : (s.setReg pg off v).reg pg' off' = s.reg pg' off' :=
  s.reg_setReg_ne v (rkey_ne ho' ho other)

end Sys2Proof.Machine
end

section
/-!
Raising an event (R363 to R365, R390 to R398): what each of its parts changes, and what the registers of the block read
afterwards.
-/

namespace Sys2Proof.Machine
variable {s : State}

/-! ### What leaves to a session -/

/-- The states differ at most in the sessions and in what has left or is held back. -/
def SameButMessages (s t : State) : Prop := t = { s with sessions := t.sessions, out := t.out, held := t.held }

theorem SameButMessages.refl (s : State) : SameButMessages s s := rfl

theorem SameButMessages.trans {s t u : State} (hst : SameButMessages s t) (htu : SameButMessages t u) : SameButMessages s u := by
  unfold SameButMessages at hst htu ⊢
  rw [hst] at htu
  exact htu

theorem State.send_frame (s : State) (i kind : Nat) (ref : Word) (dest : Option (HostPort × Nat)) (body : List Byte) :
    SameButMessages s (s.send i kind ref dest body) := rfl

theorem State.sendEvents_frame (s : State) (i : Nat) : SameButMessages s (s.sendEvents i) := by
  unfold State.sendEvents
  dsimp only
  split
  · rfl
  · split
    · rfl
    · refine .trans (t := s.modSess i _) rfl (foldl_rel SameButMessages .refl (fun _ _ _ => .trans) _ (fun t l => ?_) _ _)
      exact State.send_frame ..

/-- An event record changes the ring, its head register, and what the sessions are sent. -/
theorem State.eventRecord_frame (s : State) (cls : Nat) (tail : List Byte) :
    ∃ ring, SameButMessages { s.setReg pgMgt Off.MGT_EVT_HEAD (s.reg pgMgt Off.MGT_EVT_HEAD + 1) with ring := ring }
      (s.eventRecord cls tail) :=
  ⟨_, foldl_rel SameButMessages .refl (fun _ _ _ => .trans) _
    (fun t i => .trans (t := t.modSess i _) rfl (State.sendEvents_frame _ i)) _ _⟩

/-! ### The command counters of the sessions -/

/-- Where session slots are in their order, they stay so and keep their command counters (R356). -/
def KeepsCmds (s t : State) : Prop := s.sessions.rising → t.sessions.rising ∧ ∀ i, (t.sess i).cmds = (s.sess i).cmds

theorem KeepsCmds.refl (s : State) : KeepsCmds s s := fun rising => ⟨rising, fun _ => rfl⟩

theorem KeepsCmds.trans {s t u : State} (hst : KeepsCmds s t) (htu : KeepsCmds t u) : KeepsCmds s u := fun rising =>
  have ⟨risingT, cmdsT⟩ := hst rising
  have ⟨risingU, cmdsU⟩ := htu risingT
  ⟨risingU, fun i => (cmdsU i).trans (cmdsT i)⟩

theorem KeepsCmds.of_sessions_eq {s t : State} (same : t.sessions = s.sessions) : KeepsCmds s t := fun rising =>
  ⟨same ▸ rising, fun i => by rw [State.sess, State.sess, same]⟩

theorem State.modSess_keepsCmds (s : State) (i : Nat) (f : Session → Session) (keeps : ∀ x, (f x).cmds = x.cmds) :
    KeepsCmds s (s.modSess i f) := fun rising => by
  refine ⟨State.modSess_rising rising i f, fun k => ?_⟩
  by_cases same : k = i
  · rw [same, State.sess_modSess_self rising, keeps]
  · rw [State.sess_modSess_ne s same]

theorem State.send_keepsCmds (s : State) (i kind : Nat) (ref : Word) (dest : Option (HostPort × Nat)) (body : List Byte) :
    KeepsCmds s (s.send i kind ref dest body) :=
  s.modSess_keepsCmds i (fun y => { y with txSeq := y.txSeq + 1 }) fun _ => rfl

theorem State.sendEvents_keepsCmds (s : State) (i : Nat) : KeepsCmds s (s.sendEvents i) := by
  unfold State.sendEvents
  dsimp only
  split
  · exact .refl s
  · split
    · exact .refl s
    · refine .trans ?_ (foldl_rel KeepsCmds .refl (fun _ _ _ => .trans) _ (fun t l => ?_) _ _)
      · exact s.modSess_keepsCmds i _ fun _ => rfl
      · exact t.send_keepsCmds _ _ _ _ _

theorem State.eventRecord_keepsCmds (s : State) (cls : Nat) (tail : List Byte) : KeepsCmds s (s.eventRecord cls tail) := by
  unfold State.eventRecord
  refine .trans ?_ (foldl_rel KeepsCmds .refl (fun _ _ _ => .trans) _ (fun t i => ?_) _ _)
  · exact .of_sessions_eq rfl
  · refine .trans ?_ (State.sendEvents_keepsCmds _ i)
    exact t.modSess_keepsCmds i _ fun _ => rfl

/-! ### The capture -/

/-- The first `n` words of a capture are set. -/
def State.setCaptureTo (s : State) (pg : Nat) (ws : List Word) (n : Nat) : State :=
  (List.range n).foldl (fun s i => s.setReg pg (Off.BLK_FIRST_ERR0 + 4 * i) (ws.getD i 0)) s

theorem State.setCapture_eq_setCaptureTo (s : State) (pg : Nat) (ws : List Word) : s.setCapture pg ws = s.setCaptureTo pg ws 8 := rfl

theorem State.setCaptureTo_succ (s : State) (pg : Nat) (ws : List Word) (n : Nat) :
    s.setCaptureTo pg ws (n + 1) = (s.setCaptureTo pg ws n).setReg pg (Off.BLK_FIRST_ERR0 + 4 * n) (ws.getD n 0) := by
  rw [setCaptureTo, List.range_succ, List.foldl_append]
  rfl

theorem State.setCaptureTo_frame (s : State) (pg : Nat) (ws : List Word) (n : Nat) :
    s.setCaptureTo pg ws n = { s with regs := (s.setCaptureTo pg ws n).regs } := by
  induction n with
  | zero => rfl
  | succ n ih => rw [setCaptureTo_succ, ih]; rfl

theorem State.setCaptureTo_rising (rising : s.regs.rising) (pg : Nat) (ws : List Word) (n : Nat) :
    (s.setCaptureTo pg ws n).regs.rising := by
  induction n with
  | zero => exact rising
  | succ n ih => rw [setCaptureTo_succ]; exact State.setReg_rising ih _ _ _ _

/-- A register that is no capture word reads as before. -/
theorem State.reg_setCaptureTo_ne (s : State) (pg : Nat) (ws : List Word) {pg' off n : Nat} (few : n ≤ 8) (low : off < 2 ^ 14)
    (outside : off < 0x20 ∨ 0x40 ≤ off) : (s.setCaptureTo pg ws n).reg pg' off = s.reg pg' off := by
  induction n with
  | zero => rfl
  | succ n ih =>
    have place : Off.BLK_FIRST_ERR0 + 4 * n = 0x20 + 4 * n := rfl
    rw [setCaptureTo_succ, State.reg_setReg_off_ne _ _ (by omega) low (by omega), ih (by omega)]

/-- A capture word reads as it was set. -/
theorem State.reg_setCaptureTo (rising : s.regs.rising) (pg : Nat) (ws : List Word) {n k : Nat} (few : n ≤ 8) (hk : k < n) :
    (s.setCaptureTo pg ws n).reg pg (Off.BLK_FIRST_ERR0 + 4 * k) = ws.getD k 0 := by
  induction n with
  | zero => omega
  | succ n ih =>
    have place : Off.BLK_FIRST_ERR0 = 0x20 := rfl
    rw [setCaptureTo_succ]
    by_cases last : k = n
    · rw [last, State.reg_setReg_self (State.setCaptureTo_rising rising pg ws n)]
    · rw [State.reg_setReg_off_ne _ _ (by omega) (by omega) (by omega), ih (by omega) (by omega)]

theorem State.setCapture_frame (s : State) (pg : Nat) (ws : List Word) :
    s.setCapture pg ws = { s with regs := (s.setCapture pg ws).regs } := s.setCaptureTo_frame pg ws 8

/-- A capture reads the eight words that were set. -/
theorem State.capture_setCapture (rising : s.regs.rising) (pg : Nat) (ws : List Word) :
    (s.setCapture pg ws).capture pg = (List.range 8).map fun i => ws.getD i 0 :=
  List.map_congr_left fun _ hk => State.reg_setCaptureTo rising pg ws (Nat.le_refl 8) (List.mem_range.mp hk)

/-- A capture is its eight registers: states that agree on them agree on it. -/
theorem State.capture_congr {s t : State} {pg : Nat} (same : ∀ off, 0x20 ≤ off → off < 0x40 → t.reg pg off = s.reg pg off) :
    t.capture pg = s.capture pg :=
  List.map_congr_left fun k hk => by
    have := List.mem_range.mp hk
    exact same (0x20 + 4 * k) (by omega) (by omega)

theorem State.takeCapture_frame (s : State) (e : Occ) (cls : Nat) :
    s.takeCapture e cls = { s with regs := (s.takeCapture e cls).regs } := by
  unfold State.takeCapture
  dsimp only
  split
  · exact s.setCapture_frame _ _
  · split
    · split
      · exact s.setCapture_frame _ _
      · rfl
    · split <;> rfl

/-- Taking a capture leaves every other register. -/
theorem State.reg_takeCapture_ne (s : State) (e : Occ) (cls : Nat) {pg off : Nat} (low : off < 2 ^ 14)
    (outside : off < 0x20 ∨ 0x40 ≤ off) : (s.takeCapture e cls).reg pg off = s.reg pg off := by
  have whole : (s.setCapture e.pg (s.captureWords e cls)).reg pg off = s.reg pg off :=
    s.reg_setCaptureTo_ne _ _ (Nat.le_refl 8) low outside
  unfold State.takeCapture
  dsimp only
  split
  · exact whole
  · split
    · split
      · exact whole
      · rfl
    · split
      · exact State.reg_setReg_off_ne _ _ (by decide) low (show off ≠ 0x20 by omega)
      · rfl

theorem State.capture_eq_cons (s : State) (pg : Nat) :
    s.capture pg = s.reg pg Off.BLK_FIRST_ERR0 :: (List.range 7).map fun i => s.reg pg (0x24 + 4 * i) := rfl

/-- The first capture word is set, the seven others are as they were. -/
theorem State.capture_setReg_first (rising : s.regs.rising) (pg : Nat) (v : Word) :
    (s.setReg pg Off.BLK_FIRST_ERR0 v).capture pg = v :: (s.capture pg).drop 1 := by
  rw [capture_eq_cons, capture_eq_cons, List.drop_one, List.tail_cons, State.reg_setReg_self rising]
  refine congrArg _ (List.map_congr_left fun k hk => ?_)
  have := List.mem_range.mp hk
  exact State.reg_setReg_off_ne _ _ (by decide) (by omega) (show 0x24 + 4 * k ≠ 0x20 by omega)

/-- What the capture holds after one more occurrence (R396). -/
theorem State.capture_takeCapture (rising : s.regs.rising) (e : Occ) (cls : Nat) :
    let old := s.reg e.pg Off.BLK_FIRST_ERR0
    (bit old 31 = false ∨ (fld old 4 2 = 0 ∧ 0 < cls) → (s.takeCapture e cls).capture e.pg = s.captureWords e cls) ∧
    (bit old 31 = true → fld old 4 2 = 0 → cls = 0 → (s.takeCapture e cls).capture e.pg = s.capture e.pg) ∧
    (bit old 31 = true → fld old 4 2 ≠ 0 →
      (s.takeCapture e cls).capture e.pg = (if cls = 0 then old else setBit old 7 true) :: (s.capture e.pg).drop 1) := by
  intro old
  have whole : (s.setCapture e.pg (s.captureWords e cls)).capture e.pg = s.captureWords e cls :=
    State.capture_setCapture rising _ _
  refine ⟨fun h => ?_, fun held low corrected => ?_, fun held high => ?_⟩
  · unfold State.takeCapture
    by_cases held : bit old 31 = true
    · obtain ⟨low, higher⟩ := h.resolve_left (by rw [held]; exact Bool.noConfusion)
      simp only [show bit (s.reg e.pg Off.BLK_FIRST_ERR0) 31 = true from held, Bool.not_true, Bool.false_eq_true, if_false,
        show fld (s.reg e.pg Off.BLK_FIRST_ERR0) 4 2 = 0 from low, if_true, if_pos higher]
      exact whole
    · simp only [show bit (s.reg e.pg Off.BLK_FIRST_ERR0) 31 = false from Bool.eq_false_iff.mpr held, Bool.not_false, if_true]
      exact whole
  · unfold State.takeCapture
    simp only [show bit (s.reg e.pg Off.BLK_FIRST_ERR0) 31 = true from held, Bool.not_true, Bool.false_eq_true, if_false,
      show fld (s.reg e.pg Off.BLK_FIRST_ERR0) 4 2 = 0 from low, if_true, corrected, Nat.lt_irrefl, gt_iff_lt]
  · unfold State.takeCapture
    simp only [show bit (s.reg e.pg Off.BLK_FIRST_ERR0) 31 = true from held, Bool.not_true, Bool.false_eq_true, if_false,
      show fld (s.reg e.pg Off.BLK_FIRST_ERR0) 4 2 ≠ 0 from high]
    by_cases corrected : cls = 0
    · rw [if_neg (by omega), if_pos corrected]
      rfl
    · rw [if_pos (by omega), if_neg corrected]
      exact State.capture_setReg_first rising _ _

end Sys2Proof.Machine
end

section
/-!
What raising an event records and what it leaves (R391, R395, R396, R401, R408).
-/

namespace Sys2Proof.Machine
variable {s : State}

/-- The block's event bit and capture after an event; those of a fenced region stay. -/
def State.marked (s : State) (e : Occ) : State :=
  if s.frozen e.pg then s else (s.setRfld e.pg Off.BLK_EVENT e.ev 1 1).takeCapture e (s.classOf e.pg e.ev)

theorem State.marked_frame (s : State) (e : Occ) : s.marked e = { s with regs := (s.marked e).regs } := by
  unfold State.marked
  split
  · rfl
  · rw [State.takeCapture_frame]
    rfl

/-- `t` differs from `s` at most as an event record and a fault log entry make it. -/
structure RecordedFrom (s t : State) : Prop where
  frame : t = { s with regs := t.regs, ring := t.ring, sessions := t.sessions, out := t.out, held := t.held, flt := t.flt }
  flt : t.flt = { s.flt with queue := t.flt.queue, containedLogged := t.flt.containedLogged }
  regs : t.regs = s.regs ∨ ∃ v, t.regs = (s.setReg pgMgt Off.MGT_EVT_HEAD v).regs
  cmds : KeepsCmds s t

theorem RecordedFrom.refl (s : State) : RecordedFrom s s := ⟨rfl, rfl, .inl rfl, .refl s⟩

theorem State.eventRecord_recorded (s : State) (cls : Nat) (tail : List Byte) : RecordedFrom s (s.eventRecord cls tail) := by
  obtain ⟨ring, frame⟩ := s.eventRecord_frame cls tail
  unfold SameButMessages at frame
  refine ⟨?_, ?_, ?_, s.eventRecord_keepsCmds cls tail⟩
  · rw [frame]; rfl
  · rw [frame]; rfl
  · rw [frame]; exact .inr ⟨_, rfl⟩

/-- A fault log entry behind an event record. -/
theorem RecordedFrom.withFlt {s t : State} (h : RecordedFrom s t) (queue : List LogReq) (n : Nat) :
    RecordedFrom s { t with flt := { t.flt with queue := queue, containedLogged := n } } := by
  obtain ⟨frame, flt, regs, cmds⟩ := h
  refine ⟨?_, ?_, regs, cmds⟩
  · rw [frame]
  · show _ = { s.flt with queue := queue, containedLogged := n }
    rw [flt]

/-- Raising an event marks its block, records it, and leaves the action of its class to be taken. -/
theorem State.raise_recorded (s : State) (e : Occ) :
    ∃ t, RecordedFrom (s.marked e) t ∧
      s.raise e = { t with todo := t.todo ++ e.reactions (defaultClass e.pg e.ev) (s.classOf e.pg e.ev) } := by
  have record (c : Prop) [Decidable c] (m : State) (cls : Nat) (tail : List Byte) :
      RecordedFrom m (if c then m.eventRecord cls tail else m) := by
    split
    · exact m.eventRecord_recorded cls tail
    · exact .refl m
  have log (c : Prop) [Decidable c] (m t : State) (h : RecordedFrom m t) (queue : List LogReq) (n : Nat) :
      RecordedFrom m (if c then { t with flt := { t.flt with queue := queue, containedLogged := n } } else t) := by
    split
    · exact h.withFlt queue n
    · exact h
  exact ⟨_, log _ (s.marked e) _ (record _ (s.marked e) _ _) _ _, rfl⟩

theorem State.raise_keepsCmds (s : State) (e : Occ) : KeepsCmds s (s.raise e) := by
  obtain ⟨t, recorded, raised⟩ := s.raise_recorded e
  have marked : KeepsCmds s (s.marked e) := .of_sessions_eq (by rw [s.marked_frame e])
  rw [raised]
  exact marked.trans (recorded.cmds.trans (.of_sessions_eq rfl))

/-! ### Registers after an event -/

/-- A register other than the head of the event ring reads as the marked block left it. -/
theorem RecordedFrom.reg_eq {s t : State} (h : RecordedFrom s t) {pg off : Nat}
    (other : rkey pg off 0 ≠ rkey pgMgt Off.MGT_EVT_HEAD 0) : t.reg pg off = s.reg pg off := by
  have same : t.reg pg off = t.regs.look (resetWord pg off 0) (rkey pg off 0) := rfl
  rcases h.regs with regs | ⟨v, regs⟩
  · rw [same, regs]; rfl
  · rw [same, regs]; exact s.reg_setReg_ne v other

theorem RecordedFrom.reg_header {s t : State} (h : RecordedFrom s t) {pg off : Nat} (header : off < 0x80) :
    t.reg pg off = s.reg pg off :=
  h.reg_eq (rkey_ne (by omega) (by decide) (show off ≠ 0x170 by omega))

/-- The event bit of a block that is not fenced is set. -/
theorem State.rbit_marked_event {e : Occ} (rising : s.regs.rising) (low : e.ev < 16) (unfenced : s.frozen e.pg = false) :
    (s.marked e).rbit e.pg Off.BLK_EVENT e.ev = true := by
  rw [State.marked, if_neg (by rw [unfenced]; exact Bool.false_ne_true), State.rbit,
    State.reg_takeCapture_ne _ _ _ (by decide) (.inl (by decide)), State.setRfld, State.reg_setReg_self rising,
    bit_setFld (by omega), if_pos ⟨Nat.le_refl _, Nat.lt_succ_self _⟩, Nat.sub_self]
  rfl

/-- The capture of a block that is not fenced is taken from the words it held before. -/
theorem State.capture_marked {e : Occ} (rising : s.regs.rising) (unfenced : s.frozen e.pg = false) :
    let cls := s.classOf e.pg e.ev
    let old := s.reg e.pg Off.BLK_FIRST_ERR0
    (bit old 31 = false ∨ (fld old 4 2 = 0 ∧ 0 < cls) → (s.marked e).capture e.pg = s.captureWords e cls) ∧
    (bit old 31 = true → fld old 4 2 = 0 → cls = 0 → (s.marked e).capture e.pg = s.capture e.pg) ∧
    (bit old 31 = true → fld old 4 2 ≠ 0 →
      (s.marked e).capture e.pg = (if cls = 0 then old else setBit old 7 true) :: (s.capture e.pg).drop 1) := by
  have first : (s.setRfld e.pg Off.BLK_EVENT e.ev 1 1).reg e.pg Off.BLK_FIRST_ERR0 = s.reg e.pg Off.BLK_FIRST_ERR0 :=
    s.reg_setReg_off_ne _ (by decide) (by decide) (by decide)
  have words : (s.setRfld e.pg Off.BLK_EVENT e.ev 1 1).capture e.pg = s.capture e.pg :=
    State.capture_congr fun off _ _ => s.reg_setReg_off_ne _ (by decide) (by omega) (show off ≠ 0x10 by omega)
  have taken := State.capture_takeCapture (s := s.setRfld e.pg Off.BLK_EVENT e.ev 1 1)
    (State.setReg_rising rising _ _ _ _) e (s.classOf e.pg e.ev)
  rw [first, words] at taken
  rw [State.marked, if_neg (by rw [unfenced]; exact Bool.false_ne_true)]
  exact taken

/-- A fenced block is no chip block, so its registers are not the head of the event ring. -/
theorem State.rkey_ne_of_frozen {pg off : Nat} (fenced : s.frozen pg = true) (low : off < 2 ^ 14) :
    rkey pg off 0 ≠ rkey pgMgt Off.MGT_EVT_HEAD 0 := by
  simp only [State.frozen, Bool.and_eq_true, decide_eq_true_eq] at fenced
  have head : rkey pgMgt Off.MGT_EVT_HEAD 0 = 0xC02 * 2 ^ 14 + 0x170 := rfl
  have key : rkey pg off 0 = pg * 2 ^ 14 + off := by rw [rkey]; omega
  omega

/-- Settles O57: the block is marked first, and what follows writes no register of its header. -/
theorem raiseRecords : Obligations.RaiseRecords := by
  intro s e rising low
  obtain ⟨t, recorded, raised⟩ := s.raise_recorded e
  have captured : t.capture e.pg = (s.marked e).capture e.pg :=
    State.capture_congr fun off _ _ => recorded.reg_header (by omega)
  have event : t.rbit e.pg Off.BLK_EVENT e.ev = (s.marked e).rbit e.pg Off.BLK_EVENT e.ev := by
    rw [State.rbit, State.rbit, recorded.reg_header (by decide)]
  have marked := s.marked_frame e
  have todo : t.todo = s.todo := by rw [recorded.frame, marked]
  rw [raised]
  refine ⟨?frame, ?flt, congrArg (· ++ _) todo, fun fenced off small => ?fenced, fun unfenced => ⟨?event, ?capture⟩⟩
  case frame => rw [recorded.frame, marked]
  case flt => exact recorded.flt.trans (by rw [marked])
  case fenced =>
    have stays : s.marked e = s := if_pos fenced
    have kept := recorded.reg_eq (State.rkey_ne_of_frozen fenced small)
    rw [stays] at kept
    exact kept
  case event => exact event.trans (State.rbit_marked_event rising low unfenced)
  case capture =>
    have words := State.capture_marked rising unfenced
    rw [← captured] at words
    exact words

end Sys2Proof.Machine
end

section
/-!
Sessions: what an accepted message leaves in its session (R341, R342), and the REPLY that is kept for its number (R343).
-/

namespace Sys2Proof.Machine
open Sys2Proof.Safety
variable {s : State}

/-! ### The session after a message -/

/-- The highest number does not fall. -/
theorem Session.passed_rxMax (x : Session) (m : RalowIn) (now : Nat) :
    (x.passed m now).rxMax.toNat = max x.rxMax.toNat m.seq.toNat := by
  unfold Session.passed
  dsimp only
  split <;> omega

/-- The number of a message that was fresh has been seen. -/
theorem Session.fresh_passed {x : Session} {m : RalowIn} (fresh : x.fresh m.seq = true) (now : Nat) :
    (x.passed m now).fresh m.seq = false := by
  simp only [Session.fresh, Bool.and_eq_true, decide_eq_true_eq] at fresh
  obtain ⟨-, inWindow⟩ := fresh
  have kept : (if x.rxMax.toNat < m.seq.toNat then m.seq else x.rxMax).toNat < m.seq.toNat + 64 := by
    split <;> omega
  have seen : (x.passed m now).seen.contains m.seq = true := by
    rw [List.contains_iff_mem]
    exact List.mem_filter.mpr ⟨List.mem_cons_self, decide_eq_true kept⟩
  rw [Session.fresh, seen]
  rfl

/-- The return address of the message's network is its own, that of the other network stays. -/
theorem Session.ret_passed (x : Session) (m : RalowIn) (now : Nat) :
    (x.passed m now).ret (netOf m.port).val = some (m.port, m.src) ∧
    (x.passed m now).ret (1 - (netOf m.port).val) = x.ret (1 - (netOf m.port).val) := by
  unfold Session.passed Session.ret
  generalize netOf m.port = net
  match net with
  | 0 => exact ⟨rfl, rfl⟩
  | 1 => exact ⟨rfl, rfl⟩

/-- Settles O8: an accepted message changes its session by `Session.passed` and nothing else. -/
theorem acceptedRecorded : Obligations.AcceptedRecorded := by
  intro s t m rising accepted
  obtain ⟨-, -, -, -, -, fresh, rfl⟩ := accepted
  rw [State.sess_modSess_self rising]
  obtain ⟨own, other⟩ := (s.sess m.slot.val).ret_passed m s.now
  exact ⟨Session.fresh_passed fresh s.now, Session.passed_rxMax _ m s.now, own, other,
    fun i ne => s.sess_modSess_ne ne _, rfl⟩

/-! ### The REPLY -/

/-- What is emitted while no PAUSE holds its port leaves. -/
theorem State.out_emit {e : Emission} (free : s.txPaused e = false) : (s.emit e).out = s.out ++ [e] := by
  rw [State.emit, free]
  rfl

/-- What is emitted while a PAUSE holds its port waits. -/
theorem State.held_emit {e : Emission} (paused : s.txPaused e = true) : (s.emit e).held = s.held ++ [e] := by
  rw [State.emit, paused]
  rfl

/-- A REPLY and the state once it has left. -/
def State.replyMsg (s : State) (m : RalowIn) (status index : Nat) (chit : Word) (data : List Byte) : RalowOut × State :=
  s.sendMsg m.slot.val 5 m.seq (some (m.port, m.src)) (leBytes 2 status ++ leBytes 2 index ++ leBytes 4 chit.toNat ++ data)

theorem State.reply_eq (s : State) (m : RalowIn) (status index : Nat) (chit : Word) (data : List Byte) :
    s.reply m status index chit data = (s.replyMsg m status index chit data).2.modSess m.slot.val fun x =>
      { x with kept := ((m.seq, (s.replyMsg m status index chit data).1) :: x.kept).take 64 } := rfl

/-- Sending a message leaves its session with the next number of the device. -/
theorem State.sendMsg_eq (s : State) (i kind : Nat) (ref : Word) (dest : Option (HostPort × Nat)) (body : List Byte) :
    (s.sendMsg i kind ref dest body).2 =
      (s.modSess i fun y => { y with txSeq := y.txSeq + 1 }).emit (.ralow (s.sendMsg i kind ref dest body).1) := rfl

/-- The REPLY stands first among those that the session keeps. -/
theorem State.kept_reply (rising : s.sessions.rising) (m : RalowIn) (status index : Nat) (chit : Word) (data : List Byte) :
    ∃ l, ((s.reply m status index chit data).sess m.slot.val).kept =
      ((m.seq, (s.replyMsg m status index chit data).1) :: l).take 64 := by
  have sent : (s.replyMsg m status index chit data).2.sessions.rising :=
    State.modSess_rising rising m.slot.val fun y => { y with txSeq := y.txSeq + 1 }
  rw [State.reply_eq, State.sess_modSess_self sent]
  exact ⟨_, rfl⟩

/-- Settles O13: the REPLY is `State.replyMsg`, which leaves or waits and is kept first. -/
theorem replyKept : Obligations.ReplyKept := by
  intro s m status index chit data rising
  obtain ⟨l, kept⟩ := State.kept_reply rising m status index chit data
  refine ⟨(s.replyMsg m status index chit data).1, rfl, rfl, rfl, rfl, rfl, rfl, rfl, fun free => ?_, fun paused => ?_, ?_, ?_⟩
  · rw [State.reply_eq, State.modSess_out, State.replyMsg, State.sendMsg_eq]
    exact State.out_emit free
  · rw [State.reply_eq, State.modSess_held, State.replyMsg, State.sendMsg_eq]
    exact State.held_emit paused
  · rw [kept, List.take_succ_cons]
    exact List.find?_cons_of_pos (beq_self_eq_true m.seq)
  · rw [kept]
    exact List.length_take_le 64 _

end Sys2Proof.Machine
end

section
/-!
The chit of a command (R356, R360).
-/

namespace Sys2Proof.Machine
variable {s : State}

theorem State.watchLevel_keepsCmds (s : State) (pool r before : Nat) (job : Option Nat) :
    KeepsCmds s (s.watchLevel pool r before job) :=
  foldl_rel KeepsCmds .refl (fun _ _ _ => .trans) _ (fun t _ => t.raise_keepsCmds _) _ s

/-- A claim of a pool leaves the sessions' command counters. -/
theorem State.poolTake_keepsCmds {pool r req n k : Nat} {t : State} (taken : s.poolTake pool r req n = some (k, t)) :
    KeepsCmds s t := by
  unfold State.poolTake at taken
  split at taken
  · obtain ⟨u, -, pair⟩ := Option.map_eq_some_iff.mp taken
    cases pair
    unfold State.claimAt
    refine .trans ?_ (State.watchLevel_keepsCmds _ _ _ _ _)
    exact .of_sessions_eq rfl
  · cases taken

/-- What a claimed chit rests on: the lowest unfenced region and a unit of its P3. -/
theorem State.claimChit_eq_some {i net : Nat} {mirror : Bool} {c : Word} {u : State} (claimed : s.claimChit i net mirror = some (c, u)) :
    ∃ r k v, s.lowRegion = some r ∧ s.poolTake 3 r i 1 = some (k, v) ∧
      c = word (i * 2 ^ 28 + (v.sess i).cmds.toNat * 2 ^ 16 + 4096 * r + k) ∧
      u = { v.modSess i (fun x => { x with cmds := x.cmds + 1 }) with chits := v.chits ++
        [{ chit := c, region := r, unit := k, sess := i, epoch := (v.sess i).epoch, net := if net = 0 then 0 else 1, mirror := mirror }] } := by
  unfold State.claimChit at claimed
  split at claimed
  · cases claimed
  · next r low =>
    split at claimed
    · cases claimed
    · next k v taken =>
      cases claimed
      exact ⟨r, k, v, low, taken, rfl, rfl⟩

/-- The lowest unfenced region is not fenced. -/
theorem State.isFenced_of_lowRegion {r : Nat} (low : s.lowRegion = some r) : s.isFenced r = false := by
  simpa using List.find?_some low

/-- Settles O18: the unit's claim leaves the sessions' counters, so the chit holds the counter as it stood. -/
theorem chitLayout : Obligations.ChitLayout := by
  intro s u i net mirror c rising claimed
  obtain ⟨r, k, v, low, taken, chit, rfl⟩ := State.claimChit_eq_some claimed
  obtain ⟨risingV, cmds⟩ := State.poolTake_keepsCmds taken rising
  refine ⟨r, k, v, low, taken, State.isFenced_of_lowRegion low, by rw [chit, cmds], ?_, _,
    List.mem_append_right _ List.mem_cons_self, rfl, rfl, rfl, rfl, rfl⟩
  rw [← cmds i.val]
  exact congrArg Session.cmds (State.sess_modSess_self risingV i.val fun x => { x with cmds := x.cmds + 1 })

end Sys2Proof.Machine
end

section
/-!
The ALU functions (R166) and the scalar registers (R151).
-/

namespace Sys2Proof.Machine

/-- The shift amount is the low 6 bits. -/
theorem bits_zero_six (n : Nat) : bits n 0 6 = n % 64 := rfl

theorem toInt_ite_slt_min (a b : DWord) : (if a.slt b then a else b).toInt = min a.toInt b.toInt := by
  rw [BitVec.slt]
  by_cases less : a.toInt < b.toInt
  · rw [decide_eq_true less, if_pos rfl]; omega
  · rw [decide_eq_false less, if_neg Bool.false_ne_true]; omega

theorem toInt_ite_slt_max (a b : DWord) : (if a.slt b then b else a).toInt = max a.toInt b.toInt := by
  rw [BitVec.slt]
  by_cases less : a.toInt < b.toInt
  · rw [decide_eq_true less, if_pos rfl]; omega
  · rw [decide_eq_false less, if_neg Bool.false_ne_true]; omega

theorem toNat_ite_ult_min (a b : DWord) : (if a.ult b then a else b).toNat = min a.toNat b.toNat := by
  rw [BitVec.ult]
  by_cases less : a.toNat < b.toNat
  · rw [decide_eq_true less, if_pos rfl]; omega
  · rw [decide_eq_false less, if_neg Bool.false_ne_true]; omega

theorem toNat_ite_ult_max (a b : DWord) : (if a.ult b then b else a).toNat = max a.toNat b.toNat := by
  rw [BitVec.ult]
  by_cases less : a.toNat < b.toNat
  · rw [decide_eq_true less, if_pos rfl]; omega
  · rw [decide_eq_false less, if_neg Bool.false_ne_true]; omega

theorem ofBool64_decide (c : Prop) [Decidable c] : ofBool64 (decide c) = if c then 1 else 0 := by
  by_cases h : c <;> simp [ofBool64, h]

/-- The low halves of two scalars as one: the second above the first. -/
theorem toNat_pack_halves (a b : DWord) :
    ((a &&& 0xFFFFFFFF#64) ||| (b <<< 32)).toNat = a.toNat % 2 ^ 32 + b.toNat % 2 ^ 32 * 2 ^ 32 := by
  have low : a.toNat &&& (0xFFFFFFFF#64).toNat = a.toNat % 2 ^ 32 := Nat.and_two_pow_sub_one_eq_mod a.toNat 32
  have high : b.toNat <<< 32 % 2 ^ 64 = (b.toNat % 2 ^ 32) <<< 32 := by
    rw [Nat.shiftLeft_eq, Nat.shiftLeft_eq]
    omega
  rw [BitVec.toNat_or, BitVec.toNat_and, BitVec.toNat_shiftLeft, low, high, Nat.or_comm,
    ← Nat.shiftLeft_add_eq_or_of_lt (Nat.mod_lt _ (Nat.two_pow_pos 32)), Nat.shiftLeft_eq, Nat.add_comm]

/-- What is read of the scalars after a write: S0 reads 0 and ignores it. -/
theorem CpbSt.sreg_setSreg {c : CpbSt} (rising : c.sregs.rising) (r k : Nat) (v : DWord) :
    (r ≠ 0 → (c.setSreg r v).sreg r = v) ∧ (k ≠ r → (c.setSreg r v).sreg k = c.sreg k) := by
  unfold CpbSt.setSreg CpbSt.sreg
  refine ⟨fun nonzero => ?_, fun other => ?_⟩
  · rw [if_neg nonzero, if_neg nonzero]
    exact Tbl.look_put_rising rising
  · by_cases zero : r = 0
    · rw [if_pos zero]
    · rw [if_neg zero]
      exact ite_congr rfl (fun _ => rfl) fun _ => Tbl.look_put_ne other _ _ _ _

/-- Settles O38: the codes that are no operation of `BitVec` by the lemmas above. -/
theorem scalarFunctions : Obligations.ScalarFunctions := by
  refine ⟨fun a b => ⟨rfl, rfl, rfl, rfl, rfl, ?shl, ?shr, ?sar, rfl, toInt_ite_slt_min a b, toInt_ite_slt_max a b,
    toNat_ite_ult_min a b, toNat_ite_ult_max a b, ofBool64_decide _, ofBool64_decide _, ofBool64_decide _, rfl,
    toNat_pack_halves a b⟩,
    fun c r k v rising => ⟨rfl, rfl, CpbSt.sreg_setSreg rising r k v⟩⟩
  case shl =>
    show (a <<< bits b.toNat 0 6).toNat = _
    rw [bits_zero_six, BitVec.toNat_shiftLeft, Nat.shiftLeft_eq]
  case shr =>
    show (a >>> bits b.toNat 0 6).toNat = _
    rw [bits_zero_six, BitVec.toNat_ushiftRight, Nat.shiftRight_eq_div_pow]
  case sar =>
    show (a.sshiftRight (bits b.toNat 0 6)).toInt = _
    rw [bits_zero_six, BitVec.toInt_sshiftRight, Int.shiftRight_eq_div_pow]
    norm_cast

end Sys2Proof.Machine
end

section
/-!
The residue of an accumulator follows its sum and detects every single wrong bit (R58, R63, R64); two levels of a
reduction equal one (R67, R68).
-/

namespace Sys2Proof.Machine

/-! ### The residue of a sum -/

/-- The residue of a sum within 192 bits is the sum of the residues. -/
theorem residueOf_add {a b : BitVec 192} (low : -(2 ^ 191 : Int) ≤ a.toInt + b.toInt) (high : a.toInt + b.toInt < 2 ^ 191) :
    residueOf (a + b) = residueAdd (residueOf a) (residueOf b) := by
  have sum : (a + b).toInt = a.toInt + b.toInt := by
    rw [BitVec.toInt_add]
    exact Int.bmod_eq_of_le (by omega) (by omega)
  have ha := residueOf_eq_toInt_emod a
  have hb := residueOf_eq_toInt_emod b
  have hab := residueOf_eq_toInt_emod (a + b)
  apply BitVec.eq_of_toNat_eq
  rw [residueAdd_toNat]
  omega

theorem residueOk_iff (e : Entry) : e.residueOk = true ↔ residueOf e.acc = e.residue := beq_iff_eq

/-- Adding keeps the residue test while the sum stays within 192 bits. -/
theorem residueOk_accumulate {e : Entry} (a : Addend2) (ok : e.residueOk = true)
    (within : ∀ v b, a = .finite v b → -(2 ^ 191 : Int) ≤ e.acc.toInt + v.toInt ∧ e.acc.toInt + v.toInt < 2 ^ 191) :
    (accumulate e a).residueOk = true := by
  rw [residueOk_iff] at ok
  cases a with
  | finite v b =>
    obtain ⟨low, high⟩ := within v b rfl
    rw [residueOk_iff]
    show residueOf (e.acc + v) = residueAdd e.residue (residueOf v)
    rw [residueOf_add low high, ok]
  | inf neg => cases neg <;> exact beq_iff_eq.mpr ok
  | nan | specials => exact beq_iff_eq.mpr ok

/-! ### One wrong bit -/

theorem toNat_one_shiftLeft {i : Nat} (low : i < 192) : (1#192 <<< i).toNat = 2 ^ i := by
  rw [BitVec.toNat_shiftLeft, Nat.shiftLeft_eq, show (1#192).toNat = 1 from rfl, Nat.one_mul,
    Nat.mod_eq_of_lt (Nat.pow_lt_pow_right (by decide) low)]

theorem getLsbD_one_shiftLeft {i : Nat} (low : i < 192) (j : Nat) : (1#192 <<< i).getLsbD j = decide (i = j) := by
  rw [BitVec.getLsbD, toNat_one_shiftLeft low, Nat.testBit_two_pow]

/-- Setting a clear bit adds its weight. -/
theorem toNat_xor_bit {v : BitVec 192} {i : Nat} (low : i < 192) (clear : v.getLsbD i = false) :
    (v ^^^ (1#192 <<< i)).toNat = v.toNat + 2 ^ i := by
  have disjoint : v &&& (1#192 <<< i) = 0#192 := by
    ext j hj
    rw [← BitVec.getLsbD_eq_getElem, BitVec.getLsbD_and, getLsbD_one_shiftLeft low]
    by_cases same : i = j
    · subst same; rw [clear]; simp
    · simp [same]
  have joined : v ^^^ (1#192 <<< i) = v + (1#192 <<< i) := by
    rw [BitVec.add_eq_or_of_and_eq_zero _ _ disjoint]
    ext j hj
    have both := congrArg (fun x : BitVec 192 => x.getLsbD j) disjoint
    simp only [BitVec.getLsbD_and, BitVec.getLsbD_zero] at both
    rw [← BitVec.getLsbD_eq_getElem, ← BitVec.getLsbD_eq_getElem, BitVec.getLsbD_xor, BitVec.getLsbD_or]
    cases hv : v.getLsbD j <;> cases hw : (1#192 <<< i).getLsbD j <;> simp_all
  rw [joined, BitVec.toNat_add_of_and_eq_zero disjoint, toNat_one_shiftLeft low]

/-- No power of two is a multiple of 255. -/
theorem two_pow_mod_255_ne_zero (i : Nat) : 2 ^ i % 255 ≠ 0 := by
  induction i with
  | zero => decide
  | succ i ih => rw [Nat.pow_succ]; omega

/-- Setting a clear bit changes the residue. -/
theorem residueOf_xor_bit_ne {v : BitVec 192} {i : Nat} (low : i < 192) (clear : v.getLsbD i = false) :
    residueOf (v ^^^ (1#192 <<< i)) ≠ residueOf v := by
  intro same
  have sums := congrArg BitVec.toNat same
  rw [residueOf_toNat, residueOf_toNat, toNat_xor_bit low clear] at sums
  have sign : (v ^^^ (1#192 <<< i)).msb = (v.msb ^^ decide (i = 191)) := by
    rw [BitVec.msb_xor, BitVec.msb_eq_getLsbD_last (1#192 <<< i), getLsbD_one_shiftLeft low]
  rw [sign] at sums
  by_cases top : i = 191
  · subst top
    have msb : v.msb = false := by rw [BitVec.msb_eq_getLsbD_last]; exact clear
    rw [msb] at sums
    simp only [Bool.false_xor, decide_true, if_true, Bool.false_eq_true, if_false] at sums
    omega
  · have weight := two_pow_mod_255_ne_zero i
    rw [decide_eq_false top, Bool.xor_false] at sums
    omega

/-- An accumulator with one bit wrong has another residue. -/
theorem residueOf_xor_ne (v : BitVec 192) {i : Nat} (low : i < 192) : residueOf (v ^^^ (1#192 <<< i)) ≠ residueOf v := by
  cases set : v.getLsbD i with
  | false => exact residueOf_xor_bit_ne low set
  | true =>
    have clear : (v ^^^ (1#192 <<< i)).getLsbD i = false := by
      rw [BitVec.getLsbD_xor, set, getLsbD_one_shiftLeft low, decide_eq_true rfl]
      rfl
    have back : v ^^^ (1#192 <<< i) ^^^ (1#192 <<< i) = v := by rw [BitVec.xor_assoc, BitVec.xor_self, BitVec.xor_zero]
    have other := residueOf_xor_bit_ne low clear
    rw [back] at other
    exact other.symm

/-- Settles O49: the residue of a sum, and the weight of a bit, which is no multiple of 255. -/
theorem residueTracks : Obligations.ResidueTracks := by
  refine ⟨fun e a ok within => residueOk_accumulate a ok within, fun e i low ok => ?_⟩
  rw [residueOk_iff] at ok
  rw [Bool.eq_false_iff, ne_eq, residueOk_iff]
  exact fun fails => residueOf_xor_ne e.acc low (fails.trans ok.symm)

/-! ### Two levels -/

/-- What addends add to `acc`. -/
def totalAmount : List Addend2 → BitVec 192
  | [] => 0
  | a :: l => a.amount + totalAmount l

/-- What a list of addends does to the parts of an entry that its value rests on. -/
theorem foldl_accumulate_parts (e : Entry) (l : List Addend2) :
    let t := l.foldl accumulate e
    t.acc = e.acc + totalAmount l ∧ t.posInf = (e.posInf || l.any Addend2.setsPosInf) ∧
    t.negInf = (e.negInf || l.any Addend2.setsNegInf) ∧ t.nan = (e.nan || l.any Addend2.setsNan) ∧ t.intMode = e.intMode := by
  induction l generalizing e with
  | nil => exact ⟨(BitVec.add_zero _).symm, (Bool.or_false _).symm, (Bool.or_false _).symm, (Bool.or_false _).symm, rfl⟩
  | cons a l ih =>
    obtain ⟨acc, pos, neg, nan, mode⟩ := ih (accumulate e a)
    rw [accumulate_eq] at acc pos neg nan mode
    rw [List.foldl_cons, accumulate_eq]
    exact ⟨by rw [acc, totalAmount, BitVec.add_assoc], by rw [pos, List.any_cons, Bool.or_assoc],
      by rw [neg, List.any_cons, Bool.or_assoc], by rw [nan, List.any_cons, Bool.or_assoc], mode⟩

/-- The top two bits of a Class T partial say what it is. -/
theorem topBits_eq (w : BitVec 192) : bits w.toNat 190 2 = 2 * (w.getLsbD 191).toNat + (w.getLsbD 190).toNat := by
  have := w.isLt
  have one : w.getLsbD 191 = decide (w.toNat / 2 ^ 191 % 2 = 1) := Nat.testBit_eq_decide_div_mod_eq
  have two : w.getLsbD 190 = decide (w.toNat / 2 ^ 190 % 2 = 1) := Nat.testBit_eq_decide_div_mod_eq
  rw [one, two, bits, Nat.shiftRight_eq_div_pow]
  by_cases high : w.toNat / 2 ^ 191 % 2 = 1 <;> by_cases low : w.toNat / 2 ^ 190 % 2 = 1 <;>
    simp only [high, low, decide_true, decide_false, Bool.toNat_true, Bool.toNat_false] <;> omega

/-- The partial of an entry with a special flag carries the flags and is well formed (R67, R68). -/
theorem addendExact_partialT_special {e : Entry} (special : (e.posInf || e.negInf || e.nan) = true) :
    addendExact e.partialT = .specials e.posInf e.negInf e.nan ∧ malformedPartial e.partialT = false := by
  rw [Entry.partialT, if_pos special]
  revert special
  cases e.posInf <;> cases e.negInf <;> cases e.nan <;> decide

/-- The partial of an entry without a special flag that has not left its range is its accumulator, and well formed
(R67, R464). -/
theorem addendExact_partialT_finite {e : Entry} (plain : (e.posInf || e.negInf || e.nan) = false) (within : e.wrapped = false) :
    addendExact e.partialT = .finite e.acc false ∧ malformedPartial e.partialT = false := by
  have equal : e.acc.getLsbD 191 = e.acc.getLsbD 190 := by
    rw [Entry.wrapped, plain] at within
    simpa using within
  have top := topBits_eq e.acc
  rw [equal] at top
  have partialAcc : e.partialT = e.acc := if_neg (by rw [plain]; exact Bool.false_ne_true)
  rw [partialAcc, addendExact, malformedPartial, top]
  cases e.acc.getLsbD 190 <;> exact ⟨rfl, rfl⟩

/-- The value of an entry rests on its flags, and where none is set on its accumulator and mode. -/
theorem Entry.value_congr {a b : Entry} (pos : a.posInf = b.posInf) (neg : a.negInf = b.negInf) (nan : a.nan = b.nan)
    (mode : a.intMode = b.intMode) (acc : (b.posInf || b.negInf || b.nan) = false → a.acc = b.acc) (floor : Int) :
    a.value floor = b.value floor := by
  unfold Entry.value
  rw [pos, neg, nan, mode]
  cases hp : b.posInf <;> cases hn : b.negInf <;> cases hq : b.nan <;> simp only [hp, hn, hq] at acc ⊢
  case false.false.false => rw [acc rfl]
  all_goals simp only [if_true, and_true, and_false, Bool.false_eq_true, if_false]

/-- Settles O51: a partial of a leaf with a special flag carries the flags alone, one without carries the sum. -/
theorem partialsCompose : Obligations.PartialsCompose := by
  intro p leaf l acc pos neg nan within w two one
  let sum := l.foldl accumulate leaf
  obtain ⟨leafAcc, leafPos, leafNeg, leafNan, -⟩ : sum.acc = leaf.acc + totalAmount l ∧ _ := foldl_accumulate_parts leaf l
  obtain ⟨oneAcc, onePos, oneNeg, oneNan, oneMode⟩ : one.acc = p.acc + totalAmount l ∧ _ := foldl_accumulate_parts p l
  rw [acc, show (0 : BitVec 192) + totalAmount l = totalAmount l from BitVec.zero_add _] at leafAcc
  rw [pos, Bool.false_or] at leafPos
  rw [neg, Bool.false_or] at leafNeg
  rw [nan, Bool.false_or] at leafNan
  rw [← leafPos] at onePos
  rw [← leafNeg] at oneNeg
  rw [← leafNan] at oneNan
  suffices parts : malformedPartial w = false ∧ two.posInf = one.posInf ∧ two.negInf = one.negInf ∧ two.nan = one.nan ∧
      two.intMode = one.intMode ∧ ((one.posInf || one.negInf || one.nan) = false → two.acc = one.acc) by
    obtain ⟨wf, samePos, sameNeg, sameNan, sameMode, sameAcc⟩ := parts
    exact ⟨wf, samePos, sameNeg, sameNan, sameAcc, Entry.value_congr samePos sameNeg sameNan sameMode sameAcc⟩
  cases special : sum.posInf || sum.negInf || sum.nan with
  | true =>
    obtain ⟨addend, wf⟩ := addendExact_partialT_special special
    have added : two = accumulate p (.specials sum.posInf sum.negInf sum.nan) := congrArg (accumulate p) addend
    rw [added]
    refine ⟨wf, onePos.symm, oneNeg.symm, oneNan.symm, oneMode.symm, fun none => ?_⟩
    rw [onePos, oneNeg, oneNan] at none
    simp only [Bool.or_eq_false_iff] at none
    obtain ⟨⟨⟨-, sumPos⟩, -, sumNeg⟩, -, sumNan⟩ := none
    rw [sumPos, sumNeg, sumNan] at special
    cases special
  | false =>
    obtain ⟨addend, wf⟩ := addendExact_partialT_finite special within
    have added : two = accumulate p (.finite sum.acc false) := congrArg (accumulate p) addend
    rw [Bool.or_eq_false_iff, Bool.or_eq_false_iff] at special
    obtain ⟨⟨sumPos, sumNeg⟩, sumNan⟩ := special
    rw [sumPos, Bool.or_false] at onePos
    rw [sumNeg, Bool.or_false] at oneNeg
    rw [sumNan, Bool.or_false] at oneNan
    rw [added]
    refine ⟨wf, onePos.symm, oneNeg.symm, oneNan.symm, oneMode.symm, fun _ => ?_⟩
    rw [oneAcc, ← leafAcc]
    rfl

end Sys2Proof.Machine
end

section
/-!
What the shared counters and events leave as it was: everything but the registers, and for an event what is recorded of
it.
-/

namespace Sys2Proof.Machine

/-! ### Counters -/

/-- A saturating counter is a register. -/
theorem State.bumpSat_frame (s : State) (pg off lo w sel : Nat) :
    s.bumpSat pg off lo w sel = { s with regs := (s.bumpSat pg off lo w sel).regs } := by
  unfold State.bumpSat
  split <;> rfl

theorem State.countCe_frame (s : State) (pg : Nat) : s.countCe pg = { s with regs := (s.countCe pg).regs } := by
  rw [State.countCe, State.perfCount_frame, State.bumpSat_frame]

theorem State.countUe_frame (s : State) (pg : Nat) : s.countUe pg = { s with regs := (s.countUe pg).regs } := by
  rw [State.countUe, State.perfCount_frame, State.bumpSat_frame]

@[simp] theorem State.bump_mem (s : State) (pg off sel n : Nat) : (s.bump pg off sel n).mem = s.mem := by rw [State.bump_frame]
@[simp] theorem State.bump_memErr (s : State) (pg off sel n : Nat) : (s.bump pg off sel n).memErr = s.memErr := by
  rw [State.bump_frame]
@[simp] theorem State.bump_red (s : State) (pg off sel n : Nat) : (s.bump pg off sel n).red = s.red := by rw [State.bump_frame]
@[simp] theorem State.bump_tables (s : State) (pg off sel n : Nat) : (s.bump pg off sel n).tables = s.tables := by
  rw [State.bump_frame]
@[simp] theorem State.bumpSat_mem (s : State) (pg off lo w sel : Nat) : (s.bumpSat pg off lo w sel).mem = s.mem := by
  rw [State.bumpSat_frame]
@[simp] theorem State.bumpSat_memErr (s : State) (pg off lo w sel : Nat) : (s.bumpSat pg off lo w sel).memErr = s.memErr := by
  rw [State.bumpSat_frame]
@[simp] theorem State.countCe_mem (s : State) (pg : Nat) : (s.countCe pg).mem = s.mem := by rw [State.countCe_frame]
@[simp] theorem State.countCe_memErr (s : State) (pg : Nat) : (s.countCe pg).memErr = s.memErr := by rw [State.countCe_frame]
@[simp] theorem State.countUe_mem (s : State) (pg : Nat) : (s.countUe pg).mem = s.mem := by rw [State.countUe_frame]
@[simp] theorem State.countUe_memErr (s : State) (pg : Nat) : (s.countUe pg).memErr = s.memErr := by rw [State.countUe_frame]

/-! ### Events -/

@[simp] theorem State.logFault_mem (s : State) (kind region : Nat) (forced : Bool) (capture others detail : List Byte) :
    (s.logFault kind region forced capture others detail).mem = s.mem := rfl
@[simp] theorem State.logFault_memErr (s : State) (kind region : Nat) (forced : Bool) (capture others detail : List Byte) :
    (s.logFault kind region forced capture others detail).memErr = s.memErr := rfl

/-- An event changes the registers, the event ring, what the sessions are sent, and what waits to be logged or taken. -/
theorem State.raise_frame (s : State) (e : Occ) :
    s.raise e = { s with
      regs := (s.raise e).regs, ring := (s.raise e).ring, sessions := (s.raise e).sessions, out := (s.raise e).out,
      held := (s.raise e).held, flt := (s.raise e).flt, todo := (s.raise e).todo } := by
  obtain ⟨t, recorded, raised⟩ := s.raise_recorded e
  rw [raised, recorded.frame, s.marked_frame e]

@[simp] theorem State.raise_mem (s : State) (e : Occ) : (s.raise e).mem = s.mem := by rw [State.raise_frame]
@[simp] theorem State.raise_memErr (s : State) (e : Occ) : (s.raise e).memErr = s.memErr := by rw [State.raise_frame]
@[simp] theorem State.raise_red (s : State) (e : Occ) : (s.raise e).red = s.red := by rw [State.raise_frame]
@[simp] theorem State.raise_tables (s : State) (e : Occ) : (s.raise e).tables = s.tables := by rw [State.raise_frame]

/-- A drop of the reduction store leaves the reduction state. -/
@[simp] theorem State.dropRst_red (s : State) (r off slot : Nat) : (s.dropRst r off slot).red = s.red := by
  rw [State.dropRst, State.raise_red, State.bump_red]

end Sys2Proof.Machine
end

section
/-!
A write of a memory word (R310, R313): the other words of its burst are read and stored again where that corrects them,
which no byte shows.
-/

namespace Sys2Proof

@[simp] theorem Memory.length_bytes (m : Memory) (a n : Nat) : (m.bytes a n).length = n := by
  induction n generalizing a with
  | zero => rfl
  | succ n ih => rw [Memory.bytes, List.length_cons, ih]

theorem Memory.getElem_bytes (m : Memory) (a n i : Nat) (h : i < (m.bytes a n).length) :
    (m.bytes a n)[i] = Tbl.look 0 m (a + i) := by
  induction n generalizing a i with
  | zero => exact absurd h (Nat.not_lt_zero i)
  | succ n ih =>
    cases i with
    | zero => rfl
    | succ i =>
      simp only [Memory.bytes, List.getElem_cons_succ]
      rw [ih, Nat.add_assoc, Nat.add_comm 1 i]

/-- Bytes that are written as they were read leave every byte. -/
theorem Memory.look_write_bytes {m : Memory} (hm : m.wf) (a n k : Nat) :
    Tbl.look 0 (m.write a (m.bytes a n)) k = Tbl.look 0 m k := by
  by_cases outside : k < a ∨ a + n ≤ k
  · exact m.look_write_outside a k _ (by rwa [Memory.length_bytes])
  · obtain ⟨i, rfl⟩ := Nat.exists_eq_add_of_le (show a ≤ k by omega)
    rw [Memory.look_write hm a i _ (by rw [Memory.length_bytes]; omega), Memory.getElem_bytes]

end Sys2Proof

namespace Sys2Proof.Machine
variable {s : State}

/-! ### What reading a burst leaves -/

/-- The memory and its errors are as they were. -/
theorem State.corrected_mem (s : State) (addr access : Nat) (job : Option Nat) :
    (s.corrected addr access job).mem = s.mem ∧ (s.corrected addr access job).memErr = s.memErr := by
  unfold State.corrected
  dsimp only
  split
  · exact ⟨by rw [State.raise_mem]; simp, by rw [State.raise_memErr]; simp⟩
  · exact ⟨by simp, by simp⟩

theorem State.logBurst_mem (s : State) (addr : Nat) (ue : Bool) (job : Option Nat) :
    (s.logBurst addr ue job).mem = s.mem ∧ (s.logBurst addr ue job).memErr = s.memErr := by
  unfold State.logBurst
  dsimp only
  split
  · exact ⟨rfl, rfl⟩
  · split
    · exact ⟨State.bumpSat_mem .., State.bumpSat_memErr ..⟩
    · exact ⟨(State.logFault_mem ..).trans (State.raise_mem ..), (State.logFault_memErr ..).trans (State.raise_memErr ..)⟩

theorem State.demandUe_mem (s : State) (addr : Nat) (job : Option Nat) (access : Nat) :
    (s.demandUe addr job access).mem = s.mem ∧ (s.demandUe addr job access).memErr = s.memErr := by
  unfold State.demandUe
  refine ⟨(State.logBurst_mem _ _ _ _).1.trans ?_, (State.logBurst_mem _ _ _ _).2.trans ?_⟩
  · rw [State.raise_mem, State.bump_mem, State.countUe_mem]
  · rw [State.raise_memErr, State.bump_memErr, State.countUe_memErr]

/-- `t` has memory as `s` has it, its words with no more symbols in error. -/
structure SameBytes (s t : State) : Prop where
  wf : s.mem.wf = true → t.mem.wf = true
  look : s.mem.wf = true → ∀ a, Tbl.look 0 t.mem a = Tbl.look 0 s.mem a
  rising : s.memErr.rising → t.memErr.rising
  err : s.memErr.rising → ∀ w, t.memErr.look 0 w ≤ s.memErr.look 0 w

theorem SameBytes.of_eq {s t : State} (same : t.mem = s.mem ∧ t.memErr = s.memErr) : SameBytes s t := by
  obtain ⟨mem, err⟩ := same
  exact ⟨fun h => mem ▸ h, fun _ _ => by rw [mem], fun h => err ▸ h, fun _ _ => Nat.le_of_eq (by rw [err])⟩

theorem SameBytes.trans {s t u : State} (hst : SameBytes s t) (htu : SameBytes t u) : SameBytes s u where
  wf h := htu.wf (hst.wf h)
  look h a := (htu.look (hst.wf h) a).trans (hst.look h a)
  rising h := htu.rising (hst.rising h)
  err h w := Nat.le_trans (htu.err (hst.rising h) w) (hst.err h w)

/-- Storing a word again as it decodes, with fewer than three symbols in error, leaves every byte. -/
theorem State.rewriteWord_sameBytes {addr : Nat} (few : s.memErr.look 0 (addr / 16) ≤ 2) : SameBytes s (s.rewriteWord addr) := by
  have stored : (s.rewriteWord addr).mem = s.mem.write (addr / 16 * 16) (s.mem.bytes (addr / 16 * 16) 16) := by
    rw [State.rewriteWord, State.wordBytesAt, if_pos few, State.storeWord,
      List.take_of_length_le (Nat.le_of_eq (Memory.length_bytes _ _ _))]
  refine ⟨fun wf => ?_, fun wf a => ?_, fun rising => Tbl.put_rising rising, fun rising w => ?_⟩
  · rw [stored]; exact Memory.write_wf wf _ _
  · rw [stored]; exact Memory.look_write_bytes wf _ _ _
  · by_cases same : w = addr / 16
    · subst same; exact Nat.le_trans (Nat.le_of_eq (Tbl.look_put_rising rising)) (Nat.zero_le _)
    · exact Nat.le_of_eq (Tbl.look_put_ne same _ _ _ _)

/-- A word with fewer than three symbols in error is left, or stored again, or found uncorrectable. -/
theorem State.rmwWord_sameBytes {addr : Nat} (few : s.memErr.look 0 (addr / 16) ≤ 2) (job : Option Nat) :
    SameBytes s (s.rmwWord addr job) := by
  unfold State.rmwWord
  split
  · split
    · exact .of_eq ⟨rfl, rfl⟩
    · exact State.rewriteWord_sameBytes few
  · obtain ⟨mem, err⟩ := s.corrected_mem addr 3 job
    exact .trans (.of_eq ⟨mem, err⟩) (State.rewriteWord_sameBytes (by rwa [err]))
  · exact .of_eq (s.demandUe_mem addr job 3)

/-- The read of the other words of a burst leaves every byte. -/
theorem State.foldl_rmwWord_sameBytes {l : List Nat} (rising : s.memErr.rising) (at_ : Nat → Nat)
    (few : ∀ k ∈ l, s.memErr.look 0 (at_ k / 16) ≤ 2) (job : Option Nat) :
    SameBytes s (l.foldl (fun s k => s.rmwWord (at_ k) job) s) := by
  induction l generalizing s with
  | nil => exact .of_eq ⟨rfl, rfl⟩
  | cons k l ih =>
    have first := State.rmwWord_sameBytes (few k List.mem_cons_self) job
    exact first.trans (ih (first.rising rising) fun i hi =>
      Nat.le_trans (first.err rising _) (few i (List.mem_cons_of_mem k hi)))

/-- With nothing queued to its channel a burst drains nothing. -/
theorem State.drainBurst_of_queue_nil {addr : Nat} (empty : (s.chan (addrChan addr)).queue = []) : s.drainBurst addr = s := by
  rw [State.drainBurst, empty]
  rfl

/-- A written word is stored behind a read of the rest of its burst. -/
theorem State.writeWord_eq {addr : Nat} (aligned : addr % 16 = 0) (bs : List Byte) (rising : s.memErr.rising)
    (empty : (s.chan (addrChan addr)).queue = []) (few : ∀ k < 4, s.memErr.look 0 (addr / 64 * 4 + k) ≤ 2) :
    ∃ t, SameBytes s t ∧ s.writeWord addr bs = t.storeWord addr bs := by
  have place : addr / 64 * 64 + 16 * (addr / 16 % 4) = addr := by omega
  refine ⟨_, State.foldl_rmwWord_sameBytes (l := (List.range 4).filter fun k => !([(addr / 16 % 4, bs)].any fun x => x.1 == k))
    rising (fun k => addr / 64 * 64 + 16 * k) (fun k hk => ?_) none, ?_⟩
  · have := few k (List.mem_range.mp (List.mem_filter.mp hk).1)
    rwa [show (addr / 64 * 64 + 16 * k) / 16 = addr / 64 * 4 + k by omega]
  · rw [State.writeWord, State.writeBurst, State.drainBurst_of_queue_nil empty, State.applyBurst, List.foldl_cons, List.foldl_nil]
    dsimp only
    rw [place]

/-- Settles O46: the word is stored as written in a state whose bytes are those of `s`. -/
theorem memoryWordWrite : Obligations.MemoryWordWrite := by
  intro s addr bs wf rising aligned length empty few
  obtain ⟨t, same, written⟩ := State.writeWord_eq aligned bs rising empty few
  have wfT := same.wf wf
  have place : addr / 16 * 16 = addr := by omega
  have mem : (t.storeWord addr bs).mem = t.mem.write addr bs := by
    rw [State.storeWord, place, List.take_of_length_le (Nat.le_of_eq length)]
  have err : (t.storeWord addr bs).memErr.look 0 (addr / 16) = 0 := Tbl.look_put_rising (same.rising rising)
  have bytes : Memory.bytes (t.storeWord addr bs).mem addr 16 = bs := by
    rw [mem, ← length]
    exact Memory.bytes_write wfT addr bs
  rw [written]
  refine ⟨?wf, bytes, fun a outside => ?outside, ?decode, ?read⟩
  case wf => rw [mem]; exact Memory.write_wf wfT addr bs
  case outside => rw [mem, Memory.look_write_outside _ _ _ _ (by omega), same.look wf]
  case decode => simp only [State.decodeWord, err]
  case read => rw [State.wordBytesAt, err, if_pos (Nat.zero_le 2), place, bytes]

end Sys2Proof.Machine
end

section
/-!
What a frame start takes from its port and its shaper (O30).
-/

namespace Sys2Proof.Machine
open Sys2Proof.Safety
variable {s : State} {p tc vc : Nat} {d : Desc} {sv : Tbl Nat}

/-- The port whose head frame of queue `k` has started, of class `tc` and VC `vc`. -/
def FabPort.started (x : FabPort) (tc vc : Nat) (d : Desc) (sv : Tbl Nat) : FabPort :=
  { x with
    egress := x.egress.upd [] (tc * 2 + vc) List.tail
    sending := some (d, tc * 2 + vc)
    served := sv
    lastVc := x.lastVc.put 0 tc vc }

/-- The shaper that has paid for `bytes` bytes. -/
def Shaper.paid (x : Shaper) (bytes : Int) : Shaper := { x with level := x.level - 8 * bytes }

/-- A frame start changes its port, and its shaper where that is on. -/
theorem State.startFrame_eq (s : State) (p tc vc : Nat) (d : Desc) (sv : Tbl Nat) :
    s.startFrame p tc vc d sv = { s.modPort p (FabPort.started · tc vc d sv) with
      shapers := if (s.shapers.look {} (p * 8 + tc)).on then s.shapers.upd {} (p * 8 + tc) (Shaper.paid · ((d.len : Int) + 20))
        else s.shapers } := by
  by_cases on : (s.shapers.look {} (p * 8 + tc)).on = true
  · exact (if_pos on).trans (by rw [if_pos on]; rfl)
  · exact (if_neg on).trans (by rw [if_neg on]; rfl)

theorem State.startFrame_ports (s : State) (p tc vc : Nat) (d : Desc) (sv : Tbl Nat) :
    (s.startFrame p tc vc d sv).ports = (s.modPort p (FabPort.started · tc vc d sv)).ports := by
  rw [State.startFrame_eq]

theorem State.startFrame_port_self (rising : s.ports.rising) :
    (s.startFrame p tc vc d sv).port p = (s.port p).started tc vc d sv := by
  rw [State.port, s.startFrame_ports]
  exact State.port_modPort_self rising p _

theorem State.startFrame_port_ne {q : Nat} (other : q ≠ p) : (s.startFrame p tc vc d sv).port q = s.port q := by
  rw [State.port, s.startFrame_ports]
  exact s.port_modPort_ne other _

theorem State.startFrame_shaper (rising : s.shapers.rising) (on : (s.shapers.look {} (p * 8 + tc)).on = true) :
    (s.startFrame p tc vc d sv).shapers.look {} (p * 8 + tc) =
      (s.shapers.look {} (p * 8 + tc)).paid ((d.len : Int) + 20) := by
  have shapers : (s.startFrame p tc vc d sv).shapers = s.shapers.upd {} (p * 8 + tc) (Shaper.paid · ((d.len : Int) + 20)) := by
    rw [State.startFrame_eq, if_pos on]
  rw [shapers, Tbl.look_upd_rising rising]

/-- Settles O30: the port and its shaper are read back by number. -/
theorem frameStartTakes : Obligations.FrameStartTakes := by
  intro s p tc vc d sv rest ports egress head
  have here := State.startFrame_port_self (p := p) (tc := tc) (vc := vc) (d := d) (sv := sv) ports
  refine ⟨?_, by rw [here]; rfl, fun q => State.startFrame_port_ne, fun k other => ?_, fun rising on => ?_, ?_⟩
  · rw [here]
    exact (Tbl.look_upd_rising egress _ _ _).trans (by rw [head]; rfl)
  · rw [here]
    exact Tbl.look_upd_ne other _ _ _
  · rw [State.startFrame_shaper rising on]
    rfl
  · rw [State.startFrame_eq]
    rfl

end Sys2Proof.Machine
end

section
/-!
The checks of a contribution (O20).
-/

namespace Sys2Proof.Machine
open Sys2Proof.Safety
variable {s : State} {m : Msg} {j : Nat} {c : JobCfg} {k : Chunk} {row : PlanRow} {at_ seg : Nat}

/-! ### A frame for a unit of another region -/

/-- A link that carries an uncorrectable word loses the transfer. -/
theorem State.cross_lost {a b : Nat} (apart : a ≠ b) (bad : 2 ≤ s.eccOf (.link a b)) (job : Option Nat) :
    s.cross a b job = (false, s.eccLost (.link a b) job) := by
  rw [State.cross, if_neg apart, State.eccRead, if_neg (by omega), if_neg (by omega)]

/-- A frame for a unit of an unfenced region that its link loses. -/
theorem State.forUnit_lost {slot r : Nat} (free : s.isFenced r = false) (apart : portRegion m.port ≠ r)
    (bad : 2 ≤ s.eccOf (.link (portRegion m.port) r)) (f : State → State) :
    s.forUnit m slot r f = s.eccLost (.link (portRegion m.port) r) (some slot) := by
  simp [State.forUnit, free, State.cross_lost apart bad]

/-! ### The checks of R74 in their order -/

/-- The chunk that the message is for, as admitted in its slot. -/
abbrev State.granted (s : State) (j : Nat) (h : LfpHeader) : Option Chunk :=
  s.chunkOf j (word h.step) (BitVec.ofNat 8 h.attempt) h.chunk

/-- The message is of what the job has open, whose deadline has come. -/
abbrev State.pastDeadline (s : State) (j : Nat) (h : LfpHeader) : Prop := (s.job j).names h = true ∧ (s.job j).late = true

theorem State.contribution_late (late : s.pastDeadline j m.h) :
    s.contribution m j c = s.bump (pgRgc (portRegion m.port)) Off.RGC_DROP_LATE j := if_pos late

theorem State.contribution_lost (inTime : ¬s.pastDeadline j m.h) (free : s.isFenced (c.home m.h.chunk) = false)
    (apart : portRegion m.port ≠ c.home m.h.chunk) (bad : 2 ≤ s.eccOf (.link (portRegion m.port) (c.home m.h.chunk))) :
    s.contribution m j c = s.eccLost (.link (portRegion m.port) (c.home m.h.chunk)) (some j) :=
  (if_neg inTime).trans (State.forUnit_lost free apart bad _)

/-- A message of no chunk admitted, or of none that the job has open, is ungranted (check 1). -/
theorem State.contribution_ungranted (inTime : ¬s.pastDeadline j m.h) (free : s.isFenced (c.home m.h.chunk) = false)
    (came : arrives s m (c.home m.h.chunk)) (planned : c.rowOf m.h.chunk = some (at_, row))
    (unknown : s.granted j m.h = none ∨ (s.job j).names m.h = false) :
    s.contribution m j c = s.dropRst (c.home m.h.chunk) Off.RST_DROP_UNGRANTED j := by
  refine ((if_neg inTime).trans (State.forUnit_good free came _)).trans ?_
  obtain none | named := unknown
  · simp only [none]
  · cases admitted : s.granted j m.h with
    | none => simp only [admitted]
    | some k => simp [admitted, planned, named]

section
variable (inTime : ¬s.pastDeadline j m.h) (free : s.isFenced (c.home m.h.chunk) = false)
  (came : arrives s m (c.home m.h.chunk)) (planned : c.rowOf m.h.chunk = some (at_, row))
  (admitted : s.granted j m.h = some k) (named : (s.job j).names m.h = true)
include inTime free came planned admitted named

/-- A message of another format is dropped (check 2). -/
theorem State.contribution_format (other : formatOk c.cgrp row (m.h.type == 0) m.h.format m.h.cls = false) :
    s.contribution m j c = s.dropRst (c.home m.h.chunk) Off.RST_DROP_FORMAT j := by
  refine ((if_neg inTime).trans (State.forUnit_good free came _)).trans ?_
  simp [admitted, planned, named, other]

/-- A message of no whole segment is dropped (check 3). -/
theorem State.contribution_segment (fits : formatOk c.cgrp row (m.h.type == 0) m.h.format m.h.cls = true)
    (none : segmentOf k m.h = none) : s.contribution m j c = s.dropRst (c.home m.h.chunk) Off.RST_DROP_SEGMENT j := by
  refine ((if_neg inTime).trans (State.forUnit_good free came _)).trans ?_
  simp [admitted, planned, named, fits, none]

/-- A second message of a segment is dropped (check 4). -/
theorem State.contribution_dup (fits : formatOk c.cgrp row (m.h.type == 0) m.h.format m.h.cls = true)
    (some : segmentOf k m.h = some seg) (again : k.arrived.contains (m.h.member * k.s + seg) = true) :
    s.contribution m j c = s.dropRst (c.home m.h.chunk) Off.RST_DROP_DUP j := by
  refine ((if_neg inTime).trans (State.forUnit_good free came _)).trans ?_
  simp only [admitted, planned, named, fits, some, again]
  rfl

/-- A malformed PARTIAL is dropped and raises `malformed` (R68). -/
theorem State.contribution_malformed (fits : formatOk c.cgrp row (m.h.type == 0) m.h.format m.h.cls = true)
    (some : segmentOf k m.h = some seg) (first : k.arrived.contains (m.h.member * k.s + seg) = false)
    (bad : partialBad m.h m.payload = true) :
    s.contribution m j c = (s.dropRst (c.home m.h.chunk) Off.RST_DROP_FORMAT j).raise
      { pg := pgRst (c.home m.h.chunk), ev := 0, access := 7, job := Option.some j } := by
  refine ((if_neg inTime).trans (State.forUnit_good free came _)).trans ?_
  simp only [admitted, planned, named, fits, some, first, bad]
  rfl

/-- A message that passes the checks is taken. -/
theorem State.contribution_taken (fits : formatOk c.cgrp row (m.h.type == 0) m.h.format m.h.cls = true)
    (some : segmentOf k m.h = some seg) (first : k.arrived.contains (m.h.member * k.s + seg) = false)
    (good : partialBad m.h m.payload = false) : s.contribution m j c = s.takeSegment k c row seg m := by
  refine ((if_neg inTime).trans (State.forUnit_good free came _)).trans ?_
  simp only [admitted, planned, named, fits, some, first, good]
  rfl

end

theorem State.not_pastDeadline (inTime : (s.job j).names m.h = false ∨ (s.job j).late = false) : ¬s.pastDeadline j m.h := by
  rintro ⟨named, late⟩
  simp [named, late] at inTime

/-- Settles O20: one lemma for each check, in the order of R74. -/
theorem contributionChecks : Obligations.ContributionChecks := by
  intro s m j c k row at_ seg
  refine ⟨fun named late => State.contribution_late ⟨named, late⟩,
    fun inTime free apart bad => State.contribution_lost (State.not_pastDeadline inTime) free apart bad,
    fun inTime free came planned => ?_, fun off => State.dropRst_red _ _ _ _⟩
  have inTime := State.not_pastDeadline inTime
  refine ⟨State.contribution_ungranted inTime free came planned, fun admitted named =>
    ⟨State.contribution_format inTime free came planned admitted named, fun fits =>
      ⟨State.contribution_segment inTime free came planned admitted named fits, fun some =>
        ⟨State.contribution_dup inTime free came planned admitted named fits some,
          State.contribution_malformed inTime free came planned admitted named fits some⟩⟩⟩⟩

end Sys2Proof.Machine
end

section
/-!
What leaves the accumulators of the compute blocks: the reads and writes of memory leave the blocks, and the feed
hardware changes queues of them only.
-/

namespace Sys2Proof.Machine
variable {s t u : State}

/-! ### Memory leaves the compute blocks -/

theorem State.foldl_cpbs {α : Type} {f : State → α → State} (keeps : ∀ s a, (f s a).cpbs = s.cpbs) (l : List α) (s : State) :
    (l.foldl f s).cpbs = s.cpbs :=
  foldl_rel (fun s t => t.cpbs = s.cpbs) (fun _ => rfl) (fun _ _ _ first rest => rest.trans first) f keeps l s

@[simp] theorem State.raise_cpbs (s : State) (e : Occ) : (s.raise e).cpbs = s.cpbs := by rw [State.raise_frame]
@[simp] theorem State.bump_cpbs (s : State) (pg off sel n : Nat) : (s.bump pg off sel n).cpbs = s.cpbs := by rw [State.bump_frame]
@[simp] theorem State.bumpSat_cpbs (s : State) (pg off lo w sel : Nat) : (s.bumpSat pg off lo w sel).cpbs = s.cpbs := by
  rw [State.bumpSat_frame]
@[simp] theorem State.countCe_cpbs (s : State) (pg : Nat) : (s.countCe pg).cpbs = s.cpbs := by rw [State.countCe_frame]
@[simp] theorem State.countUe_cpbs (s : State) (pg : Nat) : (s.countUe pg).cpbs = s.cpbs := by rw [State.countUe_frame]
@[simp] theorem State.logFault_cpbs (s : State) (kind region : Nat) (forced : Bool) (capture others detail : List Byte) :
    (s.logFault kind region forced capture others detail).cpbs = s.cpbs := rfl
@[simp] theorem State.storeWord_cpbs (s : State) (addr : Nat) (bytes : List Byte) : (s.storeWord addr bytes).cpbs = s.cpbs := rfl
@[simp] theorem State.rewriteWord_cpbs (s : State) (addr : Nat) : (s.rewriteWord addr).cpbs = s.cpbs := rfl

@[simp] theorem State.corrected_cpbs (s : State) (addr access : Nat) (job : Option Nat) :
    (s.corrected addr access job).cpbs = s.cpbs := by
  unfold State.corrected
  dsimp only
  split
  · rw [State.raise_cpbs]; simp
  · simp

@[simp] theorem State.logBurst_cpbs (s : State) (addr : Nat) (ue : Bool) (job : Option Nat) :
    (s.logBurst addr ue job).cpbs = s.cpbs := by
  unfold State.logBurst
  dsimp only
  split
  · rfl
  · split
    · exact State.bumpSat_cpbs ..
    · exact (State.logFault_cpbs ..).trans (State.raise_cpbs ..)

@[simp] theorem State.demandUe_cpbs (s : State) (addr : Nat) (job : Option Nat) (access : Nat) :
    (s.demandUe addr job access).cpbs = s.cpbs := by
  unfold State.demandUe
  refine (State.logBurst_cpbs _ _ _ _).trans ?_
  rw [State.raise_cpbs, State.bump_cpbs, State.countUe_cpbs]

@[simp] theorem State.rmwWord_cpbs (s : State) (addr : Nat) (job : Option Nat) : (s.rmwWord addr job).cpbs = s.cpbs := by
  unfold State.rmwWord
  split
  · split <;> simp
  · simp
  · simp

@[simp] theorem State.applyBurst_cpbs (s : State) (addr : Nat) (ws : List (Nat × List Byte)) (job : Option Nat) :
    (s.applyBurst addr ws job).cpbs = s.cpbs := by
  refine (State.foldl_cpbs (fun s x => ?_) ws _).trans (State.foldl_cpbs (fun s k => ?_) _ _)
  · exact State.storeWord_cpbs _ _ _
  · exact State.rmwWord_cpbs _ _ _

@[simp] theorem State.noteWait_cpbs (s : State) (c : Nat) (q : ChReq) : (s.noteWait c q).cpbs = s.cpbs := by
  unfold State.noteWait
  dsimp only
  split <;> rfl

@[simp] theorem State.serveReq_cpbs (s : State) (c : Nat) (q : ChReq) : (s.serveReq c q).cpbs = s.cpbs :=
  (State.applyBurst_cpbs _ _ _ _).trans (State.noteWait_cpbs _ _ _)

@[simp] theorem State.drainBurst_cpbs (s : State) (addr : Nat) : (s.drainBurst addr).cpbs = s.cpbs := by
  unfold State.drainBurst
  dsimp only
  split
  · rfl
  · exact (State.foldl_cpbs (fun _ _ => State.serveReq_cpbs _ _ _) _ _).trans (State.modChan_cpbs _ _ _)

@[simp] theorem State.correctBurst_cpbs (s : State) (addr : Nat) (job : Option Nat) : (s.correctBurst addr job).cpbs = s.cpbs := by
  refine State.foldl_cpbs (fun s k => ?_) _ _
  dsimp only
  split <;> simp

@[simp] theorem State.readWord_cpbs (s : State) (addr : Nat) (job : Option Nat) : (s.readWord addr job).2.cpbs = s.cpbs := by
  unfold State.readWord
  dsimp only
  split <;> simp

@[simp] theorem State.readsCommit_cpbs (s : State) (slot : Nat) (c : JobCfg) (x : SliceCfg) :
    (s.readsCommit slot c x).cpbs = s.cpbs := by
  unfold State.readsCommit
  split
  · exact State.readWord_cpbs _ _ _
  · rfl

/-! ### The feed hardware leaves the accumulators -/

/-- The blocks of `t` have the accumulators that those of `s` have. -/
def SameAccs (s t : State) : Prop := s.cpbs.rising → t.cpbs.rising ∧ ∀ b, (t.cpb b).accs = (s.cpb b).accs

theorem SameAccs.of_eq (same : t.cpbs = s.cpbs) : SameAccs s t := fun rising =>
  ⟨same ▸ rising, fun b => by rw [State.cpb, same, ← State.cpb]⟩

theorem SameAccs.refl (s : State) : SameAccs s s := .of_eq rfl

theorem SameAccs.trans (first : SameAccs s t) (rest : SameAccs t u) : SameAccs s u := fun rising => by
  obtain ⟨risingT, sameT⟩ := first rising
  obtain ⟨risingU, sameU⟩ := rest risingT
  exact ⟨risingU, fun b => (sameU b).trans (sameT b)⟩

theorem SameAccs.foldl {α : Type} {f : State → α → State} (keeps : ∀ s a, SameAccs s (f s a)) (l : List α) (s : State) :
    SameAccs s (l.foldl f s) := foldl_rel SameAccs .refl (fun _ _ _ => .trans) f keeps l s

theorem SameAccs.modCpb (s : State) (b : Nat) {f : CpbSt → CpbSt} (keeps : ∀ c, (f c).accs = c.accs) :
    SameAccs s (s.modCpb b f) := fun rising => by
  refine ⟨State.modCpb_rising rising b f, fun b' => ?_⟩
  by_cases same : b' = b
  · subst same
    rw [State.cpb_modCpb_self rising, keeps]
  · rw [s.cpb_modCpb_ne same]

theorem SameAccs.pushFeed (s : State) (x : SliceCfg) (r : List Byte) : SameAccs s (s.pushFeed x r) :=
  .modCpb s x.block fun _ => rfl

theorem SameAccs.trimDist (s : State) (c : JobCfg) (x : SliceCfg) : SameAccs s (s.trimDist c x) :=
  .modCpb s x.block fun _ => rfl

theorem SameAccs.pushLast (s : State) (slot : Nat) (c : JobCfg) (x : SliceCfg) (inst : Word × Byte) (committed : Bool) :
    SameAccs s (s.pushLast slot c x inst committed) := by
  have pushed (r : List Byte) : SameAccs s ((s.readsCommit slot c x).pushFeed x r) :=
    .trans (.of_eq (State.readsCommit_cpbs _ _ _ _)) (.pushFeed _ _ _)
  cases committed with
  | true => exact .trans (pushed _) (.of_eq rfl)
  | false => exact .trans (pushed _) (.trans (.trimDist _ c x) (.of_eq rfl))

theorem SameAccs.pumpOnce (s : State) (i : Nat) : SameAccs s (s.pumpOnce i) := by
  unfold State.pumpOnce
  split
  · exact .refl s
  next slot c x _ =>
    dsimp only
    split
    · exact .refl s
    · split
      · exact .refl s
      · split
        · exact .pushLast s slot c x _ _
        · split
          · exact .refl s
          · exact .trans (.of_eq (State.readsCommit_cpbs _ _ _ _)) (.trans (.pushFeed _ _ _) (.of_eq rfl))

theorem SameAccs.feedPop (s : State) (b q : Nat) (entry : List Byte) : SameAccs s (s.feedPop b q entry) :=
  .foldl (fun s i => .trans (t := s.modFeed i _) (.of_eq rfl) (.foldl (fun s _ => .pumpOnce s i) _ _)) _ _

theorem SameAccs.popped (s : State) (b q : Nat) (es : List (List Byte)) : SameAccs s (s.popped b q es) :=
  .foldl (fun s e => .feedPop s b q e) _ _

end Sys2Proof.Machine
end

section
/-!
A K-group step changes one accumulator of its block (O43).
-/

namespace Sys2Proof.Machine
open Sys2Proof.Safety

/-- Taking from queues leaves the accumulators. -/
theorem CpbSt.takeAll_accs {l : List Source} {c d : CpbSt} {src : List (List Byte)} {gone : List (Nat × List (List Byte))}
    (taken : c.takeAll l = some (src, d, gone)) : d.accs = c.accs := by
  induction l generalizing c src gone with
  | nil => cases taken; rfl
  | cons x l ih =>
    rw [CpbSt.takeAll] at taken
    dsimp only at taken
    split at taken
    · cases taken
    · split at taken
      · cases taken
      next rest =>
        cases taken
        refine (ih rest).trans ?_
        split <;> rfl

/-- An accumulator after a step with result `r`. -/
def Acc.stepped (a : Acc) (r : StepResult) : Acc :=
  { steppedAcc a with vals := r.vals, inv := a.inv || r.inv.isSome, ovf := a.ovf || r.ovf }

@[simp] theorem Acc.stepped_vals (r : StepResult) (a : Acc) : (a.stepped r).vals = r.vals := rfl
@[simp] theorem Acc.stepped_ksteps (r : StepResult) (a : Acc) : (a.stepped r).ksteps = a.ksteps + 1 := rfl

/-- What a K-group step of operation `u` reduces to, with the sources' bytes `src`. -/
def UnitOp.reduces (u : UnitOp) (o : Opc) (a : Acc) (src : List (List Byte)) : StepResult :=
  stepAcc a.intMode (iw u.word 37 4) (panel (iw u.word 37 4) (src.getD 0 [])) (panel (iw u.word 37 4) (src.getD 1 []))
    (src.getD 2 []) (o == .mmat && ib u.word 34) (o == .mmat && ib u.word 33) a.vals

section
variable {s : State} {b n : Nat} {u : UnitOp} {o : Opc} {p : ProgSet} {t : Placed} {cfg : JobCfg}
  (placed : s.placedOn b u.stream = some (p, t, cfg))
include placed

/-- A float format on an integer accumulator raises ACC_MODE (R178, R184). -/
theorem State.kgroup_accMode (int : ((s.cpb b).accAt n).intMode = true) (not6 : iw u.word 37 4 ≠ 6) (not7 : iw u.word 37 4 ≠ 7) :
    s.kgroup b n u o = s.trap b u.stream u.pc 7 := by
  simp only [State.kgroup, placed]
  exact if_pos ⟨int, not6, not7⟩

/-- A step whose sources are there leaves its accumulator stepped, and the others. -/
theorem State.kgroup_accs {src : List (List Byte)} {c : CpbSt} {gone : List (Nat × List (List Byte))} (rising : s.cpbs.rising)
    (mode : ((s.cpb b).accAt n).intMode = false ∨ iw u.word 37 4 = 6 ∨ iw u.word 37 4 = 7)
    (order : (s.cpb b).inOrder u.id (o.uses u.word).cons [] = true)
    (clean : cleanQueues (s.cpb b) ((stepSources u.word).map (·.q)))
    (taken : (s.cpb b).takeAll (stepSources u.word) = some (src, c, gone)) :
    ((s.kgroup b n u o).cpb b).accs = (s.cpb b).accs.upd {} n (Acc.stepped · (u.reduces o ((s.cpb b).accAt n) src)) := by
  have allowed : ¬(((s.cpb b).accAt n).intMode = true ∧ iw u.word 37 4 ≠ 6 ∧ iw u.word 37 4 ≠ 7) := by
    rintro ⟨int, not6, not7⟩
    simp [int, not6, not7] at mode
  simp only [State.kgroup, placed]
  rw [if_neg allowed]
  simp only [order, taken, State.readingQueues_clean clean]
  rw [if_neg (by decide)]
  generalize Option.map _ _ = cap
  rw [← CpbSt.takeAll_accs taken]
  refine (((SameAccs.foldl (fun s x => .popped s b x.1 x.2) gone _) ?rising).2 b).trans ?_
  case rising =>
    split
    · rw [State.raise_cpbs]
      exact State.modCpb_rising rising b _
    · exact State.modCpb_rising rising b _
  have stored (d : CpbSt) : (s.modCpb b fun _ => d).cpb b = d := State.cpb_modCpb_self rising b _
  split
  · rw [State.cpb, State.raise_cpbs, ← State.cpb, stored]
    rfl
  · rw [stored]
    rfl

end

/-- The accumulators of the block after a step, by number. -/
theorem State.kgroup_accAt {s : State} {b n : Nat} {u : UnitOp} {o : Opc} {f : Acc → Acc}
    (accs : ((s.kgroup b n u o).cpb b).accs = (s.cpb b).accs.upd {} n f) (rising : (s.cpb b).accs.rising) :
    ((s.kgroup b n u o).cpb b).accAt n = f ((s.cpb b).accAt n) ∧
      ∀ k, k ≠ n → ((s.kgroup b n u o).cpb b).accAt k = (s.cpb b).accAt k := by
  simp only [CpbSt.accAt, accs]
  exact ⟨Tbl.look_upd_rising rising _ _ _, fun k other => Tbl.look_upd_ne other _ _ _⟩

/-- Settles O43: the accumulator is read back from the block that the step leaves. -/
theorem kgroupStepAccumulates : Obligations.KgroupStepAccumulates := by
  intro s b n u o p t cfg fmt a placed
  refine ⟨State.kgroup_accMode placed, fun src c gone rising accs mode order clean taken => ?_⟩
  obtain ⟨this, others⟩ := State.kgroup_accAt (State.kgroup_accs placed rising mode order clean taken) accs
  refine ⟨?_, ?_, others⟩
  · rw [this, Acc.stepped_vals, UnitOp.reduces]
  · rw [this, Acc.stepped_ksteps]

end Sys2Proof.Machine
end

section
/-!
The access of a register (R345 to R347): which row an address has, what an access comes to after each check, and the
order of the checks (O53, O54).
-/

namespace Sys2Proof.Machine
open Sys2Proof.Safety
variable {s : State} {p : Pfx} {n pg off : Nat} {r : RegRow}

/-! ### Rows of the register map -/

/-- The row of an offset carries that offset. -/
theorem regRow_off (row : regRow p off = some r) : r.off = off := by
  unfold regRow at row
  split at row <;> simpa using List.find?_some row

theorem rowsBLK_off_lt : ∀ r ∈ rowsBLK, r.off < 2 ^ 14 := by decide +kernel

theorem rowsOf_off_lt : ∀ r ∈ rowsOf p, r.off < 2 ^ 14 := by
  cases p <;> decide +kernel

/-- A mapped register lies in its page. -/
theorem regRow_off_lt (row : regRow p off = some r) : off < 2 ^ 14 := by
  rw [← regRow_off row]
  unfold regRow at row
  split at row
  · exact rowsBLK_off_lt r (List.mem_of_find?_eq_some row)
  · exact rowsOf_off_lt r (List.mem_of_find?_eq_some row)

/-- An address has one page and one offset. -/
theorem page_addr (inPage : off < 2 ^ 14) : (pg * 2 ^ 14 + off) / 2 ^ 14 = pg ∧ (pg * 2 ^ 14 + off) % 2 ^ 14 = off := by omega

/-- An address has one row. -/
theorem mapped_unique {p' : Pfx} {n' : Nat} {r' : RegRow} (one : mapped pg off p n r) (other : mapped pg off p' n' r') :
    p = p' ∧ n = n' ∧ r = r' := by
  obtain ⟨page, row⟩ := one
  obtain ⟨page', row'⟩ := other
  obtain ⟨rfl, rfl⟩ := Prod.mk.inj (Option.some.inj (page.symm.trans page'))
  exact ⟨rfl, rfl, Option.some.inj (row.symm.trans row')⟩

/-! ### What an access comes to -/

section
variable {i addr : Nat} {v : Word}

/-- An access of no register is UNMAPPED. -/
theorem State.access_unmapped (free : ∀ p n r, ¬mapped (addr / 2 ^ 14) (addr % 2 ^ 14) p n r) (w : Option Word) :
    s.access i addr w = ⟨2, 0, s⟩ := by
  unfold State.access
  dsimp only
  split
  · rfl
  next page =>
    split
    · rfl
    next row => exact absurd ⟨page, row⟩ (free _ _ _)

variable (here : mapped (addr / 2 ^ 14) (addr % 2 ^ 14) p n r)
include here

/-- A write that the role may not make is DENIED. -/
theorem State.access_denied
    (denied : s.mayWrite p (addr % 2 ^ 14) (s.selected (addr / 2 ^ 14) r.sel) i v = false) :
    s.access i addr (some v) = ⟨3, 0, s⟩ := by
  obtain ⟨page, row⟩ := here
  simp only [State.access, page, row, denied]
  rfl

/-- A write of a fenced register that the role may make is FENCED. -/
theorem State.access_write_fenced
    (may : s.mayWrite p (addr % 2 ^ 14) (s.selected (addr / 2 ^ 14) r.sel) i v = true)
    (fenced : s.accessFenced p (addr / 2 ^ 14) (addr % 2 ^ 14) (s.selected (addr / 2 ^ 14) r.sel) true = true) :
    s.access i addr (some v) = ⟨4, 0, s⟩ := by
  obtain ⟨page, row⟩ := here
  simp only [State.access, page, row, may, fenced]
  rfl

/-- A write that passes the checks has the register's effect. -/
theorem State.access_write
    (may : s.mayWrite p (addr % 2 ^ 14) (s.selected (addr / 2 ^ 14) r.sel) i v = true)
    (free : s.accessFenced p (addr / 2 ^ 14) (addr % 2 ^ 14) (s.selected (addr / 2 ^ 14) r.sel) true = false) :
    s.access i addr (some v) =
      ⟨(s.writeReg p n (addr / 2 ^ 14) r i v).1, 0, (s.writeReg p n (addr / 2 ^ 14) r i v).2⟩ := by
  obtain ⟨page, row⟩ := here
  simp only [State.access, page, row, may, free]
  rfl

/-- A read of a fenced register is FENCED. -/
theorem State.access_read_fenced
    (fenced : s.accessFenced p (addr / 2 ^ 14) (addr % 2 ^ 14) (s.selected (addr / 2 ^ 14) r.sel) false = true) :
    s.access i addr none = ⟨4, 0, s⟩ := by
  obtain ⟨page, row⟩ := here
  simp only [State.access, page, row, fenced]
  rfl

/-- A read that passes the check gives the register's value. -/
theorem State.access_read
    (free : s.accessFenced p (addr / 2 ^ 14) (addr % 2 ^ 14) (s.selected (addr / 2 ^ 14) r.sel) false = false) :
    s.access i addr none =
      ⟨0, (s.readReg p n (addr / 2 ^ 14) r i).1, (s.readReg p n (addr / 2 ^ 14) r i).2⟩ := by
  obtain ⟨page, row⟩ := here
  simp only [State.access, page, row, free]
  rfl

end

/-! ### Every row of a register access -/

/-- A row that is the write of one register is that write. -/
theorem exec_rowWrite {c : Instr} {x : RowWrite} (wf : c.wf = true) (row : rowWrite s c = some x) :
    exec c s = onWrite x.due x.sess x.pg x.off x.data s := by
  unfold rowWrite at row
  split at row
  case h_4 sess region rst data =>
    cases row
    cases rst <;> rfl
  case h_34 sess addr data =>
    cases row
    exact if_pos wf
  case h_35 => cases row
  all_goals
    cases row
    rfl

/-- A row that is the read of one register is that read. -/
theorem exec_rowRead {c : Instr} {i : Sess} {a : Nat} (wf : c.wf = true) (row : rowRead c = some (i, a)) :
    exec c s = onRead i a s := by
  unfold rowRead at row
  split at row <;> cases row
  · exact if_pos wf
  · exact if_pos wf
  · rfl
  · rfl

/-- Settles O53: a row is its access, and an access that passes the checks is the register's own effect. -/
theorem registerRowsComplete : Obligations.RegisterRowsComplete := by
  intro s c p n r wf
  refine ⟨fun x row due opened here may free => ?_, fun i a row opened here free => ?_⟩
  · obtain ⟨page, offset⟩ := page_addr (pg := x.pg) (regRow_off_lt here.2)
    have access := State.access_write (s := s) (i := x.sess.val) (addr := x.pg * 2 ^ 14 + x.off) (p := p) (n := n) (r := r)
      (v := x.data)
    rw [page, offset] at access
    rw [exec_rowWrite wf row, onWrite, due, opened, State.single, access here may free]
    rfl
  · rw [exec_rowRead wf row, onRead, opened, State.single, State.access_read here free]
    rfl

/-! ### A write is OK or LOCKED -/

/-- The answer to a write that the checks let through is OK or LOCKED. -/
def Wrote.Answers (x : Wrote) : Prop := x.1 ≤ 1

theorem Wrote.Answers.ok (t : State) : Wrote.Answers (stOK, t) := Nat.zero_le 1
theorem Wrote.Answers.locked (t : State) : Wrote.Answers (stLocked, t) := Nat.le_refl 1

theorem Wrote.Answers.ite {c : Prop} [Decidable c] {x y : Wrote} (hx : x.Answers) (hy : y.Answers) :
    Wrote.Answers (if c then x else y) := by
  split
  · exact hx
  · exact hy

/-- The answer stands whatever state goes with it. -/
theorem Wrote.Answers.with {x : Wrote} (a : x.Answers) (t : State) : Wrote.Answers (x.1, t) := a

section
variable {sel i : Nat} {w : Word}

theorem State.plainWrite_answers (bound : Bool) : (s.plainWrite p pg r sel w bound).Answers := by
  unfold State.plainWrite Wrote.Answers
  dsimp only
  split
  · exact Nat.le_refl 1
  · exact Nat.zero_le 1

theorem State.writeCtrl_answers : (s.writeCtrl pg w).Answers := by
  have reset (t : State) : (t.requestReset pg).Answers := .ite (.ok _) (.locked _)
  have first : Wrote.Answers (if pg / 256 < 4 then
      (if bit w 2 then (s.setQuiesce pg (bit w 1)).requestReset pg else (stOK, s.setQuiesce pg (bit w 1))) else (stOK, s)) :=
    .ite (.ite (reset _) (.ok _)) (.ok _)
  exact .ite (first.with _) (.ite (.locked _) first)

theorem State.writeHeader_answers : (s.writeHeader p pg r w).Answers :=
  .ite State.writeCtrl_answers <| .ite (.ok _) <| .ite (.ite (.locked _) (.ok _)) <| .ite (.ok _) <| .ite (.ok _) <|
    State.plainWrite_answers _

theorem State.writeFAB_answers (b : Nat) : (s.writeFAB b r sel w).Answers :=
  have plain : (s.plainWrite .FAB (pgFab b) r sel w).Answers := State.plainWrite_answers _
  .ite (plain.with _) <| .ite (plain.with _) <| .ite (plain.with _) <| .ite (plain.with _) plain

theorem State.boundWrite_answers {x : Wrote} (a : x.Answers) (r j : Nat) : (s.boundWrite r j x).Answers := .ite (.locked _) a

theorem State.writeMin_answers {x : Wrote} (a : x.Answers) (r pool req v : Nat) : (s.writeMin r pool req v x).Answers :=
  .ite (.ok _) (a.with _)

theorem State.writeReq_answers (h : Nat) : (s.writeReq h r sel w).Answers := by
  have plain : (s.plainWrite .SWC (pgSwc h) r sel w).Answers := State.plainWrite_answers _
  have quota : Wrote.Answers (if r.off = Off.SWC_REQ_MIN then
      s.writeMin h (sel / 4096) (sel % 4096) (fld w 0 21) (s.plainWrite .SWC (pgSwc h) r sel w)
    else s.plainWrite .SWC (pgSwc h) r sel w) := .ite (State.writeMin_answers plain _ _ _ _) plain
  exact .ite (.ok _) <| .ite (.locked _) <| .ite (State.boundWrite_answers quota _ _) quota

theorem State.writeForwarding_answers (h : Nat) : (s.writeForwarding h r sel w).Answers :=
  .ite (.locked _) <| .ite (.ok _) <| State.plainWrite_answers _

theorem State.writeSWC_answers (h : Nat) : (s.writeSWC h r sel w).Answers :=
  have plain : (s.plainWrite .SWC (pgSwc h) r sel w).Answers := State.plainWrite_answers _
  .ite (State.writeForwarding_answers h) <| .ite (.ok _) <| .ite (State.writeReq_answers h) <| .ite (plain.with _) <|
    .ite (plain.with _) plain

theorem State.writeRST_answers (h : Nat) : (s.writeRST h r sel w).Answers :=
  have plain : (s.plainWrite .RST (pgRst h) r sel w true).Answers := State.plainWrite_answers _
  .ite (State.boundWrite_answers (State.writeMin_answers plain _ _ _ _) _ _) <|
    .ite (State.boundWrite_answers plain _ _) plain

theorem State.writeTable_answers (h : Nat) (k : TKind) (j x : Nat) : (s.writeTable h k j x w).Answers :=
  .ite (.locked _) <| .ite (.ok _) <| .ite (.locked _) <| .ite (.locked _) (.ok _)

theorem State.writeRGC_answers (h : Nat) : (s.writeRGC h r sel w).Answers := by
  unfold State.writeRGC
  split
  · exact State.writeTable_answers h _ _ _
  · exact State.plainWrite_answers _

theorem State.writeORB_answers : (s.writeORB r sel w).Answers :=
  have plain : (s.plainWrite .ORB pgOrb r sel w).Answers := State.plainWrite_answers _
  .ite (plain.with _) <| .ite (plain.with _) <| .ite (plain.with _) <| .ite (plain.with _) <| .ite (plain.with _) <|
    .ite (plain.with _) plain

theorem State.writeMGT_answers : (s.writeMGT r sel i w).Answers := by
  have plain : (s.plainWrite .MGT pgMgt r sel w).Answers := State.plainWrite_answers _
  refine .ite (.ok _) <| .ite ?position <| .ite (.ok _) <| .ite (plain.with _) <| .ite (plain.with _) plain
  case position =>
    split
    · exact .ok _
    · exact .locked _

theorem State.writeSEC_answers : (s.writeSEC r sel i w).Answers :=
  have plain : (s.plainWrite .SEC pgSec r sel w).Answers := State.plainWrite_answers _
  .ite (.ok _) <| .ite (plain.with _) <| .ite (.ok _) <| .ite (.ok _) <| .ite (.ok _) plain

theorem State.writeFLT_answers : (s.writeFLT r sel i w).Answers :=
  .ite (.ok _) <| .ite (.ok _) <| .ite (.ok _) <| State.plainWrite_answers _

theorem State.writeReg_answers (s : State) (p : Pfx) (n pg : Nat) (r : RegRow) (i : Nat) (w : Word) :
    (s.writeReg p n pg r i w).Answers := by
  refine .ite State.writeHeader_answers ?_
  cases p
  case FAB => exact State.writeFAB_answers n
  case SWC => exact State.writeSWC_answers n
  case RST => exact State.writeRST_answers n
  case RGC => exact State.writeRGC_answers n
  case ORB => exact State.writeORB_answers
  case MGT => exact State.writeMGT_answers
  case SEC => exact State.writeSEC_answers
  case FLT => exact State.writeFLT_answers
  case PWR => exact .ite (.ok _) (State.plainWrite_answers _)
  case CLK => exact .ite (.ok _) (State.plainWrite_answers _)
  case CPB | MEM | RDX | CMT | HST => exact State.plainWrite_answers _

end

/-! ### The order of the checks -/

section
variable {i addr : Nat} (page : addr / 2 ^ 14 = pg) (offset : addr % 2 ^ 14 = off)
include page offset

/-- A write of a mapped register: DENIED, else FENCED, else OK or LOCKED. -/
theorem State.access_write_cases (v : Word) (here : mapped pg off p n r) :
    (s.mayWrite p off (s.selected pg r.sel) i v = false ∧ s.access i addr (some v) = ⟨3, 0, s⟩) ∨
    s.mayWrite p off (s.selected pg r.sel) i v = true ∧
      ((s.accessFenced p pg off (s.selected pg r.sel) true = true ∧ s.access i addr (some v) = ⟨4, 0, s⟩) ∨
        (s.accessFenced p pg off (s.selected pg r.sel) true = false ∧
          (s.access i addr (some v)).status ≤ 1 ∧ (s.access i addr (some v)).value = 0)) := by
  subst page offset
  cases may : s.mayWrite p (addr % 2 ^ 14) (s.selected (addr / 2 ^ 14) r.sel) i v with
  | false => exact .inl ⟨rfl, State.access_denied here may⟩
  | true =>
    cases fenced : s.accessFenced p (addr / 2 ^ 14) (addr % 2 ^ 14) (s.selected (addr / 2 ^ 14) r.sel) true with
    | true => exact .inr ⟨rfl, .inl ⟨rfl, State.access_write_fenced here may fenced⟩⟩
    | false =>
      rw [State.access_write here may fenced]
      exact .inr ⟨rfl, .inr ⟨rfl, State.writeReg_answers s p n _ r i v, rfl⟩⟩

/-- A read of a mapped register: FENCED, else OK. -/
theorem State.access_read_cases (here : mapped pg off p n r) :
    (s.accessFenced p pg off (s.selected pg r.sel) false = true ∧ s.access i addr none = ⟨4, 0, s⟩) ∨
    (s.accessFenced p pg off (s.selected pg r.sel) false = false ∧ (s.access i addr none).status = 0) := by
  subst page offset
  cases fenced : s.accessFenced p (addr / 2 ^ 14) (addr % 2 ^ 14) (s.selected (addr / 2 ^ 14) r.sel) false with
  | true => exact .inl ⟨rfl, State.access_read_fenced here fenced⟩
  | false => exact .inr ⟨rfl, by rw [State.access_read here fenced]⟩

end

/-- Settles O54: an address has no row, or one whose checks decide in their order. -/
theorem accessOrder : Obligations.AccessOrder := by
  intro s i addr w
  dsimp only
  have unmapped := State.access_unmapped (s := s) (i := i) (addr := addr)
  generalize page : addr / 2 ^ 14 = pg at unmapped ⊢
  generalize offset : addr % 2 ^ 14 = off at unmapped ⊢
  by_cases free : ∀ p n r, ¬mapped pg off p n r
  · simp [unmapped free w, free]
  simp only [Classical.not_forall, Classical.not_not] at free
  obtain ⟨p, n, r, here⟩ := free
  have found : ¬∀ p n r, ¬mapped pg off p n r := fun none => none p n r here
  refine ⟨?unmapped, fun p' n' r' here' => ?mapped, ?rest⟩
  case mapped =>
    obtain ⟨rfl, rfl, rfl⟩ := mapped_unique here here'
    cases w with
    | none =>
      obtain ⟨fenced, result⟩ | ⟨clear, ok⟩ := State.access_read_cases (s := s) (i := i) page offset here
      · simp [result, fenced]
      · simp [ok, clear]
    | some v =>
      obtain ⟨denied, result⟩ | ⟨may, ⟨fenced, result⟩ | ⟨clear, ok, _⟩⟩ :=
        State.access_write_cases (s := s) (i := i) page offset v here
      · simp [result, denied]
      · simp [result, may, fenced]
      · simp [may, clear]
        omega
  all_goals
    cases w with
    | none =>
      obtain ⟨_, result⟩ | ⟨_, ok⟩ := State.access_read_cases (s := s) (i := i) page offset here
      · simp [result, found]
      · simp [ok, found]
    | some v =>
      obtain ⟨_, result⟩ | ⟨_, ⟨_, result⟩ | ⟨_, ok, value⟩⟩ :=
        State.access_write_cases (s := s) (i := i) page offset v here
      · simp [result, found]
      · simp [result, found]
      · simp [found, value]
        omega

end Sys2Proof.Machine
end

section
/-!
Writes of the common header (O55).
-/

namespace Sys2Proof

/-! ### Codes of two bits -/

theorem pack2_cons (c : Nat) (l : List Nat) : Machine.pack2 (c :: l) = Machine.pack2 l * 4 + c := rfl

/-- A packed list of codes fits two bits for each. -/
theorem pack2_lt {l : List Nat} (codes : ∀ c ∈ l, c < 4) : Machine.pack2 l < 4 ^ l.length := by
  induction l with
  | nil => exact Nat.one_pos
  | cons c l ih =>
    have head := codes c List.mem_cons_self
    have tail := ih fun d hd => codes d (List.mem_cons_of_mem c hd)
    rw [pack2_cons, List.length_cons, Nat.pow_succ]
    omega

/-- The code at place `e` of a packed list. -/
theorem bits_pack2 {l : List Nat} (codes : ∀ c ∈ l, c < 4) (e : Nat) : bits (Machine.pack2 l) (2 * e) 2 = l.getD e 0 := by
  induction l generalizing e with
  | nil => simp [Machine.pack2, bits]
  | cons c l ih =>
    have head := codes c List.mem_cons_self
    cases e with
    | zero =>
      rw [pack2_cons, bits]
      show (Machine.pack2 l * 4 + c) % 4 = c
      omega
    | succ e =>
      have rest := ih (fun d hd => codes d (List.mem_cons_of_mem c hd)) e
      have shifted : (Machine.pack2 l * 4 + c) >>> (2 * (e + 1)) = Machine.pack2 l >>> (2 * e) := by
        rw [show 2 * (e + 1) = 2 + 2 * e by omega, Nat.shiftRight_add, Nat.shiftRight_eq_div_pow _ 2]
        rw [show (Machine.pack2 l * 4 + c) / 2 ^ 2 = Machine.pack2 l by omega]
      rw [pack2_cons, bits, shifted]
      exact rest

end Sys2Proof

namespace Sys2Proof.Machine
open Sys2Proof.Safety
variable {s : State} {p : Pfx} {n pg : Nat} {r : RegRow}

/-! ### The rows of the header -/

/-- The row of `BLK_EVENT`. -/
theorem regRow_event (row : regRow p Off.BLK_EVENT = some r) : r = ⟨Off.BLK_EVENT, .one, [⟨0, 16, .W1C, 0x0, 0, 0xFFFF⟩]⟩ :=
  (Option.some.inj row).symm

/-- The rows of the performance counters' selectors, and of the events, stand in their own page. -/
theorem homePage_event (sel : Nat) : homePage p pg Off.BLK_EVENT sel = pg := by
  unfold homePage
  split <;> rfl

/-! ### Bits of a register with a field set -/

theorem State.rbit_setRfld {off lo w sel : Nat} (rising : s.regs.rising) (fits : lo + w ≤ 32) (v k : Nat) :
    (s.setRfld pg off lo w v sel).rbit pg off k sel = if lo ≤ k ∧ k < lo + w then v.testBit (k - lo) else s.rbit pg off k sel := by
  rw [State.rbit, State.setRfld, State.reg_setReg_self rising, bit_setFld fits, State.rbit]

theorem State.rbit_setRfld_ne {off off' lo w k : Nat} (low : off < 2 ^ 14) (low' : off' < 2 ^ 14) (other : off' ≠ off) (v pg' : Nat) :
    (s.setRfld pg off lo w v).rbit pg' off' k = s.rbit pg' off' k := by
  rw [State.rbit, State.setRfld, State.reg_setReg_off_ne _ _ low low' other, State.rbit]

/-! ### The configuration lock -/

/-- `cfg_lock` of page `pg` is in `t` as it is in `s`. -/
def KeepsLock (pg : Nat) (s t : State) : Prop := s.regs.rising → t.regs.rising ∧ t.cfgLocked pg = s.cfgLocked pg

theorem KeepsLock.refl (pg : Nat) (s : State) : KeepsLock pg s s := fun rising => ⟨rising, rfl⟩

theorem KeepsLock.trans {s t u : State} (first : KeepsLock pg s t) (rest : KeepsLock pg t u) : KeepsLock pg s u := fun rising => by
  obtain ⟨risingT, same⟩ := first rising
  obtain ⟨risingU, same'⟩ := rest risingT
  exact ⟨risingU, same'.trans same⟩

theorem KeepsLock.setState (s : State) (pg v : Nat) : KeepsLock pg s (s.setRfld pg Off.BLK_STATE 0 2 v) := fun rising =>
  ⟨State.setReg_rising rising _ _ _ _, State.rbit_setRfld_ne (by decide) (by decide) (by decide) v pg⟩

theorem KeepsLock.setQuiesce (s : State) (pg : Nat) (on : Bool) : KeepsLock pg s (s.setQuiesce pg on) := by
  have bit1 : KeepsLock pg s (s.setRfld pg Off.BLK_CTRL 1 1 on.toNat) := fun rising =>
    ⟨State.setReg_rising rising _ _ _ _, (State.rbit_setRfld rising (by decide) _ 3).trans (if_neg (by decide))⟩
  unfold State.setQuiesce
  dsimp only
  split
  · exact bit1.trans (.setState _ pg 2)
  · split
    · exact bit1.trans (.setState _ pg 1)
    · exact bit1

theorem KeepsLock.requestReset (s : State) (pg : Nat) : KeepsLock pg s (s.requestReset pg).2 := by
  unfold State.requestReset
  split
  · exact .setState s pg 0
  · exact .refl pg s

/-- What a write of `BLK_CTRL` does besides the lock. -/
def State.writeModes (s : State) (pg : Nat) (w : Word) : Wrote :=
  if pg / 256 < 4 then
    (if bit w 2 then (s.setQuiesce pg (bit w 1)).requestReset pg else (stOK, s.setQuiesce pg (bit w 1)))
  else (stOK, s)

theorem State.writeCtrl_eq (s : State) (pg : Nat) (w : Word) :
    s.writeCtrl pg w = if bit w 3 then ((s.writeModes pg w).1, (s.writeModes pg w).2.setRfld pg Off.BLK_CTRL 3 1 1)
      else if s.cfgLocked pg then (stLocked, (s.writeModes pg w).2) else s.writeModes pg w := rfl

theorem KeepsLock.writeModes (s : State) (pg : Nat) (w : Word) : KeepsLock pg s (s.writeModes pg w).2 := by
  unfold State.writeModes
  split
  · split
    · exact .trans (.setQuiesce s pg _) (.requestReset _ pg)
    · exact .setQuiesce s pg _
  · exact .refl pg s

/-- A write of 1 sets `cfg_lock`. -/
theorem State.cfgLocked_writeCtrl_set {w : Word} (rising : s.regs.rising) (set : bit w 3 = true) :
    (s.writeCtrl pg w).2.cfgLocked pg = true := by
  rw [State.writeCtrl_eq, if_pos set]
  exact (State.rbit_setRfld (KeepsLock.writeModes s pg w rising).1 (by decide) 1 3).trans (if_pos (by decide))

/-- A write of 0 to a `cfg_lock` that is set is LOCKED, and leaves it set. -/
theorem State.writeCtrl_locked {w : Word} (rising : s.regs.rising) (locked : s.cfgLocked pg = true) (clear : bit w 3 = false) :
    (s.writeCtrl pg w).1 = 1 ∧ (s.writeCtrl pg w).2.cfgLocked pg = true := by
  rw [State.writeCtrl_eq, if_neg (by rw [clear]; decide), if_pos locked]
  exact ⟨rfl, (KeepsLock.writeModes s pg w rising).2.trans locked⟩

/-! ### The other registers of the header -/

/-- A bit of a word that has the bits of another cleared. -/
theorem bit_clear (x y : Word) (k : Nat) : bit (x &&& ~~~y) k = (bit x k && !bit y k) := by
  show (x &&& ~~~y).getLsbD k = (x.getLsbD k && !y.getLsbD k)
  rw [BitVec.getLsbD_and, BitVec.getLsbD_not]
  by_cases inside : k < 32
  · rw [decide_eq_true inside, Bool.true_and]
  · rw [BitVec.getLsbD_of_ge x k (by omega), Bool.false_and, Bool.false_and]

/-- The bits of the low half of a word. -/
theorem bit_word_fld (w : Word) (k : Nat) : bit (word (fld w 0 16)) k = (decide (k < 16) && bit w k) := by
  have small := fld_lt w 0 16
  rw [bit, word, BitVec.toNat_ofNat, Nat.mod_eq_of_lt (by omega), testBit_fld, Nat.zero_add]

theorem Pfx.events_lt (p : Pfx) : ∀ c ∈ p.events, c < 4 := by cases p <;> decide

theorem Pfx.events_length (p : Pfx) : p.events.length ≤ 16 := by cases p <;> decide

/-- The classes that a write of `BLK_FAULT_MAP` sets, in the order of the events. -/
def Pfx.classes (p : Pfx) (w : Word) : List Nat := p.events.zipIdx.map fun x => max x.1 (fld w (2 * x.2) 2)

theorem Pfx.classes_lt (p : Pfx) (w : Word) : ∀ c ∈ p.classes w, c < 4 := by
  intro c hc
  obtain ⟨x, hx, rfl⟩ := List.mem_map.mp hc
  exact Nat.max_lt.mpr ⟨p.events_lt x.1 (List.fst_mem_of_mem_zipIdx hx), fld_lt w (2 * x.2) 2⟩

theorem Pfx.getD_classes (p : Pfx) (w : Word) {e : Nat} (event : e < p.events.length) :
    (p.classes w).getD e 0 = max (p.events.getD e 0) (fld w (2 * e) 2) := by
  simp [Pfx.classes, List.getD_eq_getElem?_getD, event]

/-- A class of a fault map reads as it was set. -/
theorem fld_faultMap (p : Pfx) (w : Word) {e : Nat} (event : e < p.events.length) :
    fld (faultMap p.events w) (2 * e) 2 = max (p.events.getD e 0) (fld w (2 * e) 2) := by
  have few : (p.classes w).length ≤ 16 := by
    rw [Pfx.classes, List.length_map, List.length_zipIdx]
    exact p.events_length
  have fits : pack2 (p.classes w) < 2 ^ 32 := Nat.lt_of_lt_of_le (pack2_lt (p.classes_lt w))
    (show 4 ^ (p.classes w).length ≤ 4 ^ 16 from Nat.pow_le_pow_right (by decide) few)
  have whole : (faultMap p.events w).toNat = pack2 (p.classes w) := Nat.mod_eq_of_lt fits
  rw [fld, whole, bits_pack2 (p.classes_lt w), p.getD_classes w event]

section
variable {w : Word} (rising : s.regs.rising)
include rising

/-- A write of `BLK_EVENT` clears the events whose bits are 1. -/
theorem State.writeHeader_event (row : regRow p r.off = some r) (off : r.off = Off.BLK_EVENT) :
    (s.writeHeader p pg r w).1 = 0 ∧ ∀ k, (s.writeHeader p pg r w).2.rbit pg Off.BLK_EVENT k =
      (s.rbit pg Off.BLK_EVENT k && !(decide (k < 16) && bit w k)) := by
  rw [off] at row
  obtain rfl := regRow_event row
  have written : s.writeHeader p pg ⟨Off.BLK_EVENT, .one, [⟨0, 16, .W1C, 0x0, 0, 0xFFFF⟩]⟩ w =
      (0, s.setReg pg Off.BLK_EVENT (s.reg pg Off.BLK_EVENT &&& ~~~(word (fld w 0 16)))) := by
    show s.plainWrite p pg ⟨Off.BLK_EVENT, .one, [⟨0, 16, .W1C, 0x0, 0, 0xFFFF⟩]⟩ 0 w = _
    simp [State.plainWrite, homePage_event, RegRow.isLocked, Fld.write]
  rw [written]
  refine ⟨rfl, fun k => ?_⟩
  rw [State.rbit, State.reg_setReg_self rising, bit_clear, bit_word_fld, State.rbit]

/-- A write of bit 31 of the capture's first word clears the capture, and no other write changes it. -/
theorem State.writeHeader_capture (off : r.off = Off.BLK_FIRST_ERR0) :
    (s.writeHeader p pg r w).2.capture pg = if bit w 31 then List.replicate 8 0 else s.capture pg := by
  have written : s.writeHeader p pg r w = (stOK, if bit w 31 then s.setCapture pg [] else s) := by
    unfold State.writeHeader
    rw [off]
    rfl
  rw [written]
  cases bit w 31 with
  | true => exact State.capture_setCapture rising pg []
  | false => rfl

/-- Selecting an event zeroes the selector's counter. -/
theorem State.writeHeader_perf {k : Nat} (counter : k < 4) (off : r.off = Off.BLK_PERF_SEL0 + 4 * k) :
    (s.writeHeader p pg r w).2.rfld pg r.off 0 16 = fld w 0 16 ∧
      (s.writeHeader p pg r w).2.reg pg (Off.BLK_PERF_CNT + 8 * k) = 0 ∧
      (s.writeHeader p pg r w).2.reg pg (Off.BLK_PERF_CNT + 8 * k + 4) = 0 := by
  have first : Off.BLK_PERF_SEL0 = 0x50 := rfl
  have count : Off.BLK_PERF_CNT = 0x60 := rfl
  have place : Off.BLK_PERF_CNT + 2 * (r.off - Off.BLK_PERF_SEL0) = Off.BLK_PERF_CNT + 8 * k := by omega
  have written : s.writeHeader p pg r w = (stOK, ((s.setReg pg r.off (word (fld w 0 16))).setReg pg
      (Off.BLK_PERF_CNT + 8 * k) 0).setReg pg (Off.BLK_PERF_CNT + 8 * k + 4) 0) := by
    have range : Off.BLK_PERF_SEL0 ≤ r.off ∧ r.off ≤ Off.BLK_PERF_SEL3 := by
      have last : Off.BLK_PERF_SEL3 = 0x5C := rfl
      omega
    have distinct : r.off ≠ Off.BLK_CTRL ∧ r.off ≠ Off.BLK_EVENT_FORCE ∧ r.off ≠ Off.BLK_FAULT_MAP ∧ r.off ≠ Off.BLK_FIRST_ERR0 := by
      have ctrl : Off.BLK_CTRL = 0x8 := rfl
      have force : Off.BLK_EVENT_FORCE = 0x18 := rfl
      have map : Off.BLK_FAULT_MAP = 0x1C := rfl
      have capture : Off.BLK_FIRST_ERR0 = 0x20 := rfl
      omega
    obtain ⟨ctrl, force, map, capture⟩ := distinct
    rw [State.writeHeader, if_neg ctrl, if_neg force, if_neg map, if_neg capture, if_pos range, place]
  have low := fld_lt w 0 16
  have rising1 := State.setReg_rising rising pg r.off (word (fld w 0 16)) 0
  have rising2 := State.setReg_rising rising1 pg (Off.BLK_PERF_CNT + 8 * k) 0 0
  rw [written]
  refine ⟨?selector, ?low, State.reg_setReg_self rising2 _ _ _ _⟩
  case low =>
    rw [State.reg_setReg_off_ne _ _ (by omega) (by omega) (by omega)]
    exact State.reg_setReg_self rising1 _ _ _ _
  case selector =>
    rw [State.rfld, State.reg_setReg_off_ne _ _ (by omega) (by omega) (by omega),
      State.reg_setReg_off_ne _ _ (by omega) (by omega) (by omega), State.reg_setReg_self rising]
    rw [fld, word, BitVec.toNat_ofNat, Nat.mod_eq_of_lt (by omega), bits, Nat.shiftRight_zero, Nat.mod_eq_of_lt low]

/-- A class of the fault map is the one written, or the default where that is higher. -/
theorem State.writeHeader_faultMap (off : r.off = Off.BLK_FAULT_MAP) (unlocked : s.cfgLocked pg = false) {e : Nat}
    (event : e < p.events.length) :
    (s.writeHeader p pg r w).2.rfld pg Off.BLK_FAULT_MAP (2 * e) 2 = max (p.events.getD e 0) (fld w (2 * e) 2) := by
  have written : s.writeHeader p pg r w = (stOK, s.setReg pg Off.BLK_FAULT_MAP (faultMap p.events w)) := by
    unfold State.writeHeader
    rw [off, unlocked]
    rfl
  rw [written, State.rfld, State.reg_setReg_self rising, fld_faultMap p w event]

end

/-- Settles O55: one lemma for each register of the header that the statement names. -/
theorem headerWrites : Obligations.HeaderWrites := by
  intro s p n pg r w rising here
  have ctrl (off : r.off = Off.BLK_CTRL) : s.writeHeader p pg r w = s.writeCtrl pg w := if_pos off
  refine ⟨State.writeHeader_event rising here.2, State.writeHeader_capture rising, fun k => State.writeHeader_perf rising,
    fun off unlocked e => State.writeHeader_faultMap rising off unlocked, fun off locked => ?_, fun off set => ?_⟩
  · rw [ctrl off]
    cases set : bit w 3 with
    | true => exact ⟨State.cfgLocked_writeCtrl_set rising set, fun clear => absurd clear (by decide)⟩
    | false =>
      obtain ⟨status, lock⟩ := State.writeCtrl_locked rising locked set
      exact ⟨lock, fun _ => status⟩
  · rw [ctrl off]
    exact State.cfgLocked_writeCtrl_set rising set

end Sys2Proof.Machine
end

section
/-!
Writes of registers with an effect of their own (O56).
-/

namespace Sys2Proof.Machine
open Sys2Proof.Safety
variable {s : State} {r i w sel : Nat} {k : TKind} {v : Word}

/-! ### Counters and events leave the registers outside the header -/

section
variable {pg' off' : Nat} (low : off' < 2 ^ 14)
include low

theorem State.reg_perfCount_ne (s : State) (pg code n : Nat) (outside : 0x80 ≤ off') :
    (s.perfCount pg code n).reg pg' off' = s.reg pg' off' := by
  refine List.foldlRecOn (motive := fun t : State => t.reg pg' off' = s.reg pg' off') _ _ rfl fun t same i hi => ?_
  have := List.mem_range.mp hi
  have place : Off.BLK_PERF_CNT = 0x60 := rfl
  dsimp only
  split
  · rw [State.reg_setReg_off_ne _ _ (by omega) low (by omega), State.reg_setReg_off_ne _ _ (by omega) low (by omega), same]
  · exact same

/-- A counter leaves every other register outside the header. -/
theorem State.reg_bump_ne (s : State) {pg off n : Nat} (inPage : off < 2 ^ 14) (outside : 0x80 ≤ off') (other : off' ≠ off) :
    (s.bump pg off 0 n).reg pg' off' = s.reg pg' off' := by
  unfold State.bump
  split
  · rfl
  · rw [State.reg_perfCount_ne low _ _ _ _ outside, State.reg_setReg_off_ne _ _ inPage low other]

/-- An event leaves the registers outside the header but the head of the event ring. -/
theorem State.reg_raise_ne (s : State) (e : Occ) (outside : 0x80 ≤ off') (other : off' ≠ Off.MGT_EVT_HEAD) :
    (s.raise e).reg pg' off' = s.reg pg' off' := by
  obtain ⟨t, recorded, raised⟩ := s.raise_recorded e
  have marked : (s.marked e).reg pg' off' = s.reg pg' off' := by
    unfold State.marked
    split
    · rfl
    · rw [State.reg_takeCapture_ne _ _ _ low (by omega)]
      exact State.reg_setReg_off_ne _ _ (by decide) low (show off' ≠ 0x10 by omega)
  rw [raised]
  exact (recorded.reg_eq (rkey_ne low (by decide) other)).trans marked

end

/-! ### Table words -/

/-- Tables have numbers of their own. -/
theorem TKind.code_inj {k k' : TKind} (same : k'.code = k.code) : k' = k := by
  revert same
  cases k <;> cases k' <;> simp [TKind.code]

/-- Entries and words of the tables have keys of their own. -/
theorem tkey_ne {k' : TKind} {i' w' : Nat} (hi : i < 262144) (hw : w < 256) (hi' : i' < 262144) (hw' : w' < 256)
    (other : (k', i', w') ≠ (k, i, w)) : tkey k' i' w' ≠ tkey k i w := by
  intro same
  unfold tkey at same
  have code : k'.code = k.code ∧ i' = i ∧ w' = w := by omega
  obtain ⟨kind, rfl, rfl⟩ := code
  exact other (by rw [TKind.code_inj kind])

theorem State.tbl_setTbl_self (rising : s.tables.rising) (k : TKind) (i w : Nat) (v : Word) :
    (s.setTbl k i w v).tbl k i w = v := Tbl.look_put_rising rising

@[simp] theorem State.defineJob_tables (s : State) (slot : Nat) : (s.defineJob slot).tables = s.tables := by
  unfold State.defineJob
  split <;> rfl

@[simp] theorem State.lockViolation_tables (s : State) (r : Nat) (slots : List Nat) : (s.lockViolation r slots).tables = s.tables := by
  refine foldl_rel (fun s t => t.tables = s.tables) (fun _ => rfl) (fun _ _ _ first rest => rest.trans first) _ (fun s j => ?_) _ s
  rw [State.raise_tables, State.bump_tables]

/-- A write through another region than the lowest unfenced one is LOCKED. -/
theorem State.writeTable_region (other : s.lowRegion ≠ some r) : s.writeTable r k i w v = (1, s) := if_pos other

section
variable (low : s.lowRegion = some r) (writable : tableMask k w ≠ 0)
include low writable

/-- A write of an entry that jobs hold locked is LOCKED, and leaves the tables. -/
theorem State.writeTable_locked (held : s.lockers k i ≠ []) :
    (s.writeTable r k i w v).1 = 1 ∧ (s.writeTable r k i w v).2.tables = s.tables := by
  have written : s.writeTable r k i w v = (1, s.lockViolation r (s.lockers k i)) := by
    rw [State.writeTable, if_neg (by simp [low]), if_neg writable, if_pos (by simp [held])]
  rw [written]
  exact ⟨rfl, State.lockViolation_tables _ _ _⟩

/-- A member entry that no group covers is locked by `cfg_lock`. -/
theorem State.writeTable_member (clear : s.lockers k i = []) (member : k = .member) (locked : s.cfgLocked (pgRgc r) = true)
    (free : s.memberBound i = false) : s.writeTable r k i w v = (1, s) := by
  rw [State.writeTable, if_neg (by simp [low]), if_neg writable, if_neg (by simp [clear]), if_pos (by simp [member, locked, free])]

/-- Any other write takes the writable bits. -/
theorem State.writeTable_taken (clear : s.lockers k i = [])
    (open_ : k = .member → s.cfgLocked (pgRgc r) = false ∨ s.memberBound i = true) :
    (s.writeTable r k i w v).1 = 0 ∧ (s.writeTable r k i w v).2.tables = (s.writeTbl k i w v).tables := by
  have allowed : ¬(k = .member ∧ s.cfgLocked (pgRgc r) = true ∧ (!s.memberBound i) = true) := by
    rintro ⟨member, locked, free⟩
    simp_all
  rw [State.writeTable, if_neg (by simp [low]), if_neg writable, if_neg (by simp [clear]), if_neg allowed]
  refine ⟨rfl, ?_⟩
  dsimp only
  split
  · exact State.defineJob_tables _ _
  · rfl

end

/-! ### Staging, thresholds and the clock floor -/

theorem State.rfld_setRfld {pg off lo w : Nat} (rising : s.regs.rising) (fits : lo + w ≤ 32) (v : Nat) :
    (s.setRfld pg off lo w v).rfld pg off lo w = v % 2 ^ w := by
  rw [State.rfld, State.setRfld, State.reg_setReg_self rising]
  exact fld_setFld_same fits _ _

/-- The staging memory after a word is stored. -/
theorem State.stageWord_stage (s : State) (v : Word) :
    (s.stageWord v).sec.stage = Memory.write s.sec.stage (s.rfld pgSec Off.SEC_STAGE_ADDR 0 22) (leBytes 4 v.toNat) := rfl

/-- The staging address moves on by a word. -/
theorem State.stageWord_addr (rising : s.regs.rising) (v : Word) :
    (s.stageWord v).rfld pgSec Off.SEC_STAGE_ADDR 0 22 = (s.rfld pgSec Off.SEC_STAGE_ADDR 0 22 + 4) % 2 ^ 22 := by
  exact State.rfld_setRfld rising (by decide) _

/-- The floor of a step level that has been taken stays. -/
theorem State.clockFloor_setLevel (s : State) (l : Nat) : (s.setLevel l).clockFloor = s.clockFloor := by
  unfold State.setLevel State.clockFloor State.rfld
  rw [State.reg_raise_ne (by decide) _ _ (by decide) (by decide), State.reg_bump_ne (by decide) _ (by decide) (by decide) (by decide)]
  rfl

theorem State.clockFloor_followLevel (s : State) : s.followLevel.clockFloor = s.clockFloor := by
  unfold State.followLevel
  dsimp only
  split
  · exact State.clockFloor_setLevel _ _
  · split
    · exact State.clockFloor_setLevel _ _
    · rfl

/-- A change of levels leaves the floor that it sets. -/
theorem State.clockFloor_moveTarget (s : State) (cause : Nat) (f : State → State) : (s.moveTarget cause f).clockFloor = (f s).clockFloor := by
  unfold State.moveTarget
  dsimp only
  rw [State.clockFloor_followLevel]
  split <;> rfl

/-- Settles O56: one lemma for each register that the statement names. -/
theorem registerEffects : Obligations.RegisterEffects := by
  intro s sel v regs tables
  refine ⟨fun r k i w hi hw => ⟨State.writeTable_region, State.writeTable_locked, fun low writable clear => State.writeTable_member low writable clear,
    fun low writable clear open_ => ?table⟩, fun a ha wf => ?stage, fun r off level => ?thresholds, fun r off => ?floor⟩
  case table =>
    obtain ⟨status, written⟩ := State.writeTable_taken (v := v) low writable clear open_
    refine ⟨status, ?_, fun k' i' w' hi' hw' other => ?_⟩
    · rw [State.tbl, written]
      exact State.tbl_setTbl_self tables _ _ _ _
    · rw [State.tbl, written]
      exact s.tbl_setTbl_ne _ (tkey_ne hi hw hi' hw' other)
  case stage =>
    subst ha
    have length : (leBytes 4 v.toNat).length = 4 := leBytes_length 4 _
    refine ⟨?_, fun k outside => ?_, State.stageWord_addr regs v⟩
    · rw [State.stageWord_stage]
      have back := Memory.bytes_write wf (s.rfld pgSec Off.SEC_STAGE_ADDR 0 22) (leBytes 4 v.toNat)
      rwa [length] at back
    · rw [State.stageWord_stage]
      exact Memory.look_write_outside _ _ _ _ (by rw [length]; exact outside)
  case thresholds => exact if_pos ⟨off, by omega⟩
  case floor =>
    have written : s.writeCLK r sel v =
        (0, s.moveTarget 0 fun t => t.setRfld pgClk Off.CLK_STEP 0 2 (clampNat 0 2 (fld v 0 2))) := if_pos off
    refine ⟨by rw [written], ?_⟩
    rw [written, State.clockFloor_moveTarget, State.clockFloor, State.rfld_setRfld regs (by decide), clampNat]
    omega

end Sys2Proof.Machine
end

section
/-!
Steps: the front of the queue, the idle cycle and the reset state (O1 to O4).
-/

namespace Sys2Proof.Machine
open Sys2Proof.Safety
variable {s t u : State}

/-- Settles O1: a step takes the front of the queue. -/
theorem stepRunsFront : Obligations.StepRunsFront := fun _ _ _ => rfl

/-- Settles O3: the reset state lists nothing, so every look finds the reset value. -/
theorem resetState : Obligations.ResetState := by
  refine ⟨fun _ _ _ => rfl, fun _ _ _ => rfl, rfl, rfl, rfl, rfl, fun _ => rfl, fun _ => rfl, fun _ => rfl, fun _ => rfl,
    rfl, rfl, rfl, rfl, rfl⟩

/-- Settles O4: nothing has been raised at reset. -/
theorem resetSettled : Obligations.ResetSettled := rfl

/-! ### What a cycle leaves of local time and the orbit angle -/

/-- `t` has the local time, the wall clock and the interpolation of the angle that `s` has. -/
structure SameClock (s t : State) : Prop where
  now : t.now = s.now
  wall : t.wall = s.wall
  st : t.orb.st = s.orb.st
  m : t.orb.m = s.orb.m
  f : t.orb.f = s.orb.f
  tint : t.orb.tint = s.orb.tint
  inc : t.orb.inc = s.orb.inc

theorem SameClock.refl (s : State) : SameClock s s := ⟨rfl, rfl, rfl, rfl, rfl, rfl, rfl⟩

theorem SameClock.trans (first : SameClock s t) (rest : SameClock t u) : SameClock s u where
  now := rest.now.trans first.now
  wall := rest.wall.trans first.wall
  st := rest.st.trans first.st
  m := rest.m.trans first.m
  f := rest.f.trans first.f
  tint := rest.tint.trans first.tint
  inc := rest.inc.trans first.inc

theorem SameClock.of_orb (now : t.now = s.now) (wall : t.wall = s.wall) (orb : t.orb = s.orb) : SameClock s t :=
  ⟨now, wall, by rw [orb], by rw [orb], by rw [orb], by rw [orb], by rw [orb]⟩

theorem SameClock.foldl {α : Type} {f : State → α → State} (keeps : ∀ s a, SameClock s (f s a)) (l : List α) (s : State) :
    SameClock s (l.foldl f s) := foldl_rel SameClock .refl (fun _ _ _ => .trans) f keeps l s

theorem SameClock.angle (same : SameClock s t) : t.angle = s.angle := by
  unfold State.angle
  rw [same.st, same.m, same.f]

theorem SameClock.dueProbe (s : State) (p : Nat) : SameClock s (s.dueProbe p) := ⟨rfl, rfl, rfl, rfl, rfl, rfl, rfl⟩

theorem SameClock.pace (s : State) (units : Nat) : SameClock s (s.pace units) := by
  refine .foldl (fun s kv => ?_) _ s
  split
  · split
    · exact .refl s
    · refine .foldl (fun s r => ?_) _ s
      split
      · exact .of_orb rfl rfl rfl
      · exact .refl s
  · exact .refl s

theorem SameClock.passMarks (s : State) (idx : List Nat) : SameClock s (s.passMarks idx) := by
  unfold State.passMarks
  split
  · exact .refl s
  · dsimp only
    split
    · refine .trans ?_ (.foldl (fun s p => .dueProbe s p) _ _)
      exact ⟨rfl, rfl, rfl, rfl, rfl, rfl, rfl⟩
    · exact ⟨rfl, rfl, rfl, rfl, rfl, rfl, rfl⟩

theorem SameClock.passCal (s : State) (a0 a1 : Angle) : SameClock s (s.passCal a0 a1) := ⟨rfl, rfl, rfl, rfl, rfl, rfl, rfl⟩

/-- The comparators leave the clocks. -/
theorem SameClock.advance (s : State) (a0 a1 : Angle) : SameClock s (s.advance a0 a1) := by
  unfold State.advance
  split
  · exact .refl s
  · refine .trans ?_ (.passMarks _ _)
    refine .trans ?_ (.pace _ _)
    refine .trans ?_ (.passCal _ a0 a1)
    exact .of_orb rfl rfl rfl

/-- The schedules of local time leave the clocks. -/
theorem SameClock.localDue (s : State) : SameClock s s.localDue := by
  have probes : SameClock s (s.sourcePorts.foldl (fun s p =>
      if s.now - (s.orb.probes.look {} p).lastSent ≥ 1000000 then s.dueProbe p else s) s) := by
    refine .foldl (fun s p => ?_) _ s
    split
    · exact .dueProbe s p
    · exact .refl s
  unfold State.localDue
  split
  · exact .refl s
  · exact .refl s
  · dsimp only
    split
    · exact probes.trans (.of_orb rfl rfl rfl)
    · exact probes

/-- The codewords and the auto-negotiation of a cycle leave the clocks. -/
theorem SameClock.lines (s : State) : SameClock s s.fecTicks.negotiate :=
  .trans (t := s.fecTicks)
    (.of_orb (by rw [State.fecTicks_frame]) (by rw [State.fecTicks_frame]) (by rw [State.fecTicks_frame]))
    (.of_orb (by rw [State.negotiate_frame]) (by rw [State.negotiate_frame]) (by rw [State.negotiate_frame]))

/-- What every cycle of a running chip does to the clocks. -/
def State.later (s : State) : State := { s with now := s.now + 1, wall := { s.wall with ns := s.wall.ns + 1 } }

/-- A cycle of interpolation: `f` moves by `inc`, short of the next mark. -/
def State.interpolated (s : State) : State := { s.later with orb := { s.orb with f := min (s.orb.f + s.orb.inc) maxTravel } }

/-- What a cycle of a running chip does to the clocks and the angle. -/
def State.turned (s : State) : State :=
  if (s.orb.st = .locked ∨ s.orb.st = .master) ∧ s.orb.masterStopped = false then
    s.interpolated.advance s.later.angle s.interpolated.angle
  else s.later

theorem State.idle_awake (awake : s.awake = true) : s.idle = s.turned.localDue.fecTicks.negotiate := by
  have cycle : s.idle = State.negotiate (State.fecTicks (State.localDue (match s.orb.st with
      | .locked | .master => if s.orb.masterStopped then s.later else s.interpolated.advance s.later.angle s.interpolated.angle
      | _ => s.later))) := if_neg (by rw [awake]; decide)
  rw [cycle, State.turned]
  cases s.orb.st <;> cases s.orb.masterStopped <;> rfl

section
variable (awake : s.awake = true)
include awake

/-- While the angle moves, a cycle is an interpolation. -/
theorem State.idle_moving (moving : (s.orb.st = .locked ∨ s.orb.st = .master) ∧ s.orb.masterStopped = false) :
    SameClock s.interpolated s.idle := by
  rw [State.idle_awake awake, State.turned, if_pos moving]
  exact .trans (.advance _ _ _) (.trans (.localDue _) (.lines _))

/-- While the angle stands, a cycle moves the clocks only. -/
theorem State.idle_standing (standing : ¬((s.orb.st = .locked ∨ s.orb.st = .master) ∧ s.orb.masterStopped = false)) :
    SameClock s.later s.idle := by
  rw [State.idle_awake awake, State.turned, if_neg standing]
  exact .trans (.localDue _) (.lines _)

/-- The clocks of a running chip advance by 1 ns. -/
theorem State.idle_clocks : s.idle.now = s.now + 1 ∧ s.idle.wall.ns = s.wall.ns + 1 := by
  by_cases moving : (s.orb.st = .locked ∨ s.orb.st = .master) ∧ s.orb.masterStopped = false
  · have same := State.idle_moving awake moving
    exact ⟨same.now, by rw [same.wall]; rfl⟩
  · have same := State.idle_standing awake moving
    exact ⟨same.now, by rw [same.wall]; rfl⟩

end

/-- In reset and after a power failure no cycle passes. -/
theorem State.idle_asleep (asleep : s.awake = false) : s.idle = s := by
  rw [State.idle, asleep]
  rfl

/-- The angle stands while the block is not LOCKED and not master. -/
theorem State.angle_idle (standing : s.orb.st ≠ .locked ∧ s.orb.st ≠ .master) : s.idle.angle = s.angle := by
  cases awake : s.awake with
  | false => rw [State.idle_asleep awake]
  | true => exact (State.idle_standing awake fun moving => by simp [standing] at moving).angle

theorem State.angle_zero (early : s.orb.st = .unlocked ∨ s.orb.st = .locking) : s.angle = 0 := by
  unfold State.angle
  obtain st | st := early <;> rw [st]

/-- Where none of the open instances is vacant and nothing has been raised, a tick is its cycle. -/
theorem State.tick_eq_idle (awake : s.awake = true) (quiet : s.idle.todo = [])
    (busy : ∀ kv ∈ s.idle.jobs, kv.2.vacant = false) : s.tick = s.idle := by
  have none : s.idle.jobs.filter (fun kv => kv.2.vacant) = [] :=
    List.filter_eq_nil_iff.mpr fun kv hkv => by simp [busy kv hkv]
  have unsealed : s.idle.sealVacant = s.idle := by
    rw [State.sealVacant, none]
    rfl
  rw [State.tick, if_pos awake, unsealed, State.finish_settled _ quiet]

/-- Settles O2: the comparators that a cycle runs leave the clocks and the interpolation. -/
theorem idleStep : Obligations.IdleStep := by
  refine ⟨fun s empty => ?_, fun s asleep => if_neg (by simp [asleep]), fun s => State.tick_eq_idle, fun s => State.idle_asleep,
    fun s => State.idle_clocks, fun s awake locked going => ?_, fun s => ⟨fun early => ?_, fun late => ?_⟩⟩
  · rw [step, empty]
  · have same := State.idle_moving awake ⟨.inl locked, going⟩
    have st : s.idle.orb.st = .locked := same.st.trans locked
    exact ⟨same.f, same.m, st, same.tint, same.inc, by rw [State.angle, st]⟩
  · have standing : s.orb.st ≠ .locked ∧ s.orb.st ≠ .master := by
      obtain st | st := early <;> rw [st] <;> exact ⟨by decide, by decide⟩
    exact ⟨State.angle_zero early, (State.angle_idle standing).trans (State.angle_zero early)⟩
  · refine State.angle_idle ?_
    obtain st | st := late <;> rw [st] <;> exact ⟨by decide, by decide⟩

end Sys2Proof.Machine
end

section
/-!
What arrives at the management complex (O7).
-/

namespace Sys2Proof.Machine
open Sys2Proof.Safety
variable {s : State} {m : RalowIn}

/-! ### The host port -/

/-- In reset nothing is heard. -/
theorem State.hear_asleep (asleep : s.awake = false) : s.hear m = .lost s := by
  rw [State.hear, asleep]
  rfl

section
variable (awake : s.awake = true)
include awake

/-- A message in a buffer word that reads good is heeded. -/
theorem State.hear_clean (clean : (s.hostPort m.port.val).rxErr = 0) : s.hear m = s.heed m := by
  simp only [State.hear, awake, clean]
  rfl

/-- A message in an uncorrectable buffer word is dropped. -/
theorem State.hear_rxUe (bad : 2 ≤ (s.hostPort m.port.val).rxErr) :
    s.hear m = .lost (((((s.modHost m.port.val fun x => { x with rxErr := 0 }).countUe pgHst).bump pgHst Off.HST_RX_DROP m.port.val)).raise
      { pg := pgHst, ev := 2, unit := m.port.val, access := 7, syn := s.ueSyndrome pgHst m.port.val }) := by
  obtain ⟨n, hn⟩ := Nat.exists_eq_add_of_le' bad
  simp only [State.hear, awake, hn, State.hostTake]
  rfl

end

/-! ### The datagram and its form -/

theorem State.heed_other (other : m.dport.toNat ≠ s.ralowPort) : s.heed m = .lost (s.bump pgHst Off.HST_RX_DROP m.port.val) :=
  if_pos other

section
variable (port : m.dport.toNat = s.ralowPort)
include port

theorem State.heed_size (size : m.sizeOk = false) : s.heed m = .lost (s.dropRalow Off.MGT_RALOW_DROP_FMT m.slot.val) :=
  (if_neg (not_not_intro port)).trans (if_pos (by rw [size]; rfl))

theorem State.heed_recall (size : m.sizeOk = true) : s.heed m = s.recall m :=
  (if_neg (not_not_intro port)).trans (if_neg (by rw [size]; decide))

end

/-! ### The memories of sessions and keys -/

/-- An uncorrectable word of a memory leaves the other memories as they are. -/
theorem State.eccOf_eccLost (s : State) {x : Store} (kept : x.isLink = false) (y : Store) (job : Option Nat) :
    (s.eccLost x job).eccOf y = s.eccOf y := by
  unfold State.eccLost State.eccOf
  rw [State.raise_frame, State.countUe_frame, kept]
  rfl

theorem State.eccRead_bad {x : Store} (bad : 2 ≤ s.eccOf x) (job : Option Nat) : s.eccRead x job = (false, s.eccLost x job) := by
  rw [State.eccRead, if_neg (by omega), if_neg (by omega)]

theorem State.recall_good (good : recalls s m) : s.recall m = s.bySession m := by
  obtain ⟨session, keys⟩ := good
  simp [State.recall, State.eccRead_good session, State.eccRead_good keys]

/-- A message whose session cannot be read is not taken. -/
theorem State.recall_session (bad : 2 ≤ s.eccOf (.session m.slot.val)) (keys : s.eccOf (.keys m.slot.val) = 0) :
    s.recall m = .lost (s.eccLost (.session m.slot.val) none) := by
  have keys' : (s.eccLost (.session m.slot.val) none).eccOf (.keys m.slot.val) = 0 := by rw [State.eccOf_eccLost _ rfl, keys]
  simp [State.recall, State.eccRead_bad bad, State.eccRead_good keys']

/-- A message whose key cannot be read is not taken. -/
theorem State.recall_keys (session : s.eccOf (.session m.slot.val) = 0) (bad : 2 ≤ s.eccOf (.keys m.slot.val)) :
    s.recall m = .lost (s.eccLost (.keys m.slot.val) none) := by
  simp [State.recall, State.eccRead_good session, State.eccRead_bad bad]

/-! ### The session -/

theorem State.bySession_tag (other : s.authentic m = false) :
    s.bySession m = .lost (s.dropRalow Off.MGT_RALOW_DROP_TAG m.slot.val) := if_pos (by rw [other]; rfl)

section
variable (authentic : s.authentic m = true)
include authentic

theorem State.bySession_stale (stale : (s.sess m.slot.val).fresh m.seq = false) : s.bySession m = .lost (s.repeated m) :=
  (if_neg (by rw [authentic]; decide)).trans (if_pos (by rw [stale]; rfl))

theorem State.bySession_fresh (fresh : (s.sess m.slot.val).fresh m.seq = true) :
    s.bySession m = .got (s.modSess m.slot.val fun x => x.passed m s.now) :=
  (if_neg (by rw [authentic]; decide)).trans (if_neg (by rw [fresh]; decide))

end

/-- Settles O7: one lemma for each test of the acceptance, in their order. -/
theorem messageAcceptance : Obligations.MessageAcceptance := by
  intro s m
  have whole (awake : s.awake = true) (here : reaches s m.port m.dport) (size : m.sizeOk = true) : s.hear m = s.recall m := by
    rw [State.hear_clean awake here.1, State.heed_recall here.2 size]
  have judged (awake : s.awake = true) (here : reaches s m.port m.dport) (good : recalls s m) (size : m.sizeOk = true) :
      s.hear m = s.bySession m := by rw [whole awake here size, State.recall_good good]
  refine ⟨State.hear_asleep, State.hear_rxUe, fun awake here size bad keys => ?session, fun awake here size session bad => ?keys,
    fun awake clean other => ?other, fun awake here size => ?size, fun awake here good size tag => ?tag,
    fun awake here good size tag stale => ⟨fun r kept => ?again, fun none => ?stale⟩, fun t taken => ?taken⟩
  case session =>
    rw [whole awake here size, State.recall_session bad keys]
    rfl
  case keys =>
    rw [whole awake here size, State.recall_keys session bad]
    rfl
  case other => rw [State.hear_clean awake clean, State.heed_other other]
  case size => rw [State.hear_clean awake here.1, State.heed_size here.2 size]
  case tag => rw [judged awake here good size, State.bySession_tag tag]
  case again => rw [judged awake here good size, State.bySession_stale tag stale, State.repeated, kept]
  case stale => rw [judged awake here good size, State.bySession_stale tag stale, State.repeated, none]
  case taken =>
    obtain ⟨awake, here, good, size, tag, fresh, rfl⟩ := taken
    rw [judged awake here good size, State.bySession_fresh tag fresh]

end Sys2Proof.Machine
end

section
/-!
Handshakes, session rows, requests and batches (O9 to O12).
-/

namespace Sys2Proof.Machine
open Sys2Proof.Safety
variable {s t : State}

/-! ### Rows that act -/

/-- A row whose condition holds ends in its state. -/
theorem actIf_due {due : Bool} (holds : due = true) (s t : State) : actIf due s t = .next t.finish := by
  rw [actIf, if_pos holds]
  rfl

/-- A row that finds its value ends in what it does with it. -/
theorem actWith_some {α : Type} {o : Option α} {v : α} (found : o = some v) (s : State) (f : α → State) :
    actWith o s f = .next (f v).finish := by
  rw [found]
  rfl

/-- A datagram for the Ralow port in a good buffer word is taken. -/
theorem State.udpTake_reaches {p : HostPort} {dport : BitVec 16} (here : reaches s p dport) (f : State → State) :
    s.udpTake p.val dport f = f s := by
  obtain ⟨clean, port⟩ := here
  simp only [State.udpTake, State.hostTake, clean, port, if_true]

/-! ### Handshakes (R380, R381) -/

/-- A HOST_HELLO of the right form, of no handshake under way, with room for one more, begins one in the lowest free slot. -/
theorem State.hostHello_begins {h : HandshakeIn} {i : Nat} (parts : h.partsOk = true) (length : h.payload.length = 1216)
    (new : (s.handSlots.find? fun k => (s.sess k).hs == h.hs) = none) (few : s.handSlots.length < 4)
    (free : (leastBelow 16 fun k => (s.sess k).st == .free) = some i) : s.hostHello h = s.beginHand i h := by
  have form : ¬((!h.partsOk) = true ∨ h.payload.length ≠ helloLength) := by simp [parts, length, helloLength]
  have room : ¬s.handSlots.length ≥ 4 := by omega
  simp only [State.hostHello, if_neg form, new, if_neg room, free]

/-- A HOST_AUTH that passes the checks opens the session. -/
theorem State.hostAuth_opens {h : HandshakeIn} {v : AuthVerdict} {role : Fin 5} (passes : s.authCheck h v = .ok role) :
    s.hostAuth h v = (((if s.anchorList.contains v.rootKey then s else s.setAnchor 0 (some v.rootKey)).openSession h.slot.val h role).raise
      { pg := pgMgt, ev := 0, unit := h.slot.val }) := by
  simp only [State.hostAuth, passes]

/-- Settles O9: each row acts under its conditions. -/
theorem handshakesComplete : Obligations.HandshakesComplete := by
  refine ⟨fun s h i answers here parts length new few free => ?_, fun s h v role answers here st hs passes => ?_, fun s i st late => ?_⟩
  · refine (actIf_due answers s _).trans ?_
    rw [State.udpTake_reaches here, State.hostHello_begins parts length new few free]
  · refine (actIf_due (by simp [answers, st, hs]) s _).trans ?_
    rw [State.udpTake_reaches here, State.hostAuth_opens passes]
  · exact actIf_due (by simp [State.handOver, st, late]) s _

/-! ### Sessions (R344, R359, R360, R384) -/

/-- Settles O10: each row acts under its conditions. -/
theorem sessionRowsComplete : Obligations.SessionRowsComplete := by
  refine ⟨fun s t m b taken => onMsg_accepted taken _, fun s t m b taken whole few => ?_, fun s i opened idle => ?_,
    fun s c q x d due => actWith_some due s _, fun s c x found final held => ?_, fun s opened late => ?_⟩
  · refine (onMsg_accepted taken _).trans ?_
    rw [if_pos ⟨whole, few⟩]
    rfl
  · exact actIf_due (by simp [State.sessIdle, opened, idle]) s _
  · exact actIf_due (by simp [State.holdOver, found, final, held]) s _
  · exact actIf_due (by simp [State.lockOver, opened, late]) s _

/-! ### Requests (R338, R346 to R352, R355) -/

/-- A memory request that passes R351 reads its range. -/
theorem State.memReadReply_ok {m : RalowIn} {b d : List Byte} {w : Window} {u : State} (role : t.roleOf m = 2)
    (form : m.reservedOk = true) (layout : memLayout b false = true)
    (passes : t.memCheck (bits (leAt b 0 2) 0 12) (bits (leAt b 4 8) 0 52) (leAt b 12 4) false = .ok w)
    (reads : t.readRange w (bits (leAt b 4 8) 0 52) (leAt b 12 4) = (.ok d, u)) : t.memReadReply m b = u.reply m 0 0 0 d := by
  simp [State.memReadReply, role, form, layout, passes, reads]

/-- A memory request that passes R351 writes its range. -/
theorem State.memWriteReply_ok {m : RalowIn} {b : List Byte} {w : Window} (role : t.roleOf m = 2) (form : m.reservedOk = true)
    (layout : memLayout b true = true)
    (passes : t.memCheck (bits (leAt b 0 2) 0 12) (bits (leAt b 4 8) 0 52) (leAt b 12 4) true = .ok w) :
    t.memWriteReply m b = (t.writeRange w (bits (leAt b 4 8) 0 52) (b.drop 16)).reply m 0 0 0 [] := by
  simp [State.memWriteReply, role, form, layout, passes]

/-- A batch of the layout of R346 is answered with its entries. -/
theorem State.batchReply_ok {m : RalowIn} {b es : List Byte} {st : Nat} {u : State} (form : m.reservedOk = true)
    (layout : batchOk b = true) (ran : t.runBatch m.slot.val ((List.range (b.length / 8)).map (batchOp b)) = (es, st, u)) :
    t.batchReply m b = (u.reply m (stopCode st) (es.length / 8) 0 es).endAccess m.slot.val := by
  simp [State.batchReply, form, layout, ran]

/-- Settles O11: each row acts under its conditions. -/
theorem requestsComplete : Obligations.RequestsComplete := by
  refine ⟨fun s t u m b es st taken form layout ran => ?_, fun s t u m b d w ready taken role form layout passes reads => ?_,
    fun s t m b w ready taken role form layout passes => ?_, fun s t m code n ops taken takes unknown => ?_,
    fun s m k b awake here reserved => ?_⟩
  · refine (onMsg_accepted taken _).trans ?_
    rw [State.batchReply_ok form layout ran]
    rfl
  · refine ((if_neg (by rw [ready]; decide)).trans (onMsg_accepted taken _)).trans ?_
    rw [State.memReadReply_ok role form layout passes reads]
    rfl
  · refine ((if_neg (by rw [ready]; decide)).trans (onMsg_accepted taken _)).trans ?_
    rw [State.memWriteReply_ok role form layout passes]
    rfl
  · refine ((if_neg (by rw [unknown]; decide)).trans (onMsg_accepted taken _)).trans ?_
    rw [takes]
    rfl
  · refine ((if_pos reserved).trans (actIf_due awake s _)).trans ?_
    rw [State.udpTake_reaches here]

/-- Settles O12: the batch runs its first operation, and the rest where that does not stop it. -/
theorem batchStops : Obligations.BatchStops := by
  intro s i o rest
  refine ⟨fun stops => ?_, fun goes => ?_⟩
  · exact if_pos stops
  · exact if_neg (Nat.not_le.mpr goes)

end Sys2Proof.Machine
end

section
/-!
The long commands (O14 to O17).
-/

namespace Sys2Proof.Machine
open Sys2Proof.Safety
variable {s t : State}

/-! ### The rejections of R355 -/

section
variable {m : RalowIn} {n : Nat} {ops : List Word} {roles : List Nat} {argc : Nat} {opsOk : Bool} {f : State → Word → State}

/-- A module that takes commands answers by their checks. -/
theorem State.command_takes (takes : t.turnsAway = false) :
    t.command m n ops roles argc opsOk f = t.chitFor m n ops roles argc opsOk f := if_neg (by rw [takes]; decide)

theorem State.chitFor_format (bad : m.reservedOk = false ∨ n ≠ ops.length ∨ n > 32) :
    t.chitFor m n ops roles argc opsOk f = t.reply m 0x0A02 0 0 [] := if_pos (by simpa using bad)

section
variable (form : m.reservedOk = true) (count : n = ops.length) (few : n ≤ 32)
include form count few

theorem commandForm_ok : ¬((!m.reservedOk) = true ∨ n ≠ ops.length ∨ n > 32) := by
  rintro (bad | bad | bad)
  · rw [form] at bad
    exact absurd bad (by decide)
  · exact bad count
  · omega

theorem State.chitFor_denied (denied : roles.contains (t.roleOf m) = false) :
    t.chitFor m n ops roles argc opsOk f = t.reply m 0x0A01 0 0 [] :=
  (if_neg (commandForm_ok form count few)).trans (if_pos (by rw [denied]; rfl))

variable (role : roles.contains (t.roleOf m) = true)
include role

theorem State.chitFor_operands (bad : n ≠ argc ∨ opsOk = false) :
    t.chitFor m n ops roles argc opsOk f = t.reply m 0x0A05 0 0 [] :=
  (if_neg (commandForm_ok form count few)).trans ((if_neg (by rw [role]; decide)).trans (if_pos (by simpa using bad)))

variable (args : n = argc) (legal : opsOk = true)
include args legal

theorem State.chitFor_noRecord (none : t.claimChit m.slot.val (netOf m.port).val m.mirror = none) :
    t.chitFor m n ops roles argc opsOk f = t.reply m 0x0A04 0 0 [] := by
  refine (if_neg (commandForm_ok form count few)).trans ((if_neg (by rw [role]; decide)).trans ((if_neg (by simp [args, legal])).trans ?_))
  rw [none]

theorem State.chitFor_chit {chit : Word} {u : State} (claimed : t.claimChit m.slot.val (netOf m.port).val m.mirror = some (chit, u)) :
    t.chitFor m n ops roles argc opsOk f = f (u.reply m 0 0 chit []) chit := by
  refine (if_neg (commandForm_ok form count few)).trans ((if_neg (by rw [role]; decide)).trans ((if_neg (by simp [args, legal])).trans ?_))
  rw [claimed]

end

/-- Settles O17: the checks of a COMMAND in their order. -/
theorem commandRejections : Obligations.CommandRejections := by
  intro s t m n ops roles argc opsOk f taken
  have answered : onCommand m n ops roles argc opsOk s f = .next (t.command m n ops roles argc opsOk f).finish :=
    onMsg_accepted taken _
  rw [answered]
  refine ⟨fun away => ?_, fun takes bad => ?_, fun takes form count few denied => ?_, fun takes form count few role bad => ?_,
    fun takes form count few role args legal none => ?_⟩
  · rw [State.command, if_pos away]
  · rw [State.command_takes takes, State.chitFor_format bad]
  · rw [State.command_takes takes, State.chitFor_denied form count few denied]
  · rw [State.command_takes takes, State.chitFor_operands form count few role bad]
  · rw [State.command_takes takes, State.chitFor_noRecord form count few role args legal none]

end

/-! ### Jobs (R90 to R93, R197, R354) -/

section
variable {chit : Word}

theorem State.armCommand_arms {ops : List Word} (passes : s.armCheck (opw ops 0) (s.jobCfg (opw ops 0)) = none) :
    s.armCommand chit ops = ((s.readsIdentity (opw ops 0) (s.jobCfg (opw ops 0))).armJob (opw ops 0) chit (ops.getD 1 0)
      (ops.getD 2 0) (s.jobCfg (opw ops 0))).record chit 0 false [] := by
  simp only [State.armCommand, passes]

theorem State.retireCommand_live {slot mode : Nat} {c : JobCfg} (live : (s.job slot).st = .armed ∨ (s.job slot).st = .running)
    (cfg : (s.job slot).cfg = some c) :
    s.retireCommand chit slot mode = (s.modJob slot fun j => { j with retireChit := some chit }).retireLive slot mode c := by
  unfold State.retireCommand
  obtain st | st := live <;> rw [st, cfg]

theorem State.retireCommand_defined {slot mode : Nat} (st : (s.job slot).st = .defined) :
    s.retireCommand chit slot mode = ((s.releaseSets slot).modJob slot fun j => { j with st := .retired }).complete chit 0x0003 := by
  unfold State.retireCommand
  rw [st]

theorem State.groupLoadCommand_ok {x : GroupLoad} {w : Window} {b : List Byte} {u : State} (unlocked : s.groupLoadLocked x = false)
    (win : s.validWin x.win = some w) (aligned : x.off % 16 = 0) (inside : x.off + x.bytes ≤ w.bytes) (readable : w.hostRead = true)
    (groups : x.g + x.ng ≤ 4096) (members : x.m + x.nm ≤ 262144) (unfenced : s.winFenced w = false)
    (reads : s.readBytes w x.off x.bytes = (.ok b, u)) :
    s.groupLoadCommand chit x = (u.groupLoadWrite x b).complete chit 0 [word x.ng, word x.nm] := by
  have holds : ¬(x.off % 16 ≠ 0 ∨ x.off + x.bytes > w.bytes ∨ (!w.hostRead) = true) := by
    simp [aligned, readable]
    omega
  have fits : ¬(x.g + x.ng > 4096 ∨ x.m + x.nm > 262144) := by omega
  simp only [State.groupLoadCommand, unlocked, win, if_neg holds, if_neg fits, unfenced, reads]
  rfl

theorem State.loadCommand_waits {slot region cpb space off len : Nat} (st : (s.job slot).st = .defined ∨ (s.job slot).st = .retired)
    (win : (s.loadWin slot space off len).isSome = true) (hr : region ≤ 3) (hc : cpb ≤ 7) (unfenced : s.isFenced region = false) :
    s.loadCommand chit slot region cpb space off len =
      { s with loads := s.loads ++ [⟨chit, slot, 8 * region + cpb, space, off, len⟩] } := by
  have legal : ¬((s.job slot).st ≠ .defined ∧ (s.job slot).st ≠ .retired) := fun other => st.elim other.1 other.2
  have found : ¬(s.loadWin slot space off len).isNone = true := by
    rw [← Option.not_isSome, win]
    decide
  have block : ¬(region > 3 ∨ cpb > 7 ∨ s.isFenced region = true) := by
    rintro (high | high | fenced)
    · omega
    · omega
    · rw [unfenced] at fenced
      exact absurd fenced (by decide)
  rw [State.loadCommand, if_neg legal, if_neg found, if_neg block]

end

/-- Settles O14: each accepted command passes its own checks. -/
theorem jobCommandsComplete : Obligations.JobCommandsComplete := by
  refine ⟨fun s v m n ops chit taken ready passes => ?_, fun s v m n ops chit c taken live cfg => ?_, fun s v m n ops chit taken st => ?_,
    fun s v u m n ops chit w b => ?_, fun s v m n ops chit taken ready st win hr hc unfenced => ?_⟩
  · refine (onMemCommand_commanded taken ready _).trans ?_
    rw [State.armCommand_arms passes]
    rfl
  · refine (onCommand_commanded taken _).trans ?_
    rw [State.retireCommand_live live cfg]
    rfl
  · refine (onCommand_commanded taken _).trans ?_
    rw [State.retireCommand_defined st]
    rfl
  · intro x now taken ready unlocked win aligned inside readable groups members unfenced reads
    refine ((if_neg (by rw [show s.memWaits (GroupLoad.of ops).win = false from now]; decide)).trans
      (onMemCommand_commanded taken ready _)).trans ?_
    rw [State.groupLoadCommand_ok unlocked win aligned inside readable groups members unfenced reads]
    rfl
  · refine (onMemCommand_commanded taken ready _).trans ?_
    rw [State.loadCommand_waits st win hr hc unfenced]
    rfl

/-! ### Memory (R142, R323) -/

section
variable {chit : Word}

theorem State.fillCommand_ok {win off len pattern : Nat} {w : Window} (passes : s.memCheck win off len true = .ok w) :
    s.fillCommand chit win off len pattern =
      (s.writeRange w off (replBytes (len / 8) (leBytes 8 pattern))).complete chit 0 [word len] := by
  simp only [State.fillCommand, passes]

theorem State.copyCommand_ok {src soff dst doff len : Nat} {a b : Window} {d : List Byte} {u : State}
    (source : s.memCheck src soff len false = .ok a) (dest : s.memCheck dst doff len true = .ok b)
    (reads : s.readRange a soff len = (.ok d, u)) :
    s.copyCommand chit src soff dst doff len = (u.writeRange b doff d).complete chit 0 [word len] := by
  simp only [State.copyCommand, source, dest, reads]

/-- A checkpoint whose commit words are readable, of a step that no slice has passed, starts. -/
theorem State.ckptStart_begins {slot first count step space off : Nat} {xs : List SliceCfg} {w : Window} {g : SliceCfg → CommitWord}
    (run : (s.cfgNow slot).sliceRun first count = some xs) (win : (s.cfgNow slot).window space = some w)
    (reads : ∀ x ∈ xs, s.readCommit (s.cfgNow slot) x = some (g x)) (given : step ≠ 0xFFFFFFFF)
    (ahead : ∀ x ∈ xs, stepBeyond (g x).step step = false) (fits : (s.cfgNow slot).imageOk xs space off = true) :
    s.ckptStart chit slot first count step space off =
      (xs.foldl (fun u x => u.readsCommit slot (s.cfgNow slot) x) s).ckptBegin chit slot first count step space off w
        (xs.map fun x => (x, g x)) := by
  have words : (xs.map fun x => (x, s.readCommit (s.cfgNow slot) x)) = xs.map fun x => (x, some (g x)) :=
    List.map_congr_left fun x hx => by rw [reads x hx]
  have readable : ((xs.map fun x => (x, some (g x))).any fun p => p.2.isNone) = false := by simp
  have plain : ((xs.map fun x => (x, some (g x))).map fun p => (p.1, p.2.getD (CommitWord.parse []))) = xs.map fun x => (x, g x) := by simp
  have behind : ((xs.map fun x => (x, g x)).any fun p => stepBeyond p.2.step step) = false := by
    simpa using ahead
  simp [State.ckptStart, run, win, words, readable, plain, if_neg given, behind, fits]

end

/-- Settles O15: each accepted command passes its own checks. -/
theorem memoryCommandsComplete : Obligations.MemoryCommandsComplete := by
  refine ⟨fun s v m n ops chit w now taken ready passes => ?_, fun s v u m n ops chit a b d src dst taken ready source dest reads => ?_,
    fun s v m n ops chit xs w g taken ready run win reads given ahead fits => ?_, fun s t chit k found steps => ?_⟩
  · refine ((if_neg (by rw [now]; decide)).trans (onMemCommand_commanded taken ready _)).trans ?_
    rw [State.fillCommand_ok passes]
    rfl
  · refine ((if_neg (by rw [src, dst]; decide)).trans (onMemCommand_commanded taken ready _)).trans ?_
    rw [State.copyCommand_ok source dest reads]
    rfl
  · refine (onMemCommand_commanded taken ready _).trans ?_
    rw [State.ckptStart_begins run win reads given ahead fits]
    rfl
  · exact actWith_some (by rw [found]; exact steps) s id

/-! ### Firmware, links, swaps and reports (R238, R296, R383, R387) -/

section
variable {chit : Word}

theorem State.retrainCommand_starts {p mode : Nat} (port : p < 512) (enabled : s.portEnabled p = true)
    (unfenced : s.isFenced (portRegion p) = false) (free : (s.port p).retrain = none) (alive : (s.port p).st ≠ .failed) :
    s.retrainCommand chit p mode = ((if (s.port p).st = .up then s.leaveUp p else s.portDown p .disabled).modPort p fun y =>
      { y with attempts := 0, retrain := some chit, retryAt := none }).startBringup p (decide (mode = 1)) := by
  have usable : ¬(p ≥ 512 ∨ (!s.portEnabled p) = true ∨ s.isFenced (portRegion p) = true) := by
    rw [enabled, unfenced]
    simp
    exact port
  rw [State.retrainCommand, if_neg usable, if_neg (by rw [free]; decide), if_neg alive]

theorem State.tableSwapCmd_ok {classes limit mode : Nat} (idle : s.sw.swap = none) (valid : s.shadowOk = true) :
    s.tableSwapCmd chit classes limit mode = if mode = 1 then s.complete chit 0 [0, 0] else s.beginSwap chit classes limit := by
  rw [State.tableSwapCmd, if_neg (by rw [idle]; decide), if_neg (by rw [valid]; decide)]

theorem State.reportCommand_ok {i : Nat} {ops : List Word} {slots : List Nat} (covers : s.reportSlots (opw ops 8) = some slots)
    (fits : (s.report (ops.take 8) slots).length ≤ 2 ^ 18) :
    s.reportCommand i chit ops = ((({ s with free := s.free + 1024 } : State).modSess i fun x =>
      { x with rpt := s.report (ops.take 8) slots }).complete chit 0 [word (s.report (ops.take 8) slots).length]) := by
  simp only [State.reportCommand, covers, if_neg (Nat.not_lt.mpr fits)]

/-- Every session has one of the five roles. -/
theorem State.roleOf_any (s : State) (m : RalowIn) : [0, 1, 2, 3, 4].contains (s.roleOf m) = true := by
  have role := (s.sess m.slot.val).role.isLt
  simp only [State.roleOf, List.contains_eq_mem, List.mem_cons, List.mem_nil_iff, decide_eq_true_eq]
  omega

end

/-- Settles O16: each accepted command passes its own checks, and a swap has drained or its limit has passed. -/
theorem otherCommandsComplete : Obligations.OtherCommandsComplete := by
  refine ⟨fun s v m n ops x chit => ?_, fun s v m n ops chit => ?_, fun s v m n ops chit taken idle valid => ?_,
    fun s t u v m n ops chit slots => ?_, fun s w swap drained => ?_, fun s w swap flying late => ?_⟩
  · intro b taken passes
    refine (onCommand_commanded taken _).trans ?_
    simp only [State.updateCommand]
    rw [show v.updateCheck (opw ops 0) (Memory.bytes v.sec.stage 0 (min (opw ops 0) (2 ^ 22))) x = none from passes]
    rfl
  · intro p taken port enabled unfenced free alive
    refine (onCommand_commanded taken _).trans ?_
    rw [State.retrainCommand_starts port enabled unfenced free alive]
    rfl
  · refine (onCommand_commanded taken _).trans ?_
    rw [State.tableSwapCmd_ok idle valid]
    rfl
  · intro r taken form count length claimed answered covers fits
    subst answered
    refine (onMsg_accepted taken _).trans ?_
    rw [State.chitFor_chit form (count.trans length.symm) (by omega) (State.roleOf_any t m) count rfl claimed,
      State.reportCommand_ok covers fits]
    rfl
  · exact actWith_some (by simp only [State.swapDrained, swap, if_pos drained]) s _
  · exact actWith_some (by simp only [State.swapLate, swap]; exact if_pos ⟨flying, late⟩) s _

end Sys2Proof.Machine
end

section
/-!
Messages of the fabric, chunks, lanes and the transitions of a job (O19, O21 to O25).
-/

namespace Sys2Proof.Machine
open Sys2Proof.Safety
variable {s t : State} {m : Msg} {j : Nat} {c : JobCfg}

/-! ### Contributions -/

/-- A row of a job's messages acts on the message that it delivers. -/
theorem onRx_delivers {a : Arrival} {mine : Msg → Bool} (came : delivers s a mine t m j c) (f : State → Msg → Nat → JobCfg → State) :
    onRx s (s.receive a mine) (fun t m => t.jobMsg m (f t m)) = .next (f t m j c).watchFlow.finish := by
  obtain ⟨got, slot, cfg, accepts⟩ := came
  rw [onRx_got got, State.jobMsg_accepts slot cfg accepts]
  rfl

/-- Settles O19: a message that passes every check of R74 is taken. -/
theorem contributionsComplete : Obligations.ContributionsComplete := by
  intro s t a m j c k row at_ seg part came onTime free arrived admitted planned named fits covers first good
  have taken : t.contribution m j c = t.takeSegment k c row seg m :=
    State.contribution_taken (State.not_pastDeadline (.inr onTime)) free arrived planned admitted named fits covers first good
  rw [← taken]
  cases part with
  | true => exact onRx_delivers came fun t m => t.contribution m
  | false => exact onRx_delivers came fun t m => t.contribution m

/-! ### Grants and notices (R101, R105 to R108) -/

/-- A leaf chunk whose GRANT is held sends its partials, if it has waited for it. -/
def State.sendHeld (s : State) (m : Msg) (j : Nat) (c : JobCfg) (row : PlanRow) : State :=
  match s.chunkOf j (word m.h.step) (BitVec.ofNat 8 m.h.attempt) m.h.chunk with
  | some k => if k.phase = ChunkPhase.waitingGrant then s.leafSend k c row else s
  | none => s

/-- A GRANT of what the job has open that reaches its leaf row in time is held. -/
theorem State.parentGrant_holds {at_ : Nat} {row : PlanRow} (planned : c.rowOf m.h.chunk = some (at_, row)) (leaf : row.role = 1)
    (group : row.upGroup = m.h.group) (member : row.upMember = m.h.member) (named : (s.job j).names m.h = true)
    (onTime : (s.job j).late = false) :
    s.parentGrant m j c = (s.modInst j fun i => { i with grants := insertOnce i.grants m.h.chunk }).sendHeld m j c row := by
  simp only [State.parentGrant, planned]
  exact if_pos ⟨leaf, group, member, named, by rw [onTime]; rfl⟩

theorem State.noticeOpen_opens (leaf : c.isLeaf = true) (parent : c.fromParent m.h = true) (runs : (s.job j).st = .running)
    (new : (s.job j).inst.passed m.h = false) (idle : (s.job j).isOpen = false) :
    s.noticeOpen m j c = s.openLeaf j c (word m.h.step) (BitVec.ofNat 8 m.h.attempt) (word m.h.elemOffset) := by
  simp [State.noticeOpen, leaf, parent, runs, new, idle]

theorem State.noticeReady_counts (waits : c.plan.readyWait = true) (named : (s.job j).names m.h = true)
    (onTime : (s.job j).late = false) (contributor : c.fromContributor m.h = true) :
    s.noticeReady m j c = (s.modInst j fun i => { i with ready := insertOnce i.ready m.h.member }).progress j :=
  if_pos ⟨waits, named, by rw [onTime]; rfl, contributor⟩

theorem State.noticeAbandon_parent (named : (s.job j).names m.h = true) (leaf : c.isLeaf = true) (parent : c.fromParent m.h = true) :
    s.noticeAbandon m j c = s.abandonInst j 0x0202 :=
  (if_neg (by rw [named]; decide)).trans (if_pos ⟨leaf, parent⟩)

theorem State.noticeAbandon_child (named : (s.job j).names m.h = true) (other : c.isLeaf = false ∨ c.fromParent m.h = false)
    (contributor : c.fromContributor m.h = true) : s.noticeAbandon m j c = s.abandonInst j 0x0203 := by
  have below : ¬(c.isLeaf = true ∧ c.fromParent m.h = true) := by
    rintro ⟨leaf, parent⟩
    simp [leaf, parent] at other
  exact (if_neg (by rw [named]; decide)).trans ((if_neg below).trans (if_pos contributor))

/-- Settles O21: each notice that its job accepts has its effect. -/
theorem noticesComplete : Obligations.NoticesComplete := by
  refine ⟨fun s t a m j at_ c row came planned leaf group member named onTime => ?grant,
    fun s t a m j c came leaf parent runs new idle => ?open_, fun s t a m j c came waits named onTime contributor => ?ready,
    fun s t a m j c came leaf named parent => ?sealed, fun s t a m j c came named =>
      ⟨fun leaf parent => ?parent, fun other contributor => ?child⟩⟩
  case grant =>
    refine (onRx_delivers came fun t m => t.parentGrant m).trans ?_
    rw [State.parentGrant_holds planned leaf group member named onTime]
    rfl
  case open_ =>
    refine (onRx_delivers came fun t m => t.noticeOpen m).trans ?_
    rw [State.noticeOpen_opens leaf parent runs new idle]
  case ready =>
    refine (onRx_delivers came fun t m => t.noticeReady m).trans ?_
    rw [State.noticeReady_counts waits named onTime contributor]
  case sealed =>
    refine (onRx_delivers came fun t m => t.noticeSeal m).trans ?_
    rw [State.noticeSeal, if_pos ⟨leaf, named, parent⟩]
  case parent =>
    refine (onRx_delivers came fun t m => t.noticeAbandon m).trans ?_
    rw [State.noticeAbandon_parent named leaf parent]
  case child =>
    refine (onRx_delivers came fun t m => t.noticeAbandon m).trans ?_
    rw [State.noticeAbandon_child named other contributor]

/-! ### Comet (R113 to R115) -/

/-- A COMET_C that passes R113 at its unfenced region is added. -/
theorem State.cometMsg_adds (slot : s.slotOf m.h.job = some j) (cfg : (s.job j).cfg = some c) (free : s.isFenced c.cmtRegion = false)
    (came : arrives s m c.cmtRegion) (passes : s.cometCheck m.h j c = none) :
    s.cometMsg m = s.cometAdd m j c ((c.group m.h.group).getD noGroup) := by
  have region : s.cometRegion j = c.cmtRegion := by simp only [State.cometRegion, cfg]
  simp only [State.cometMsg, slot, region, State.forUnit_good free came, cfg, passes]

/-- A round whose timeout has run out is late. -/
theorem State.cometLate_owner {r i : Nat} (opened : (s.cometSlot r i).isOpen = true) (free : s.isFenced r = false)
    (owner : s.cometOwner r i = some (j, c)) (late : c.cmtTmo ≤ (s.cometSlot r i).marks) : s.cometLate r i = some (j, c) := by
  simp only [State.cometLate, opened, free, owner]
  exact if_pos late

/-- Settles O22: the message passes its checks, and the round is late. -/
theorem cometComplete : Obligations.CometComplete := by
  refine ⟨fun s t a m j c got slot cfg free came passes => ?_, fun s r i j c opened free owner late => ?_⟩
  · refine (onRx_got got _).trans ?_
    rw [State.cometMsg_adds slot cfg free came passes]
    rfl
  · exact actWith_some (State.cometLate_owner opened free owner late) s _

/-! ### Chunks (R53, R70 to R72, R99) -/

/-- The first of a list that gives something, behind some that give nothing. -/
theorem findSome_after {α β : Type} {f : α → Option β} {before after : List α} {x : α} {y : β} (none : ∀ i ∈ before, f i = none)
    (found : f x = some y) : (before ++ x :: after).findSome? f = some y := by
  rw [List.findSome?_append, List.findSome?_eq_none_iff.mpr none, Option.none_or, List.findSome?_cons, found]

/-- A chunk of what the job has open that pacing and backlog allow is releasable. -/
theorem State.releasable_of {r at_ : Nat} {k : Chunk} {row : PlanRow} (cfg : (s.job j).cfg = some c) (runs : (s.job j).st = .running)
    (opened : (s.job j).isOpen = true) (free : s.isFenced r = false)
    (next : (s.red.chunks.find? fun k => k.ofInst j (s.job j).inst.step (s.job j).inst.attempt && k.region == r && s.grantsDue c k) = some k)
    (allowed : k.released = true ∨ (c.paceRate = 0 ∨ 65536 ≤ s.red.pace.look 0 (r * 1024 + j)) ∧
      (c.paceBacklog = 0 ∨ (s.red.cellQ.look [] (r * 16 + k.cell)).length < c.paceBacklog * 16384))
    (planned : c.rowOf k.index = some (at_, row)) : s.releasable r j = some (c, k, row) := by
  have live : ¬((s.job j).st ≠ .running ∨ (!(s.job j).isOpen) = true ∨ s.isFenced r = true) := by simp [runs, opened, free]
  simp only [State.releasable, cfg, if_neg live, next]
  rw [if_pos (by simpa using allowed), planned]
  rfl

/-- Settles O23: each row finds its chunk, its grants or its addend. -/
theorem chunksComplete : Obligations.ChunksComplete := by
  refine ⟨fun s t r j before after free slots none admits => ?_,
    fun s r j c k row at_ cfg runs opened free next allowed planned => ?_, fun s r x l a rest free taken => ?_⟩
  · refine actWith_some (v := t) ?_ s _
    rw [State.admitNext, if_neg (by rw [free]; decide), slots]
    exact findSome_after none admits
  · exact actWith_some (State.releasable_of cfg runs opened free next allowed planned) s _
  · exact actWith_some ((if_neg (by rw [free]; decide)).trans taken) s _

/-! ### Lanes (R53, R58, R64, R65) -/

/-- An entry that reads good is taken as it stands. -/
theorem State.addOne_good {k : Chunk} {a : Addend} (good : (k.entry a.elem).err = 0) :
    s.addOne k c a =
      if (k.entry a.elem).jobSlot ≠ a.tagSlot ∨ (k.entry a.elem).chunkSeq ≠ a.tagSeq then
        s.chunkFault (k.putEntry a.elem (k.entry a.elem)) 2 0x0206 0
      else if !(k.entry a.elem).residueOk then
        s.chunkFault (k.putEntry a.elem { k.entry a.elem with residueErr := true }) 0 0x0204 (k.entry a.elem).residueSyn
      else
        (s.putChunk (k.putEntry a.elem (accumulate (k.entry a.elem) (addendOf c.cgrp a.code)))).tryFinish
          (k.putEntry a.elem (accumulate (k.entry a.elem) (addendOf c.cgrp a.code))) := by
  unfold State.addOne
  generalize k.entry a.elem = e at good ⊢
  obtain ⟨⟩ := e
  simp only at good
  subst good
  rfl

/-- Settles O24: the tests of a lane in their order. -/
theorem laneAdds : Obligations.LaneAdds := by
  intro s k c a e good
  refine ⟨fun slot seq residue => ?_, fun tag => ?_, fun slot seq residue => ?_⟩
  all_goals rw [State.addOne_good good]
  · rw [if_neg (by simpa using ⟨slot, seq⟩), if_neg (by rw [show (k.entry a.elem).residueOk = true from residue]; decide)]
  · rw [if_pos tag]
  · rw [if_neg (by simpa using ⟨slot, seq⟩), if_pos (by rw [show (k.entry a.elem).residueOk = false from residue]; rfl)]

/-! ### Jobs (R23, R90, R93) -/

/-- Settles O25: each row acts under its conditions. -/
theorem jobTransitionsComplete : Obligations.JobTransitionsComplete := by
  refine ⟨fun s j opened due clear => ?_, fun s j c armed due cfg => ?_, fun s j c drained => actWith_some drained s _⟩
  · exact actIf_due (by simp [State.deadlineDue, opened, due, clear]) s _
  · exact actWith_some (by simp [State.startDue, armed, due, cfg]) s _

end Sys2Proof.Machine
end

section
/-!
Window messages and parameter slices (O26, O27).
-/

namespace Sys2Proof.Machine
open Sys2Proof.Safety
variable {s t u : State} {j : Nat} {c : JobCfg}

/-! ### Window messages (R147 to R149) -/

/-- A window message that passes R147 at its unfenced engine is accepted. -/
theorem State.winRequest_accepts {m : Msg} {w : Window} (slot : s.slotOf m.h.job = some j)
    (win : (s.cfgNow j).window (winSpace m.h) = some w) (free : s.isFenced (engineOf w m.port) = false)
    (came : arrives s m (engineOf w m.port)) (ready : s.memReady = true)
    (passes : (s.cfgNow j).winCheck (s.job j).st m.h m.payload = 0) :
    s.winRequest m = s.winAccept (engineOf w m.port) j (s.cfgNow j) w m := by
  simp only [State.winRequest, slot, win, State.forUnit_good free came, ready, passes]
  rfl

/-- The next piece of a read whose window is ready. -/
theorem State.winNext_piece {r : Nat} {q : WinReq} {w : Window} (head : s.winReadHead r = some q)
    (win : (s.cfgNow q.slot).window q.window = some w) (unfenced : s.winFenced w = false) (ready : s.winReady w = true)
    (free : s.isFenced r = false) : s.winNext r = s.winPiece r (s.cfgNow q.slot) w q := by
  simp only [State.winNext, head, win, unfenced, ready, free]
  rfl

/-- The acknowledgement of a write at the head of its engine's queue, once its words are written. -/
theorem State.winAckNext_head {r : Nat} {q : WinReq} {rest : List WinReq} {w : Window} (free : s.isFenced r = false)
    (queue : s.winq.look [] r = q :: rest) (win : (s.cfgNow q.slot).window q.window = some w) (write : q.isWrite = true)
    (written : s.rangeWritten w q.offset q.len = true) :
    s.winAckNext r = some ((s.winUpdate r q none).build
      { region := r, slot := some q.slot, payload := [], targets := q.targets,
        hdr := winReplyHdr (s.cfgNow q.slot).id q.group q.member q.window q.tag.toNat q.offset 0 flSeal 0 }) := by
  simp [State.winAckNext, free, queue, win, write, written]

/-- Settles O26: each request passes its checks, and each engine finds its next piece or acknowledgement. -/
theorem windowMessagesComplete : Obligations.WindowMessagesComplete := by
  refine ⟨fun s t a m j w wr got slot win free came ready passes => ?_, fun s u r q w head win unfenced ready free piece => ?_,
    fun s r q w rest free queue win write written => ?_⟩
  · rw [← State.winRequest_accepts slot win free came ready passes]
    cases wr with
    | true => exact onRx_got got State.winRequest
    | false => exact onRx_got got State.winRequest
  · exact actWith_some ((State.winNext_piece head win unfenced ready free).trans piece) s id
  · exact actWith_some (State.winAckNext_head free queue win write written) s id

/-! ### Slices (R130 to R140) -/

section
variable {i : Nat} {x : SliceCfg} (owner : s.sliceOwner i = some (j, c, x))
include owner

/-- The next OPEN of a slice that has room for it. -/
theorem State.openReady_next {p : Word × Byte × OpenStatus} {rest : List (Word × Byte × OpenStatus)}
    (pending : (s.feed i).pendingOpen = p :: rest) (idle : (s.feed i).opened = none) (room : s.feedRoom x = true)
    (unheld : s.openHeld j c x = false) : s.openReady i = some (j, c, x, p) := by
  simp [State.openReady, owner, pending, idle, room, unheld]

section
variable {inst : Word × Byte} {w : Window} (opened : (s.feed i).opened = some inst) (win : c.window x.win = some w)
include opened win

/-- A finished chunk of what the feed has opened that its unit's buffer can take. -/
theorem State.deliverable_chunk {ch : Nat} {k : Chunk} (first : x.first ≤ ch) (last : ch < x.first + x.nchunk)
    (going : (s.feed i).last = none) (ready : s.winReady w = true) (buffer : (s.feed i).bufferFree x ((ch - x.first) / x.unit) = true)
    (chunk : s.chunkOf j inst.1 inst.2 ch = some k) (waits : k.phase = .waitingFeed) : s.deliverable i ch = some (c, x, w, k) := by
  have taken : ¬(ch < x.first ∨ x.first + x.nchunk ≤ ch ∨ (s.feed i).last.isSome = true ∨ (!s.winReady w) = true ∨
      (!(s.feed i).bufferFree x ((ch - x.first) / x.unit)) = true) := by
    rintro (low | high | ended | busy | full)
    · omega
    · omega
    · rw [going] at ended
      exact absurd ended (by decide)
    · rw [ready] at busy
      exact absurd busy (by decide)
    · rw [buffer] at full
      exact absurd full (by decide)
  simp only [State.deliverable, owner, opened, win, if_neg taken, chunk]
  simp [waits]

/-- A commit whose request, seal and stores are done. -/
theorem State.commitReady_of (request : (s.feed i).request = true) (closed : (s.feed i).sealed = true) (going : (s.feed i).last = none)
    (stores : s.storesDone x = true) (ready : s.winReady w = true) : s.commitReady i = some (j, c, x, w, inst) := by
  simp [State.commitReady, owner, opened, win, request, closed, going, stores, ready]

end

/-- The next PARAM of a distribution whose queue holds its bytes and whose cells are claimed. -/
theorem State.paramNext_sends {d : Dist} {rest : List Dist} (dists : (s.feed i).dists = d :: rest)
    (held : storedSize (c.distFmt x) (min (paramCount (c.distFmt x)) (x.n c.len - d.sent)) ≤ ((s.cpb x.block).queue x.distq).avail)
    (claimed : s.claimBuild
      { region := x.region, slot := some j, hdr := paramHdr c x d (min (paramCount (c.distFmt x)) (x.n c.len - d.sent)),
        payload := ((s.cpb x.block).queue x.distq).peek (storedSize (c.distFmt x) (min (paramCount (c.distFmt x)) (x.n c.len - d.sent))),
        targets := ((c.group x.dgroup).getD noGroup).members.map Member.target } = some u) :
    s.paramNext i = some ((u.modCpb x.block fun k => k.modQueue x.distq fun q =>
        (q.take (storedSize (c.distFmt x) (min (paramCount (c.distFmt x)) (x.n c.len - d.sent)))).2).modFeed i fun f =>
      { f with dists := if d.sent + min (paramCount (c.distFmt x)) (x.n c.len - d.sent) < x.n c.len
          then { d with sent := d.sent + min (paramCount (c.distFmt x)) (x.n c.len - d.sent) } :: rest else rest }) := by
  simp only [State.paramNext, owner, dists, if_neg (Nat.not_lt.mpr held), claimed, Option.map_some]

end

/-- Settles O27: each row of a slice finds what is ready. -/
theorem slicesComplete : Obligations.SlicesComplete := by
  refine ⟨fun s i j c x p rest owner pending idle room unheld => ?open_,
    fun s i ch j c x w k inst owner opened win first last going ready buffer chunk waits => ?deliver,
    fun s i j c x w inst owner opened win request closed going stores ready => ?commit, fun s u i j c x d rest => ?param⟩
  case open_ => exact actWith_some (State.openReady_next owner pending idle room unheld) s _
  case deliver => exact actWith_some (State.deliverable_chunk owner opened win first last going ready buffer chunk waits) s _
  case commit => exact actWith_some (State.commitReady_of owner opened win request closed going stores ready) s _
  case param =>
    intro n size q owner dists held good claimed
    have clean : cleanQueues (s.cpb x.block) [x.distq] := fun k hk => by rw [List.mem_singleton.mp hk]; exact good
    refine (actWith_some (State.paramNext_sends owner dists held claimed) s _).trans ?_
    simp only [owner, State.readingQueues_clean clean]
    rfl

end Sys2Proof.Machine
end

section
/-!
Frames, telemetry and the orbit (O28, O29, O31, O32).
-/

namespace Sys2Proof.Machine
variable {s t : State}

/-! ### Frames (R211 to R237) -/

/-- A control frame that is a row's own has its effect. -/
theorem onControl_own {a : Arrival} {mine : Bool} (came : s.arrive a = .control) (own : mine = true) (u : State) :
    onControl s a mine u = .next u.finish := by
  simp only [onControl, came, own]
  rfl

/-- Settles O28: a frame has one route, and a control frame one reader. -/
theorem framesComplete : Obligations.FramesComplete := by
  refine ⟨fun s t a f tc vc b came => ⟨fun route => ?forward, fun route => ?maintenance, fun route => ?nobody⟩,
    fun s a came kind role => onControl_own came (by simp [kind, role]) _,
    fun s a came kind low high => onControl_own came (by simp [kind, low, high]) _⟩
  case forward =>
    simp only [exec, execFrameForward, came, route]
    rfl
  case maintenance =>
    simp only [exec, execMaintenanceFrame, came, route]
    rfl
  case nobody =>
    simp only [exec, execTerminatedFrameDrop, came, route]
    rfl

/-- A free port that nothing holds. -/
theorem State.portFree_of {p : Nat} (running : s.portUp p = true) (idle : (s.port p).sending = none) (loud : (s.port p).txQuiet = false)
    (unheld : (s.port p).txHoldUntil ≤ s.now) (uncal : s.calHolds p = false) (live : s.quiesced (pgFab (p / 8)) = false) :
    s.portFree p = true := by
  simp [State.portFree, running, idle, loud, unheld, uncal, live]

/-- Settles O29: each row finds its build, its port or its time. -/
theorem sendingComplete : Obligations.SendingComplete := by
  refine ⟨fun s t r before after b heads none built => ?build,
    fun s p running idle loud unheld uncal live => actIf_due (State.portFree_of running idle loud unheld uncal live) s _,
    fun s p d k under => actWith_some under s _, fun s late => actIf_due (decide_eq_true late) s _,
    fun s p running stops => actIf_due (by simp [running, stops]) s _, fun s x ended => actIf_due ended s _⟩
  case build =>
    have next : s.buildNext r = some t := by rw [State.buildNext, heads, findSome_after none built]
    exact actWith_some next s _

/-! ### Telemetry, BEACON and DISCOVER (R240, R241, R250, R275, R444) -/

/-- Settles O31: each row acts when it is due or its message arrives. -/
theorem telemetryAndModulesComplete : Obligations.TelemetryAndModulesComplete := by
  refine ⟨fun s r due => actIf_due due s _, fun s r due => actIf_due due s _, fun s a l due => ?strobe,
    fun s t a m got => onRx_got got State.takeBeacon, fun s t a m got => onRx_got got State.takeDiscover,
    fun s due st => actIf_due (by simp [due, st]) s _, fun s p running due => actIf_due (by simp [State.discoverDue, running, due]) s _⟩
  case strobe =>
    have next : s.orb.strobeDue.head? = some a := by rw [due, List.head?_cons]
    exact actWith_some next s _

/-! ### The orbit and the wall clock (R246 to R257, R279) -/

/-- The probe under way of a port is answered by the ECHO of its index. -/
theorem State.roundTrip_sent {p : Nat} {j : BitVec 16} {t : Nat} (beacon : s.beaconPort p = true)
    (sent : (s.orb.probes.look {} p).sent = some (j, t)) : s.roundTrip p j = some (s.now - t) := by
  simp only [State.roundTrip, sent, beacon, and_self, if_true]

/-- A host frame in a good buffer word is taken as it is. -/
theorem State.hostTake_clean {p : Nat} (clean : (s.hostPort p).rxErr = 0) (f : State → State) : s.hostTake p f = f s := by
  simp only [State.hostTake, clean]

/-- Settles O32: each row acts in its state; the servo's clauses are its step for SYNC and DELAY_RESP. -/
theorem orbitComplete : Obligations.OrbitComplete := by
  refine ⟨fun s e awake => ⟨fun has => actIf_due (by simp [awake, has]) s _, fun has => actIf_due (by simp [awake, has]) s _,
      fun has => actIf_due (by simp [awake, has]) s _⟩,
    fun s p j d beacon unheld => actIf_due (by simp [State.beaconFree, beacon, unheld]) s _,
    fun s p free due => actIf_due (by rw [free, due]; rfl) s _,
    fun s p j d t beacon sent => actWith_some (State.roundTrip_sent beacon sent) s _,
    fun s awake due => actIf_due (by simp [awake, due]) s _, fun s due => actIf_due due s _,
    fun s h x on net version domain clean => ?ptp, fun _ _ _ _ _ => rfl, fun s h v d t1 t4 t2 t3 sync => ?servo,
    fun s on st => actIf_due (by simp [on, st]) s _⟩
  case ptp =>
    rw [← State.hostTake_clean clean (·.takePtp h x)]
    exact actIf_due (by simp [State.ptpFor, on, net, version, domain]) s _
  case servo =>
    constructor
    · simp only [State.takePtp, sync]
      rfl
    · simp only [State.takePtp, sync]

end Sys2Proof.Machine
end

section
/-!
Gates, links and host ports (O33 to O35).
-/

namespace Sys2Proof.Machine
variable {s t : State}

/-! ### The gate of a port with a job's frame on the wire (R267) -/

/-- A frame of job 0 is on the wire of port 0 in class 2, which has closed once since the gate's last pass, and event 5 of
the orbit block is mapped to `contained`. -/
def jobFrameOverrun : State where
  ports := [(0, { sending := some ({ buf := 0 }, 4) })]
  sw := { bufs := [(0, some { bytes := [], tc := 0, region := 0, job := some 0 })] }
  gates := [(0, { passFrom := some 0xFFFFFFFF, entries := [⟨0, 0xFB, 0, 0⟩, ⟨0x8000, 0xFF, 0, 0⟩] })]
  regs := (({} : State).setReg pgOrb Off.BLK_FAULT_MAP (1 <<< 10)).regs

/-- The class has closed once since the last pass. -/
theorem jobFrameOverrun_closes : jobFrameOverrun.closingsSince 0 (4 / 2) 0xFFFFFFFF = 1 := by decide +kernel

/-- The overrun names the job of the frame, which fails. -/
theorem jobFrameOverrun_gatePass_todo : (jobFrameOverrun.gatePass 0).todo = [.failJob 0 0x030A] := by decide +kernel

/-- An overrun that names no job would fail none. -/
theorem jobFrameOverrun_raise_todo :
    (((jobFrameOverrun.modGate 0 fun g => { g with openMask := g.openAt jobFrameOverrun.angle, passFrom := none }).bump pgOrb
      Off.ORB_GPORT_OVERRUN 0).raise { pg := pgOrb, ev := 5 }).todo = [] := by decide +kernel

/-- Refutes O33: its clause on an overrun raises the event without the job of the frame on the wire. Where the event is
mapped to `contained`, the model fails that job (R391), and the clause's state fails none. -/
theorem not_gatesAndCalibrationComplete : ¬ Obligations.GatesAndCalibrationComplete := by
  rintro ⟨-, -, -, overrun, -⟩
  have pass := overrun jobFrameOverrun 0 4 { buf := 0 } 0xFFFFFFFF rfl rfl jobFrameOverrun_closes
  have same := congrArg State.todo pass
  rw [jobFrameOverrun_gatePass_todo, jobFrameOverrun_raise_todo] at same
  exact absurd same (List.cons_ne_nil _ _)

/-! ### Links (R280 to R299) -/

section
variable {p : Nat}

/-- The state of a port has lasted its limit. -/
theorem State.limitOver_of {n : Nat} (limit : (s.port p).st.limit = some n)
    (uncal : (s.port p).st = .align → (s.calWin p).isOpen = false ∧ (s.calWin p).exitPending = false)
    (first : (s.port p).retryAt = none) (lasted : (s.port p).entered + n ≤ s.now) : s.limitOver p = true := by
  simp only [State.limitOver, first, limit, decide_eq_true lasted, Option.isNone_none, Bool.and_true, Bool.not_eq_true']
  by_cases align : (s.port p).st = .align
  · obtain ⟨closed, over_⟩ := uncal align
    rw [closed, over_, Bool.or_self, Bool.and_false]
  · rw [beq_false_of_ne align, Bool.false_and]

/-- A retry that is due at an enabled port of an unfenced region. -/
theorem State.retryOver_of {t : Nat} (set : (s.port p).retryAt = some t) (due : t ≤ s.now) (on : s.portEnabled p = true)
    (free : s.isFenced (portRegion p) = false) : s.retryOver p = true := by
  simp [State.retryOver, set, due, on, free]

/-- A symbol error rate above the threshold, and any other cause, is one of a link fault. -/
theorem State.faultCause_of {c : LinkFaultCause} (above : ∀ n, c = .hiSer n → s.rfld (pgFab (p / 8)) Off.FAB_HISER 0 16 < n) :
    s.faultCause p c = true := by
  cases c with
  | hiSer n => exact decide_eq_true (above n rfl)
  | _ => rfl

end

/-- Settles O34: each row acts in the port's state. -/
theorem linksComplete : Obligations.LinksComplete := by
  refine ⟨fun s l w fom trains => ?word, fun s l w fom settled asks => ?renegotiate,
    fun s p foms st off first => actIf_due (by simp [st, off, first]) s _, fun s p st free => actIf_due (by simp [st, free]) s _,
    fun s p n limit uncal first lasted => actIf_due (State.limitOver_of limit uncal first lasted) s _,
    fun s p t set due on free => actIf_due (State.retryOver_of set due on free) s _,
    fun s p c up above => actIf_due (by rw [up, State.faultCause_of above]; rfl) s _,
    fun s l fom up awake => actIf_due (by simp [up, awake]) s _,
    fun s p up => ⟨fun awake => actIf_due (by simp [up, awake]) s _,
      fun asleep => ⟨actIf_due (by simp [up, asleep]) s _, actIf_due (by simp [up, asleep]) s _⟩⟩,
    fun s p due => actIf_due due s _, fun s p c asleep cause => actIf_due (by simp [asleep, cause]) s _⟩
  case word => exact if_pos trains
  case renegotiate =>
    have done : s.training l.val = false := settled
    simp only [exec, execStatusWord, done]
    exact actIf_due asks s _

/-! ### Host ports (R286, R303, R445) -/

/-- A frame of a host port in UP with a good buffer word. -/
theorem actIf_hostTake {p : Nat} (up : (s.hostPort p).state = 3) (clean : (s.hostPort p).rxErr = 0) (f : State → State) :
    actIf ((s.hostPort p).state == 3) s (s.hostTake p f) = .next (f s).finish := by
  rw [State.hostTake_clean clean]
  exact actIf_due (by simp [up]) s _

/-- A link that went down a second ago starts again. -/
theorem State.restartDue_of {p t : Nat} (down : (s.hostPort p).downAt = some t) (due : t + 10 ^ 9 ≤ s.now)
    (st : (s.hostPort p).state = 0) : s.restartDue p = true := by
  simp only [State.restartDue, down, decide_eq_true due, st]
  rfl

/-- Settles O35: each row acts in the port's state. -/
theorem hostPortsComplete : Obligations.HostPortsComplete := by
  refine ⟨fun s h up clean => ⟨fun f own => ?answer, fun f foreign => ?drop, fun q some => ?pause, actIf_hostTake up clean _,
      actIf_due (by simp [up]) s _⟩,
    fun s h st => actIf_due (by simpa using st) s _, fun s h t down due st => actIf_due (State.restartDue_of down due st) s _,
    fun s h due => actIf_due due s _⟩
  case answer =>
    refine (actIf_hostTake up clean _).trans ?_
    rw [State.hostFrame, if_pos own]
  case drop =>
    refine (actIf_hostTake up clean _).trans ?_
    rw [State.hostFrame, if_neg (Bool.eq_false_iff.mp foreign)]
  case pause =>
    refine (actIf_hostTake up clean _).trans ?_
    rw [State.hostPause, if_neg some]

end Sys2Proof.Machine
end

section
/-!
Control and scalar instructions (O36, O37).
-/

namespace Sys2Proof.Machine
open Sys2Proof.Safety
variable {s : State} {b : Cpb} {i : StreamIx} {o : Opc} {t : Thread} {f : Thread → Issued}

/-! ### Issue (R152) -/

/-- An issued instruction with which its stream goes on. -/
theorem issue_go {u : State} {g : Stream → Stream} (issued : issues s b i o t) (effect : f t = .go u g) :
    issue b i o s f = .next (goesOn u t g).finish := by
  rw [issue_issues issued, effect, State.issued_go]
  rfl

/-- An issued instruction with which its stream goes on where nothing is raised. -/
theorem issue_go_settled {u : State} {g : Stream → Stream} (issued : issues s b i o t) (effect : f t = .go u g) (quiet : settled u) :
    issue b i o s f = .next (goesOn u t g) := by
  rw [issue_go issued effect, State.finish_settled (goesOn u t g) quiet]

/-- An issued instruction that changes its block where nothing is raised. -/
theorem issue_goCpb {u : State} {g : CpbSt → CpbSt} (issued : issues s b i o t) (effect : f t = goCpb u t g) (quiet : settled u) :
    issue b i o s f = .next (goesOnWith u t g) := issue_go_settled issued effect quiet

/-! ### Control (R166 to R170) -/

/-- A jump in scope. -/
theorem State.jumpTo_inScope {k : Nat} (inScope : s.inScope t k = true) : s.jumpTo t k = .go s (Stream.jump k) := if_pos inScope

section
variable (last_after : t.st.pc < iw t.w 0 15)
include last_after

/-- LOOP enters its body for a count, with room for one loop more. -/
theorem loopIssue_enters (counts : bits ((s.cpb t.b).sreg (iw t.w 42 5)).toNat 0 32 ≠ 0) (room : t.st.loops.length < 4) :
    loopIssue s t = .go s fun x =>
      { x with
        loops := ⟨x.pc + 1, iw t.w 0 15, bits ((s.cpb t.b).sreg (iw t.w 42 5)).toNat 0 32, 0⟩ :: x.loops
        pc := x.pc + 1 } := by
  rw [loopIssue, if_neg (by omega), if_neg counts, if_neg (by omega)]

/-- LOOP skips its body for a count of 0. -/
theorem loopIssue_skips (zero : bits ((s.cpb t.b).sreg (iw t.w 42 5)).toNat 0 32 = 0) :
    loopIssue s t = .go s (Stream.after (iw t.w 0 15)) := by
  rw [loopIssue, if_neg (by omega), if_pos zero]

end

/-- Settles O36: each instruction has its effect, and its stream goes on. -/
theorem controlInstructions : Obligations.ControlInstructions := by
  intro s b i t c f last count
  refine ⟨fun h => issue_go h rfl, fun quiet => ⟨fun h => ?nop, fun h inScope => issue_go_settled h (State.jumpTo_inScope inScope) quiet,
    fun h holds inScope => issue_go_settled h ((if_pos holds).trans (State.jumpTo_inScope inScope)) quiet,
    fun h fails => issue_go_settled h (if_neg (Bool.eq_false_iff.mp fails)) quiet,
    fun h later some room => issue_go_settled h (loopIssue_enters later some room) quiet,
    fun h later none => issue_go_settled h (loopIssue_skips later none) quiet,
    fun h => issue_goCpb h rfl quiet, fun h => issue_goCpb h rfl quiet, fun h raised => issue_goCpb h (if_pos raised) quiet,
    fun h still => issue_go_settled h ?fence quiet, fun h => issue_go_settled h rfl quiet⟩⟩
  case nop =>
    obtain ⟨runs, opcode, -, -⟩ := id h
    simp only [exec, execNop, runs, opcode]
    exact issue_go_settled h rfl quiet
  case fence =>
    have none : ((s.cpb t.b).transfersOf t.i).isEmpty = true := by rw [show (s.cpb t.b).transfersOf t.i = [] from still]; rfl
    exact if_pos none

/-! ### Scalars and queues (R157, R166, R168) -/

/-- A reader of one queue without errors goes on. -/
theorem takes_clean {q : Nat} {u : State} {g : Stream → Stream} (clean : ((s.cpb t.b).queue q).err = 0) :
    takes s t q (.go u g) = .go u g := by
  have good : cleanQueues (s.cpb t.b) [q] := fun k hk => by rw [List.mem_singleton.mp hk]; exact clean
  simp only [takes, clean, State.readingQueues_clean good]
  rfl

/-- LIDX of an active loop. -/
theorem lidxIssue_some {l : LoopFrame} (active : t.st.loops[iw t.w 32 2]? = some l) :
    lidxIssue s t = goCpb s t fun c => c.setSreg (iw t.w 53 5) (BitVec.ofNat 64 l.iter) := by
  simp only [lidxIssue, active]

/-- LIDX of a loop that is not active takes a free value. -/
theorem lidxIssue_none (inactive : t.st.loops[iw t.w 32 2]? = none) :
    lidxIssue s t = goCpb { s with free := s.free + 1 } t fun c => c.setSreg (iw t.w 53 5) (BitVec.ofNat 64 (Config.freeNat s.free)) := by
  simp only [lidxIssue, inactive, State.fresh]

section
variable {e : List Byte} {rest : List (List Byte)} (head : ((s.cpb t.b).queue (iw t.w 34 4)).entries = e :: rest)
  (turn : (s.cpb t.b).inOrder (s.cpb t.b).issued [iw t.w 34 4] [] = true) (clean : ((s.cpb t.b).queue (iw t.w 34 4)).err = 0)
include head turn clean

/-- QRD of eight bytes of the head entry. -/
theorem qrdIssue_within (within : 8 * iw t.w 0 7 + 8 ≤ e.length) :
    qrdIssue s t = goCpb s t fun c => c.setSreg (iw t.w 53 5) (BitVec.ofNat 64 (leAt e (8 * iw t.w 0 7) 8)) := by
  simp only [qrdIssue, head, turn, if_pos within]
  exact takes_clean clean

/-- QRD behind the end of a short head entry takes free bytes. -/
theorem qrdIssue_behind (behind : e.length < 8 * iw t.w 0 7 + 8) :
    qrdIssue s t = goCpb { s with free := s.free + 1 } t fun c => c.setSreg (iw t.w 53 5)
      (BitVec.ofNat 64 (leNat ((slice e (8 * iw t.w 0 7) 8 ++ leBytes 8 (Config.freeNat s.free)).take 8))) := by
  simp only [qrdIssue, head, turn, if_neg (Nat.not_le.mpr behind)]
  exact takes_clean clean

/-- QPOP of the head entry. -/
theorem qpopIssue_head : qpopIssue s t =
    .go ((s.modCpb t.b fun c => c.modQueue (iw t.w 34 4) fun x => { x with entries := rest, cursor := 0 }).popped t.b (iw t.w 34 4) [e])
      Stream.next := by
  simp only [qpopIssue, head, turn]
  exact takes_clean clean

end

section
variable (turn : (s.cpb t.b).inOrder (s.cpb t.b).issued [] [iw t.w 34 4] = true)
include turn

/-- QCLOSE of a queue with no open tail. -/
theorem qcloseIssue_empty (closed : ((s.cpb t.b).queue (iw t.w 34 4)).tail = []) : qcloseIssue s t = .go s Stream.next := by
  simp only [qcloseIssue, turn, closed]
  rfl

/-- QCLOSE pushes the open tail where the queue has room. -/
theorem qcloseIssue_pushes (tail : ((s.cpb t.b).queue (iw t.w 34 4)).tail ≠ []) (room : ((s.cpb t.b).queue (iw t.w 34 4)).room ≠ 0) :
    qcloseIssue s t = goCpb s t fun c => c.modQueue (iw t.w 34 4) fun x => { x with entries := x.entries ++ [x.tail], tail := [] } := by
  have held : ((s.cpb t.b).queue (iw t.w 34 4)).tail.isEmpty = false := List.isEmpty_eq_false_iff.mpr tail
  simp only [qcloseIssue, turn, held, if_neg room]
  rfl

end

/-- Settles O37: each instruction has its effect, and its stream goes on. -/
theorem scalarInstructions : Obligations.ScalarInstructions := by
  intro s b i t c q rd off quiet
  refine ⟨fun h => issue_goCpb h rfl quiet, fun h => issue_goCpb h rfl quiet,
    fun h => ⟨fun l active => issue_goCpb h (lidxIssue_some active) quiet, fun inactive => issue_goCpb h (lidxIssue_none inactive) quiet⟩,
    fun e rest head turn clean => ⟨fun h within => issue_goCpb h (qrdIssue_within head turn clean within) quiet,
      fun h behind => issue_goCpb h (qrdIssue_behind head turn clean behind) quiet,
      fun h => issue_go h (qpopIssue_head head turn clean)⟩,
    fun h turn => ⟨fun closed => issue_go_settled h (qcloseIssue_empty turn closed) quiet,
      fun tail room => issue_goCpb h (qcloseIssue_pushes turn tail room) quiet⟩⟩

end Sys2Proof.Machine
end

section
/-!
Generators, long instructions, instruction words and units (O39 to O42).
-/

namespace Sys2Proof.Machine
open Sys2Proof.Safety
variable {s u : State} {t : Thread}

/-! ### Address generators (R160 to R163) -/

section
variable (idle : ((s.cpb t.b).ag (iw t.w 55 3)).cur = none)
include idle

/-- A transfer of no granules does nothing. -/
theorem transferIssue_zero (load : Bool)
    (zero : (if ib t.w 43 then bits ((s.cpb t.b).sreg (iw t.w 38 5)).toNat 0 32 else iw t.w 0 20) = 0) :
    transferIssue load s t = .go s Stream.next := by
  simp only [transferIssue, idle, if_pos zero]
  rfl

/-- A transfer is handed to its generator's engine. -/
theorem transferIssue_some (load : Bool)
    (counts : (if ib t.w 43 then bits ((s.cpb t.b).sreg (iw t.w 38 5)).toNat 0 32 else iw t.w 0 20) ≠ 0) :
    transferIssue load s t = goCpb s t fun c =>
      let x : Transfer :=
        { isLoad := load, queue := iw t.w 44 4, stream := t.i, pc := t.st.pc, id := c.issued
          left := if ib t.w 43 then bits ((s.cpb t.b).sreg (iw t.w 38 5)).toNat 0 32 else iw t.w 0 20 }
      { c.modAg (iw t.w 55 3) (fun g => { g with cur := some x }) with issued := c.issued + 1 } := by
  simp only [transferIssue, idle, if_neg counts]
  rfl

end

/-- SLD of a ready access that passes its checks. -/
theorem sldIssue_loads {d : List Byte} (passes : (t.access (s.cpb t.b) (iw t.w 35 3) 8 8 false).check = none)
    (ready : s.accessReady (t.access (s.cpb t.b) (iw t.w 35 3) 8 8 false) = true)
    (loads : s.loadFor (t.access (s.cpb t.b) (iw t.w 35 3) 8 8 false) = (.ok d, u)) :
    sldIssue s t = goCpb u t fun c => c.setSreg (iw t.w 53 5) (BitVec.ofNat 64 (leNat d)) := by
  simp only [sldIssue, passes, ready, loads]
  rfl

/-- SST16 of a ready access that passes its checks. -/
theorem sst16Issue_stores (passes : (t.access (s.cpb t.b) (iw t.w 35 3) 16 16 true).check = none)
    (ready : s.accessReady (t.access (s.cpb t.b) (iw t.w 35 3) 16 16 true) = true)
    (stores : s.storeChecked (t.access (s.cpb t.b) (iw t.w 35 3) 16 16 true)
      (leBytes 8 ((s.cpb t.b).sreg (iw t.w 48 5)).toNat ++ leBytes 8 ((s.cpb t.b).sreg (iw t.w 43 5)).toNat) = (none, u)) :
    sst16Issue s t = .go u Stream.next := by
  simp only [sst16Issue, passes, ready, stores]
  rfl

/-- Settles O39: an idle generator takes its setting or its transfer, and a ready access moves its bytes. -/
theorem generatorInstructions : Obligations.GeneratorInstructions := by
  intro s b i t c a n ldx stx quiet
  refine ⟨fun idle => ⟨fun h => issue_goCpb h ?base quiet, fun h => issue_goCpb h ?dim quiet, fun ld h => ?transfer⟩,
    fun d u h passes ready loads => issue_go h (sldIssue_loads passes ready loads),
    fun u h passes ready stores => issue_go h (sst16Issue_stores passes ready stores)⟩
  case base =>
    have free : ((s.cpb t.b).ag (iw t.w 55 3)).cur = none := idle
    simp only [free]
    rfl
  case dim =>
    have free : ((s.cpb t.b).ag (iw t.w 55 3)).cur = none := idle
    simp only [free]
    rfl
  case transfer =>
    cases ld with
    | true => exact ⟨fun zero => issue_go_settled h (transferIssue_zero idle true zero) quiet,
        fun counts => issue_goCpb h (transferIssue_some idle true counts) quiet⟩
    | false => exact ⟨fun zero => issue_go_settled h (transferIssue_zero idle false zero) quiet,
        fun counts => issue_goCpb h (transferIssue_some idle false counts) quiet⟩

/-! ### Long instructions (R152, R155) -/

/-- A vector instruction goes to the vector unit where that holds none of the stream. -/
theorem vecIssue_free (free : t.st.vec = []) :
    vecIssue s t = .go (s.modCpb t.b fun c => { c with issued := c.issued + 1 }) fun x =>
      { Stream.next x with
        vec := [{ word := t.w, stream := t.i, pc := t.st.pc, id := (s.cpb t.b).issued, s1 := (s.cpb t.b).sreg (iw t.w 24 5)
                  s2 := (s.cpb t.b).sreg (iw t.w 19 5), ftz := t.st.ftz }] } := by
  simp only [vecIssue, free]

/-- A matrix instruction joins its accumulator's buffer where that has room. -/
theorem cellIssue_room (room : ((s.cpb t.b).accAt (iwAcc t.w)).buffer.length < 4) (left : Nat) :
    cellIssue s t left = goCpb s t fun c =>
      { c.modAcc (iwAcc t.w) (fun a => { a with buffer := a.buffer ++ [
          { word := t.w, stream := t.i, pc := t.st.pc, id := (s.cpb t.b).issued, s1 := (s.cpb t.b).sreg (iw t.w 24 5)
            s2 := (s.cpb t.b).sreg (iw t.w 19 5), left := left }] }) with issued := c.issued + 1 } := by
  rw [cellIssue, if_neg (Nat.not_le.mpr room)]

/-- Settles O40: a long instruction is handed over, and its stream goes on. -/
theorem longInstructions : Obligations.LongInstructions := by
  intro s b i t c op held quiet
  refine ⟨fun free o x row h => ?vector, fun room => ⟨fun o x row h counts => ?product, fun o x row h => ?cell⟩,
    fun zero => ⟨fun h => issue_go_settled h (if_pos zero) quiet, fun h => issue_go_settled h (if_pos zero) quiet⟩⟩
  case vector =>
    have effect := issue_go_settled h (vecIssue_free free) quiet
    simp only [List.mem_cons, List.not_mem_nil, or_false, Prod.mk.injEq] at row
    obtain ⟨rfl, rfl⟩ | ⟨rfl, rfl⟩ | ⟨rfl, rfl⟩ | ⟨rfl, rfl⟩ | ⟨rfl, rfl⟩ := row
    all_goals exact effect
  case product =>
    have effect := issue_goCpb (f := mmaIssue s) h ((if_neg counts).trans (cellIssue_room room (iw t.w 0 16))) quiet
    simp only [List.mem_cons, List.not_mem_nil, or_false, Prod.mk.injEq] at row
    obtain ⟨rfl, rfl⟩ | ⟨rfl, rfl⟩ := row
    all_goals exact effect
  case cell =>
    have effect := issue_goCpb (f := fun t => cellIssue s t 0) h (cellIssue_room room 0) quiet
    simp only [List.mem_cons, List.not_mem_nil, or_false, Prod.mk.injEq] at row
    obtain ⟨rfl, rfl⟩ | ⟨rfl, rfl⟩ | ⟨rfl, rfl⟩ := row
    all_goals exact effect

/-! ### Instruction words and queue words with errors (R14, R153, R164, R185) -/

/-- A reader of one queue with a corrected word counts it, and the word stands corrected. -/
theorem State.readingQueues_corrected {b q : Nat} (err : ((s.cpb b).queue q).err = 1) (slot unit : Nat) :
    s.readingQueues b slot unit [q] u = (u.countCe (pgCpb b)).modCpb b fun c => c.modQueue q fun x => { x with err := 0 } := by
  simp [State.readingQueues, err]

/-- The fetch of a word without errors. -/
theorem State.fetching_clean (clean : s.fetchErr t = 0) : s.fetching t u = u := by
  simp only [State.fetching, clean]

/-- The fetch of an uncorrectable word. -/
theorem State.fetching_ue (err : 2 ≤ s.fetchErr t) : s.fetching t u = s.storeUe t.b t.slot t.i 7 t.st.pc := by
  unfold State.fetching
  split
  next zero => omega
  next one => omega
  next => rfl

/-- The fetch of a corrected word. -/
theorem State.fetching_ce (err : s.fetchErr t = 1) : s.fetching t u = (u.countCe (pgCpb t.b)).modCpb t.b fun c =>
    { c with storeErr := c.storeErr.put 0 (t.place.base + t.st.pc) 0 } := by
  simp only [State.fetching, err]

section
variable {b : Cpb} {i : StreamIx} {o : Opc} {f : Thread → Issued}

/-- The row of the opcode of a stream's next word. -/
theorem issue_fetching (runs : s.thread b.val i.val = some t) (opcode : opcOf t.w = some o) :
    issue b i o s f = .next (s.fetching t (s.issued t (if legal t.w t.place t.set.flags then f t else .trap 1 {}))).finish := by
  simp only [issue, runs, opcode, if_true]
  rfl

/-- A row of another opcode changes nothing. -/
theorem issue_other (runs : s.thread b.val i.val = some t) (other : opcOf t.w ≠ some o) : issue b i o s f = .next s := by
  simp only [issue, runs, if_neg other]

/-- A stream that neither runs nor waits issues nothing. -/
theorem issue_none (halted : s.thread b.val i.val = none) : issue b i o s f = .next s := by
  simp only [issue, halted]

end

/-- Settles O41: what a word with errors and an excluded word come to. -/
theorem illegalInstruction : Obligations.IllegalInstruction := by
  refine ⟨fun s u b slot unit qs => ⟨fun q bad => ?ue, fun q only err => ?ce⟩, fun s b i o f =>
    ⟨fun t runs opcode excluded clean => ?illegal, fun t runs opcode err => ?fetchUe, fun t runs opcode allowed err => ?fetchCe,
      fun t runs unknown clean => ?unknown, fun t runs other => issue_other runs other, fun halted => issue_none halted⟩⟩
  case ue => simp only [State.readingQueues, bad]
  case ce => rw [only, State.readingQueues_corrected err]
  case illegal =>
    rw [issue_fetching runs opcode, State.fetching_clean clean, if_neg (Bool.eq_false_iff.mp excluded)]
    rfl
  case fetchUe => rw [issue_fetching runs opcode, State.fetching_ue err]
  case fetchCe => rw [issue_fetching runs opcode, State.fetching_ce err, if_pos allowed]
  case unknown =>
    simp only [exec, execNop, runs, unknown, State.fetching_clean clean]
    rfl

end Sys2Proof.Machine
end

section
/-!
Engines, the vector unit and the matrix cells (O42).
-/

namespace Sys2Proof.Machine
open Sys2Proof.Safety
variable {s u : State}

/-- A queue without errors, as a reader of it alone asks. -/
theorem cleanQueues_one {c : CpbSt} {q : Nat} (clean : cleanQueues c [q]) : (c.queue q).err = 0 := clean q (List.mem_singleton.mpr rfl)

/-! ### Transfer engines (R157, R160 to R162) -/

/-- The access of a transfer through its generator. -/
def transferAccess (s : State) (b a : Nat) (x : Transfer) (p : ProgSet) (t : Placed) (c : JobCfg) : Access :=
  { b := b, slot := p.slot, cfg := c, place := t, ag := a, space := ((s.cpb b).ag a).space, addr := ((s.cpb b).ag a).address
    n := ((s.cpb b).ag a).granule, align := 16, store := !x.isLoad }

section
variable {b a : Nat} {x : Transfer} {p : ProgSet} {t : Placed} {c : JobCfg} (placed : s.placedOn b x.stream = some (p, t, c))
  (passes : (transferAccess s b a x p t c).check = none) (ready : s.accessReady (transferAccess s b a x p t c) = true)
include placed passes ready

/-- An engine loads a granule of a transfer in its turn. -/
theorem State.granule_load (load : x.isLoad = true) (turn : (s.cpb b).inOrder x.id [] [x.queue] = true) :
    s.granule b a x = s.granuleLoad b a x (transferAccess s b a x p t c) := by
  rw [transferAccess, load] at passes ready
  simp only [State.granule, transferAccess, placed, load, passes, ready, turn, if_true]
  rfl

/-- An engine stores a granule of a transfer in its turn. -/
theorem State.granule_store (store : x.isLoad = false) (turn : (s.cpb b).inOrder x.id [x.queue] [] = true) :
    s.granule b a x = s.granuleStore b a x (transferAccess s b a x p t c) := by
  rw [transferAccess, store] at passes ready
  simp only [State.granule, transferAccess, placed, store, passes, ready, Bool.false_eq_true, if_false, turn]
  rfl

end

section
variable {b a : Nat} {x : Transfer} {acc : Access} {d : List Byte}

/-- A granule that fills its entry, or ends its transfer, pushes the entry where the queue has room. -/
theorem State.granuleLoad_pushes (last : 1024 ≤ x.partialEntry.length + acc.n ∨ x.left ≤ 1)
    (room : (if ((s.cpb b).queue x.queue).tail.isEmpty then 1 else 2) ≤ ((s.cpb b).queue x.queue).room)
    (loads : s.loadFor acc = (.ok d, u)) : s.granuleLoad b a x acc =
      (u.modCpb b fun c => c.modQueue x.queue fun q => q.pushWhole (x.partialEntry ++ d)).granuleMoved b a x [] := by
  have unfull : ¬((x.partialEntry.length + acc.n ≥ 1024 ∨ x.left ≤ 1) ∧
      ((s.cpb b).queue x.queue).room < if ((s.cpb b).queue x.queue).tail.isEmpty then 1 else 2) := fun full => absurd room (Nat.not_le.mpr full.2)
  simp only [State.granuleLoad, if_neg unfull, loads]
  exact if_pos last

/-- Any other granule joins the entry being filled. -/
theorem State.granuleLoad_gathers (fills : ¬(1024 ≤ x.partialEntry.length + acc.n ∨ x.left ≤ 1)) (loads : s.loadFor acc = (.ok d, u)) :
    s.granuleLoad b a x acc = u.granuleMoved b a x (x.partialEntry ++ d) := by
  have unfull : ¬((x.partialEntry.length + acc.n ≥ 1024 ∨ x.left ≤ 1) ∧
      ((s.cpb b).queue x.queue).room < if ((s.cpb b).queue x.queue).tail.isEmpty then 1 else 2) := fun full => fills full.1
  simp only [State.granuleLoad, if_neg unfull, loads]
  exact if_neg fills

/-- A granule whose bytes the queue holds without errors leaves it. -/
theorem State.granuleStore_takes (clean : cleanQueues (s.cpb b) [x.queue]) (held : acc.n ≤ ((s.cpb b).queue x.queue).avail)
    (stores : s.storeChecked acc (((s.cpb b).queue x.queue).peek acc.n) = (none, u)) : s.granuleStore b a x acc =
      ((u.modCpb b fun c => c.modQueue x.queue fun q => (q.take acc.n).2).popped b x.queue
        (((s.cpb b).queue x.queue).take acc.n).1).granuleMoved b a x [] := by
  simp only [State.granuleStore, if_neg (Nat.not_lt.mpr held), stores]
  exact State.readingQueues_clean clean acc.slot x.stream _

end

/-- The row of an engine with a transfer, on a block of an unfenced region. -/
theorem agGranuleTransfer_busy {b : Cpb} {a : Fin 8} {x : Transfer} (free : s.isFenced (b.val / 8) = false)
    (busy : ((s.cpb b.val).ag a.val).cur = some x) : exec (.agGranuleTransfer b a) s = .next (s.granule b.val a.val x).finish :=
  (if_neg (Bool.eq_false_iff.mp free)).trans (actWith_some busy s _)

/-! ### The vector unit (R155) -/

/-- The vector unit runs an operation whose sources are there without errors and whose destinations have room. -/
theorem State.vectorOp_runs {b i : Nat} {op : UnitOp} {p : ProgSet} {t : Placed} {cfg : JobCfg} {o : Opc} {src : List (List Byte)}
    {c c' : CpbSt} {gone : List (Nat × List (List Byte))} (placed : s.placedOn b i = some (p, t, cfg)) (opcode : opcOf op.word = some o)
    (turn : (s.cpb b).inOrder op.id (o.uses op.word).cons (o.uses op.word).prod = true)
    (clean : cleanQueues (s.cpb b) ((vecSources o op.word).map (·.q)))
    (taken : (s.cpb b).takeAll (vecSources o op.word) = some (src, c, gone))
    (pushed : c.pushAll (vecOutputs o op.word (vecResult o cfg op src).1 (vecResult o cfg op src).2.1) = some c') :
    s.vectorOp b i op = gone.foldl (fun s p => s.popped b p.1 p.2) (s.modCpb b fun _ =>
      { ((c'.modStream i fun x => { x with vec := x.vec.drop 1 }).addCond i (vecResult o cfg op src).2.2) with vecLast := i }) := by
  simp only [State.vectorOp, placed, opcode, turn, taken, pushed, State.readingQueues_clean clean]
  rfl

/-- The row of the vector unit in the turn of a stream with an operation. -/
theorem vectorOperation_turn {b : Cpb} {i : StreamIx} {op : UnitOp} {rest : List UnitOp} (free : s.isFenced (b.val / 8) = false)
    (turn : s.vecTurn b.val i.val = true) (ops : ((s.cpb b.val).stream i.val).vec = op :: rest) :
    exec (.vectorOperation b i) s = .next (s.vectorOp b.val i.val op).finish := by
  have due : (s.isFenced (b.val / 8) || !s.vecTurn b.val i.val) = false := by rw [free, turn]; rfl
  have head : ((s.cpb b.val).stream i.val).vec.head? = some op := by rw [ops, List.head?_cons]
  exact (if_neg (Bool.eq_false_iff.mp due)).trans (actWith_some head s _)

/-! ### The matrix cells (R155, R175 to R181) -/

/-- A cell serves the accumulator whose turn it is. -/
theorem cellRun_turn {b : Cpb} {cell : Fin 8} {acc : Fin 4} {os : List Opc} {x : UnitOp × Opc} (free : s.isFenced (b.val / 8) = false)
    (turn : s.cellTurn b.val cell.val acc.val = true) (head : (s.cpb b.val).accHead (4 * cell.val + acc.val) os = some x)
    (run : Nat → UnitOp × Opc → State) :
    cellRun b cell acc os s run = .next ((run (4 * cell.val + acc.val) x).cellServed b.val cell.val acc.val).finish := by
  have due : (s.isFenced (b.val / 8) || !s.cellTurn b.val cell.val acc.val) = false := by rw [free, turn]; rfl
  exact (if_neg (Bool.eq_false_iff.mp due)).trans (actWith_some head s _)

/-- A cell runs a RELEASE whose destination has room. -/
theorem State.releaseRun_pushes {b n : Nat} {op : UnitOp} {p : ProgSet} {t : Placed} {cfg : JobCfg} {c : CpbSt}
    (placed : s.placedOn b op.stream = some (p, t, cfg)) (turn : (s.cpb b).inOrder op.id [] [iw op.word 49 4] = true)
    (pushed : (s.cpb b).pushAll [{ q := iw op.word 49 4, pack := ib op.word 32, bytes := (releaseBytes cfg ((s.cpb b).accAt n) op).1 }] =
      some c) :
    s.releaseRun b n op = s.modCpb b fun _ => (c.modAcc n fun a => (if ib op.word 36 then a.zero a.intMode else a).popHead).addCond
      op.stream (condBits true (releaseBytes cfg ((s.cpb b).accAt n) op).2) := by
  simp only [State.releaseRun, placed, turn, pushed]
  rfl

/-- A cell runs an ACCLD whose source is there without errors. -/
theorem State.accldRun_takes {b n : Nat} {op : UnitOp} {src : List (List Byte)} {c : CpbSt} {gone : List (Nat × List (List Byte))}
    (turn : (s.cpb b).inOrder op.id [iw op.word 49 4] [] = true) (clean : cleanQueues (s.cpb b) [iw op.word 49 4])
    (taken : (s.cpb b).takeAll [{ q := iw op.word 49 4, n := 8192, keep := false }] = some (src, c, gone)) :
    s.accldRun b n op = gone.foldl (fun s x => s.popped b x.1 x.2) (s.modCpb b fun _ =>
      c.modAcc n fun a => ({ a.zero (ib op.word 36) with vals := loadVals (src.getD 0 []) } : Acc).popHead) := by
  simp only [State.accldRun, turn, taken, State.readingQueues_clean clean]
  rfl

/-- Settles O42: each unit runs its operation in its turn. -/
theorem unitsComplete : Obligations.UnitsComplete := by
  refine ⟨fun s u b a x p t c d free => ?engine, 
    fun s b i op rest p t cfg o src c c' gone free turn ops placed opcode order clean taken pushed => ?vector,
    fun s b cell acc op o => ?step,
    fun s b cell acc op p t cfg => ?cell⟩
  case engine =>
    intro g q access last busy placed passes ready
    rw [agGranuleTransfer_busy free busy]
    refine ⟨fun load order loads => ?_, fun store order clean held stores => ?_⟩
    · rw [State.granule_load placed passes ready load order]
      exact ⟨fun ends room => congrArg (fun v : State => (.next v.finish : Out)) (State.granuleLoad_pushes ends room loads),
        fun going => congrArg (fun v : State => (.next v.finish : Out)) (State.granuleLoad_gathers going loads)⟩
    · rw [State.granule_store placed passes ready store order]
      exact congrArg (fun v : State => (.next v.finish : Out)) (State.granuleStore_takes clean held stores)
  case vector =>
    rw [vectorOperation_turn free turn ops, State.vectorOp_runs placed opcode order clean taken pushed]
  case step =>
    intro n free turn head
    exact cellRun_turn free turn head fun n x => s.kgroup b.val n x.1 x.2
  case cell =>
    intro n q free turn placed
    refine ⟨fun head order c pushed => ?release,
      fun head => cellRun_turn free turn head fun n x => s.zaccRun b.val n x.1, fun head order clean src c gone taken => ?accld⟩
    case release =>
      refine (cellRun_turn free turn head fun n x => s.releaseRun b.val n x.1).trans ?_
      rw [State.releaseRun_pushes placed order pushed]
    case accld =>
      refine (cellRun_turn free turn head fun n x => s.accldRun b.val n x.1).trans ?_
      rw [State.accldRun_takes order clean taken]

end Sys2Proof.Machine
end

section
/-!
Program sets, channels, the fault pin, power and modes (O44, O45, O58 to O60).
-/

namespace Sys2Proof.Machine
variable {s : State}

/-! ### Program sets (R197, R204, R205) -/

/-- The first load is for a block that accepts work. -/
theorem State.nextLoad_head {b : Nat} {l : Load} {rest : List Load} (loads : s.loads = l :: rest) (own : l.cpb = b)
    (live : s.quiesced (pgCpb b) = false) : s.nextLoad b = some l := by
  simp [State.nextLoad, loads, own, live]

/-- Settles O44: each row finds its load, its set or its stream. -/
theorem programSetsComplete : Obligations.ProgramSetsComplete :=
  ⟨fun s _ _ _ loads own live => actWith_some (State.nextLoad_head loads own live) s _,
    fun s _ _ finishes => actIf_due finishes s _, fun s _ _ expired => actIf_due expired s _⟩

/-! ### Memory channels (R309, R315, R325 to R332) -/

/-- Dropping the keys of a condition leaves the others. -/
theorem Tbl.look_drop {α : Type} {d : α} {p : Nat → Bool} (t : Tbl α) (a : Nat) :
    Tbl.look d (t.drop p) a = if p a then d else Tbl.look d t a := by
  induction t with
  | nil => exact (ite_self d).symm
  | cons kv t ih =>
    obtain ⟨k, v⟩ := kv
    rw [Tbl.drop] at ih ⊢
    by_cases here : a = k
    · subst here
      cases gone : p a <;> simp_all [Tbl.look]
    · cases gone : p k <;> simp_all [Tbl.look]

/-- A zeroed block reads 0, and every other byte as before. -/
theorem State.zeroBlock_look (s : State) (m a : Nat) :
    Tbl.look 0 (s.zeroBlock m).mem a = if a / 2 ^ 37 = m then 0 else Tbl.look 0 s.mem a := by
  refine (Tbl.look_drop (p := fun a => a / 2 ^ 37 == m) s.mem a).trans ?_
  simp only [beq_iff_eq]

/-- Settles O45: each row acts on its channel or block when it is due. -/
theorem channelsComplete : Obligations.ChannelsComplete := by
  refine ⟨fun s ch => ⟨fun q head => actWith_some head s _, fun m serves due => actIf_due ?_ s _, fun d serves due => actIf_due ?_ s _,
    fun due => actIf_due due s _⟩,
    fun s m => ⟨fun r trains => actIf_due trains s _, fun zeroes => actIf_due zeroes s _, s.zeroBlock_look m.val⟩⟩
  all_goals
    rw [serves, Bool.true_and, decide_eq_true_iff]
    omega

/-! ### FAULT_N and the maintenance lock (R384, R400, R403) -/

/-- An event leaves the fault pin and its pulse. -/
theorem State.raise_flt (s : State) (e : Occ) :
    (s.raise e).flt = { s.flt with queue := (s.raise e).flt.queue, containedLogged := (s.raise e).flt.containedLogged } := by
  obtain ⟨t, recorded, raised⟩ := s.raise_recorded e
  have marked : (s.marked e).flt = s.flt := by rw [s.marked_frame e]
  rw [raised, ← marked]
  exact recorded.flt

@[simp] theorem State.raise_sec (s : State) (e : Occ) : (s.raise e).sec = s.sec := by rw [State.raise_frame]

@[simp] theorem State.eccLost_sec (s : State) (x : Store) (job : Option Nat) : (s.eccLost x job).sec = s.sec := by
  rw [State.eccLost, State.raise_sec, State.countUe_frame]
  split <;> rfl

@[simp] theorem State.eccRead_sec (s : State) (x : Store) (job : Option Nat) : (s.eccRead x job).2.sec = s.sec := by
  unfold State.eccRead
  split
  · rfl
  · split
    · rw [State.countCe_frame]
      rfl
    · exact s.eccLost_sec x job

/-- A record of attestation leaves the maintenance lock. -/
theorem State.attest_maintOpen (s : State) (k : AttestKind) (content : List Byte) :
    (s.attest k content).sec.maintOpen = s.sec.maintOpen := by
  unfold State.attest
  simp only [State.setReg_sec, State.eccRead_sec]

/-- A pulse whose release is pending, or a test's, ends with the pin deasserted. -/
theorem State.endPulse_deasserts (ends : s.flt.testPulse = true ∨ s.flt.releasePending = true) : s.endPulse = s.deassertFaultn :=
  if_pos (ends.imp_right .inl)

/-- The pulse of an assertion that nothing has released ends as `hold` says. -/
theorem State.endPulse_holds (on : s.flt.faultn = true) (real : s.flt.testPulse = false) (kept : s.flt.releasePending = false) :
    s.endPulse.flt.faultn = s.faultnHold ∧ s.endPulse.flt.pulseEnd = none := by
  unfold State.endPulse
  cases hold : s.faultnHold with
  | false => simp [State.deassertFaultn]
  | true => simp [real, kept, on]

/-- A test of a deasserted pin gives a pulse of 10 µs that a test's end ends. -/
theorem State.testFaultn_pulses (off : s.flt.faultn = false) : s.testFaultn.flt.faultn = true ∧
    s.testFaultn.flt.pulseEnd = some (s.now + 10000) ∧ s.testFaultn.flt.testPulse = true := by
  simp only [State.testFaultn, off]
  rw [State.raise_flt]
  exact ⟨rfl, rfl, rfl⟩

/-- Both consents open a closed lock where they lie within 60 s of each other. -/
theorem State.tryLock_opens {a b : Nat} (m : s.sec.consentM = some a) (o : s.sec.consentO = some b) (closed : s.sec.maintOpen = false) :
    s.tryLock.sec.maintOpen = true ↔ max a b - min a b ≤ 60 * 10 ^ 9 := by
  unfold State.tryLock
  rw [m, o]
  by_cases near : max a b - min a b ≤ 60 * 10 ^ 9
  · simp only [closed, Bool.not_false, true_and, near, if_true, iff_true]
    rw [State.raise_sec, State.attest_maintOpen]
  · simp only [near, and_false, if_false, closed, iff_false]
    exact Bool.false_ne_true

/-- Only MNT forces an event, with the lock open. -/
theorem State.mayWriteHeader_force {role : Nat} (may : s.mayWriteHeader Off.BLK_EVENT_FORCE role = true) :
    role = 4 ∧ s.sec.maintOpen = true := by
  have own : s.mayWriteHeader Off.BLK_EVENT_FORCE role = (role == 4 && s.sec.maintOpen) := rfl
  simpa [own] using may

/-- Settles O58: what each step of the pin and the lock comes to. -/
theorem pinAndLock : Obligations.PinAndLock := by
  intro s
  refine ⟨⟨rfl, rfl, rfl⟩, fun on idle => ?release, fun t on pulse => ?pending, fun off => ?test, State.endPulse_holds,
    fun w first => if_pos first, fun a b => State.tryLock_opens, fun role => State.mayWriteHeader_force⟩
  case release =>
    simp only [State.releaseFaultn, on, idle]
    rfl
  case pending =>
    have later : s.releaseFaultn = { s with flt := { s.flt with releasePending := true } } := by
      simp only [State.releaseFaultn, on, pulse]
      rfl
    refine ⟨later, ?_⟩
    rw [later, State.endPulse_deasserts (.inr rfl)]
    rfl
  case test =>
    obtain ⟨asserted, pulse, own⟩ := State.testFaultn_pulses off
    refine ⟨asserted, pulse, ?_⟩
    rw [State.endPulse_deasserts (.inl own)]
    rfl

/-! ### Faults, power and modes (R411 to R458) -/

/-- The pulse of the fault pin is over. -/
theorem State.pulseOver_of {t : Nat} (pulse : s.flt.pulseEnd = some t) (due : t ≤ s.now) : s.pulseOver = true := by
  rw [State.pulseOver, pulse]
  exact decide_eq_true due

/-- Settles O59: each row acts under its condition. -/
theorem faultsAndPowerComplete : Obligations.FaultsAndPowerComplete := by
  refine ⟨fun s a b two freeA freeB => (if_neg two).trans (actIf_due (by simp [freeA, freeB]) s _),
    fun s work => actIf_due (by simpa using work) s _, fun s t pulse due => actIf_due (State.pulseOver_of pulse due) s _,
    fun s vin => ⟨fun up => actIf_due (decide_eq_true up) s _, fun aux low => actIf_due (by simp [aux, low]) s _,
      fun rails low => actIf_due (by simp [rails, low]) s _, fun rails high => actIf_due (by simp [rails, high]) s _,
      fun aux awake above below => ?low⟩,
    fun s => ⟨fun off => actIf_due (by rw [off]; rfl) s _, fun on => actIf_due on s _, fun aux => actIf_due aux s _,
      fun rails => actIf_due rails s _, fun v may => actIf_due may s _,
      fun r aux all => (if_neg (not_not_intro all)).trans (actIf_due aux s _),
      fun awake => ⟨fun f => actIf_due awake s _, fun w => actIf_due awake s _, fun due => actIf_due (by rw [awake, due]; rfl) s _⟩⟩⟩
  case low =>
    have due : (s.pwr.aux && decide (4400 ≤ vin.toNat ∧ vin.toNat < 4600)) = true := by simp [aux, above, below]
    simp only [exec, execInputLow, actIf_due due, if_pos awake]

/-- Settles O60: each row acts under its condition. -/
theorem modesComplete : Obligations.ModesComplete := by
  refine fun s => ⟨fun d v old found => actWith_some found s _, fun d x found => actWith_some found s _,
    fun awake due => actIf_due (by rw [awake, due]; rfl) s _, fun closed => actIf_due closed s _, fun b datapath =>
      ⟨fun st idle => actIf_due (by simp [datapath, st, idle]) s _, fun st => actIf_due (by simp [datapath, st]) s _⟩⟩

end Sys2Proof.Machine
end
